-- ==== Sys2Proof/Word.lean ====
section
/-! DEFINITION. Bytes, sparse tables, little-endian layout (R6, R7) and the exact values of R85. -/
namespace Sys2Proof

/-- One byte (R7). -/
abbrev Byte := BitVec 8

/-- A sparse table from numbers to values.
Canonical form: keys strictly rising, no entry equal to the table's default (`tabWf` in Machine/Table.lean). -/
abbrev Tab (α : Type) := List (Nat × α)

/-- The class of an exact value (R85). -/
inductive Cls
  | zero | fin | inf | nan
  deriving DecidableEq, Repr

/-- An exact value (R85): a zero, infinity or NaN with a sign, or (-1)^sgn * m * 2^e with m > 0. -/
structure Exact where
  cls : Cls
  sgn : Bool
  m : Nat
  e : Int
  deriving DecidableEq, Repr

/-- The exact zero of sign `s`. -/
def Exact.zero (s : Bool) : Exact := ⟨.zero, s, 0, 0⟩
/-- The exact infinity of sign `s`. -/
def Exact.inf (s : Bool) : Exact := ⟨.inf, s, 0, 0⟩
/-- The exact NaN of sign `s`. -/
def Exact.nan (s : Bool) : Exact := ⟨.nan, s, 0, 0⟩
/-- The finite non-zero value (-1)^s * m * 2^e. -/
def Exact.fin (s : Bool) (m : Nat) (e : Int) : Exact := ⟨.fin, s, m, e⟩

/-- An operand of one combine (R108): EMPTY, a partial, a term of a weighted sum, or an I80 partial. -/
inductive Operand
  | empty
  | part (x : Exact)
  | term (x : Exact)
  | int (n : Int)
  deriving DecidableEq, Repr

end Sys2Proof
end

