-- ==== Sys2Proof/Syntax.lean ====
section
/-! DEFINITION. The names of the block's units and the commands: one constructor per row of spec/opcode_table.json.
A command carries what its sender presents at the boundary or, for a step of the block's own, which unit takes the step
and what that unit physically meets there (a sampled wire, an error, a verdict of a self-test).
What Gaffer or a port reads from memory outside the block comes as the bytes read (log entry 4). -/
namespace Sys2Proof

/-- The tree links of Table 2-1, named by their lower unit. -/
inductive LinkId
  | cell (c : Nat)     -- cell c to its block hub
  | standby (c : Nat)  -- cell c to the buddy hub
  | block (b : Nat)    -- block hub b to its region hub
  | region (r : Nat)   -- region hub r to its half root
  | half (h : Nat)     -- half root h to the spine root
  deriving DecidableEq, Repr

/-- One direction of a tree link: up, towards the spine root, or down (R28). -/
structure LinkDir where
  link : LinkId
  down : Bool
  deriving DecidableEq, Repr

/-- The nodes of the tree (Table 1-4). -/
inductive NodeId
  | cell (c : Nat)
  | block (b : Nat)
  | region (r : Nat)
  | half (h : Nat)
  | spine
  deriving DecidableEq, Repr

/-- Where a stall is seen: a child of a node on a channel and context (R54), or the receive area of a link port (R230). -/
inductive StallSite
  | child (n : NodeId) (ch : Nat) (ctx : Bool) (slot : Nat)
  | port (p : Nat) (vcb : Bool)
  deriving DecidableEq, Repr

/-- A lockstep pair whose copies disagree (Table 11-1): a node of the tree, or Marver's step control. -/
inductive LockSite
  | node (n : NodeId)
  | steps
  deriving DecidableEq, Repr

/-- The units of Table 11-7. -/
inductive UnitId
  | copy (n : NodeId)
  | blockHub (b : Nat)
  | slice (i : Nat)
  | cane (cn : Nat)
  deriving DecidableEq, Repr

/-- The arrays of Table 11-5 in which a word may fail. -/
inductive EccSite
  | stage (n : NodeId) (ch : Nat) (ctx : Bool) (down : Bool)
  | pool (sched pass unit : Nat)
  | linkItem (p : Nat) (vcb : Bool) (receive : Bool)
  | group (gid : Nat)
  | object (soid : Nat)
  | channel (cn : Nat)
  | sched (n : Nat)
  | slot (n : Nat)
  | free (array : Nat)
  | shared (array : Nat)
  | gaffer
  | prot (entry : Nat) (both : Bool)
  deriving DecidableEq, Repr

/-- A lane found in error by a PRBS run (R44): a payload lane, or the spare lane of a group. -/
inductive LaneFail
  | lane (i : Nat)
  | spare (g : Nat)
  deriving DecidableEq, Repr

/-- What the flash device reports when an operation ends (R350, R361). -/
inductive FlashEnd
  | ok
  | failed
  | differs
  deriving DecidableEq, Repr

/-- What the Lehr scrub reads (R365). -/
inductive ScrubItem
  | record (rsn : Nat)
  | anchor (i : Nat)
  | sectorRec (s : Nat)
  | image (i : Nat)
  deriving DecidableEq, Repr

/-- The configuration kinds of Table 13-5 that a change writes. -/
inductive ConfKind
  | laneMap | rehome | fence | slices
  deriving DecidableEq, Repr

/-- The commands: the rows of spec/opcode_table.json, in their order. -/
inductive Instr
  /-- CHIP_PLACE (R26). -/
  | chipPlace
  /-- TREE_BEAT_RECEIVE (R31): the three control copies, the beat's data bytes and its CRC as sampled. -/
  | treeBeatReceive (d : LinkDir) (a b c : BitVec 20) (data : List Byte) (crc : BitVec 16)
  /-- LINK_CTL_DISAGREE (R31): copy 0-2 and bit 0-19. -/
  | linkCtlDisagree (d : LinkDir) (copy bit : Nat)
  /-- LIVE_TIMEOUT (R32). -/
  | liveTimeout (d : LinkDir)
  /-- NAK_RETURN (R40): the sender of `d` samples NAK for a channel and context. -/
  | nakReturn (d : LinkDir) (ch : Nat) (ctx : Bool)
  /-- LANE_CHECK_TRIGGER (R43). -/
  | laneCheckTrigger (d : LinkDir)
  /-- REWIND (R41): the sender of `d` receives REWIND. -/
  | rewind (d : LinkDir) (ch : Nat) (ctx : Bool)
  /-- HELD (R39): the sender of `d` receives HELD for its oldest chunk not yet held. -/
  | held (d : LinkDir) (ch : Nat) (ctx : Bool)
  /-- RELEASE (R39): the sender of `d` receives RELEASE for its oldest retained chunk. -/
  | release (d : LinkDir) (ch : Nat) (ctx : Bool)
  /-- BEAT_CREDIT (R38). -/
  | beatCredit (d : LinkDir) (ch : Nat) (ctx : Bool)
  /-- LINK_GRANT (R48). -/
  | linkGrant (d : LinkDir)
  /-- FRAME_RECEIVE (R36): the oldest whole frame of a channel and context that `d` has brought; channel 16 names LINKCTL frames. -/
  | frameReceive (d : LinkDir) (ch : Nat) (ctx : Bool)
  /-- UP_CHUNK_OPEN (R50). -/
  | upChunkOpen (cell ch : Nat)
  /-- UP_COMBINE (R49). -/
  | upCombine (n : NodeId) (ch : Nat) (ctx : Bool)
  /-- DOWN_OFFER (R53). -/
  | downOffer (n : NodeId) (ch : Nat) (ctx : Bool)
  /-- STALL_TIMEOUT (R209). -/
  | stallTimeout (site : StallSite)
  /-- LANE_CHECK (R67): a LANE_CHECK frame that `d` has brought. -/
  | laneCheck (d : LinkDir)
  /-- PRBS_COUNT_END (R44): the lanes of `d` found in error. -/
  | prbsCountEnd (d : LinkDir) (fails : List LaneFail)
  /-- LANE_REPORT (R67): a LANE_REPORT frame that `d` has brought. -/
  | laneReport (d : LinkDir)
  /-- LINKCTL_RETRY (R67). -/
  | linkctlRetry (d : LinkDir)
  /-- HOME_LOST (R57): a HOME_LOST frame that `d` has brought. -/
  | homeLost (d : LinkDir)
  /-- REHOME_GO (R57): a REHOME_GO frame that `d` has brought. -/
  | rehomeGo (d : LinkDir)
  /-- LOCKSTEP_MISMATCH (R62, R295): at a node, the channel, context and path of the beat; Marver's step control has none of them. -/
  | lockstepMismatch (n : LockSite) (ch : Nat) (ctx down : Bool)
  /-- KNOWN_ANSWER_DONE (R63): which copies failed. -/
  | knownAnswerDone (n : NodeId) (failA failB : Bool)
  /-- SO_OP_APPLY (R138): the first `n` operations in flight to the object reach it on one edge. -/
  | soOpApply (soid n : Nat)
  /-- SO_NOTICE (R153): the oldest notice on its way to the cell arrives. -/
  | soNotice (cell : Nat)
  /-- WAIT_TIMEOUT (R141). -/
  | waitTimeout (core : Nat)
  /-- CP_CG_ACK (R186). -/
  | cpCgAck (core : Nat) (level : Bool)
  /-- SO_REMOTE_OP (R150): the oldest SO_OP flit accepted on the port for this chip. -/
  | soRemoteOp (p : Nat)
  /-- SO_REFUSE (R150). -/
  | soRefuse (p : Nat)
  /-- CANE_RELEASE (R156). -/
  | caneRelease (cn : Nat)
  /-- CANE_RELEASE_ARRIVE (R157). -/
  | caneReleaseArrive (cn cell : Nat)
  /-- CANE_VOTE_DISAGREE (R158): the link's upper node by level and number, the slot, the channel and the copy. -/
  | caneVoteDisagree (level node slot cn copy : Nat)
  /-- CANE_TOKEN (R164): the oldest Cane token accepted on the port for this chip's ring. -/
  | caneToken (p : Nat)
  /-- MSG_EMIT (R401): an edge with hw_msg_rdy as given. -/
  | msgEmit (rdy : Bool)
  /-- CP_REG_WRITE (R169, R170): an access to a register with no action of its own. -/
  | cpRegWrite (core : Nat) (we : Bool) (off : Nat) (data : BitVec 64)
  /-- CP_PUSH (R173): the highest word of CP_PUSH is accepted. -/
  | cpPush (core : Nat) (hi : BitVec 64)
  /-- CP_PULL (R173). -/
  | cpPull (core : Nat) (hi : BitVec 64)
  /-- CP_SCALAR (R181). -/
  | cpScalar (core : Nat) (hi : BitVec 64)
  /-- SCALAR_RES_READ (R181). -/
  | scalarResRead (core : Nat)
  /-- WRES_READ (R185). -/
  | wresRead (core : Nat)
  /-- POSTING_ARRIVE (R173): the oldest posting on its way to the cell arrives. -/
  | postingArrive (cell : Nat)
  /-- NOPOST_TIMEOUT (R173): kind 0 push, 1 pull, 2 scalar. -/
  | nopostTimeout (core kind : Nat)
  /-- CP_RD_DATA (R175). -/
  | cpRdData (core : Nat) (data : BitVec 128) (err : Bool)
  /-- CP_WR_ACK (R177). -/
  | cpWrAck (core : Nat) (err : Bool)
  /-- CP_SYNC_ARRIVE (R183): the highest word of CP_SYNC is accepted, with OP ARRIVE below it. -/
  | cpSyncArrive (core : Nat) (hi : BitVec 64)
  /-- CP_SYNC_SIGNAL (R183). -/
  | cpSyncSignal (core : Nat) (hi : BitVec 64)
  /-- CP_SYNC_RESET (R183). -/
  | cpSyncReset (core : Nat) (hi : BitVec 64)
  /-- CP_SYNC_READ (R183). -/
  | cpSyncRead (core : Nat) (hi : BitVec 64)
  /-- SYNC_ORD_MET (R183). -/
  | syncOrdMet (core : Nat)
  /-- CP_CANE_ARRIVE (R184): the word of CP_CANE, with OP ARRIVE. -/
  | cpCaneArrive (core : Nat) (w : BitVec 64)
  /-- CP_CANE_ARRIVE_WAIT (R184). -/
  | cpCaneArriveWait (core : Nat) (w : BitVec 64)
  /-- CP_CANE_READ (R184). -/
  | cpCaneRead (core : Nat) (w : BitVec 64)
  /-- CP_WAIT_GEN (R139): the highest word of CP_WAIT is accepted, with MODE GEN below it. -/
  | cpWaitGen (core : Nat) (hi : BitVec 64)
  /-- CP_WAIT_COUNT (R139). -/
  | cpWaitCount (core : Nat) (hi : BitVec 64)
  /-- CP_WAIT_CANE (R185). -/
  | cpWaitCane (core : Nat) (hi : BitVec 64)
  /-- CP_WAIT_PUSH (R185). -/
  | cpWaitPush (core : Nat) (hi : BitVec 64)
  /-- CP_WAIT_PULL (R185). -/
  | cpWaitPull (core : Nat) (hi : BitVec 64)
  /-- CP_WAIT_SCALAR (R185). -/
  | cpWaitScalar (core : Nat) (hi : BitVec 64)
  /-- CP_WAIT_FENCE (R185). -/
  | cpWaitFence (core : Nat) (hi : BitVec 64)
  /-- FENCE_PULLVIS (R187). -/
  | fencePullvis (core : Nat)
  /-- FENCE_SYNC (R187). -/
  | fenceSync (core : Nat)
  /-- FENCE_PUSHHELD (R187). -/
  | fencePushheld (core : Nat)
  /-- COMMIT_NOTICE (R282): the oldest commit notice on its way to the cell arrives. -/
  | commitNotice (cell : Nat)
  /-- MB_CMD_WRITE (R328): one host access in mailbox `mb`, at a word offset below 0x100. -/
  | mbCmdWrite (mb off : Nat) (be : BitVec 8) (data : BitVec 64)
  /-- MB_SERVE_SELECT (R330). -/
  | mbServeSelect
  /-- IF_QUERY (R334), the command being served. -/
  | ifQuery
  /-- TX_BEGIN (R338). -/
  | txBegin
  /-- TX_COMMIT (R339). -/
  | txCommit
  /-- TX_PAUSE_HELD (R339). -/
  | txPauseHeld (mb : Nat)
  /-- TX_PAUSE_TIMEOUT (R339). -/
  | txPauseTimeout (mb : Nat)
  /-- TX_ROLLBACK (R340). -/
  | txRollback
  /-- TX_EXPIRE (R341). -/
  | txExpire (mb : Nat)
  /-- GROUP_CREATE (R192), with the bytes of the member list read from chip memory. -/
  | groupCreate (mem : List Byte)
  /-- GROUP_UPDATE (R190), with the bytes of the member list. -/
  | groupUpdate (mem : List Byte)
  /-- GROUP_ENABLE (R200). -/
  | groupEnable
  /-- MASK_COMPILE_DONE (R200). -/
  | maskCompileDone (gid : Nat)
  /-- GROUP_DISABLE (R198). -/
  | groupDisable
  /-- GROUP_DESTROY (R196). -/
  | groupDestroy
  /-- GROUP_QUERY (R189). -/
  | groupQuery
  /-- GROUP_LOGS (R290). -/
  | groupLogs
  /-- DRAIN_END (R198). -/
  | drainEnd (gid : Nat)
  /-- DRAIN_STUCK (R198). -/
  | drainStuck (gid : Nat)
  /-- HANDSHAKE (R201): the oldest handshake flit accepted on the port for this chip. -/
  | handshake (p : Nat)
  /-- PEER_WAIT (R201). -/
  | peerWait (gid : Nat)
  /-- COLL_POST (R243). -/
  | collPost
  /-- SO_ALLOC (R336). -/
  | soAlloc
  /-- SO_FREE (R133). -/
  | soFree
  /-- SO_QUERY (R334). -/
  | soQuery
  /-- CANE_BIND (R336). -/
  | caneBind
  /-- CANE_UNBIND (R336). -/
  | caneUnbind
  /-- HOST_SLOT_MAP (R336). -/
  | hostSlotMap
  /-- HOST_SLOT_UNMAP (R406). -/
  | hostSlotUnmap
  /-- TASK_BIND (R336), with the 640 bytes of the core mask. -/
  | taskBind (mem : List Byte)
  /-- TASK_SUSPEND (R145). -/
  | taskSuspend
  /-- TASK_RESUME (R145). -/
  | taskResume
  /-- TASK_KILL (R336). -/
  | taskKill
  /-- TASK_RELEASE (R148). -/
  | taskRelease
  /-- SCHED_LOAD (R262), with the bytes of the header and descriptors. -/
  | schedLoad (mem : List Byte)
  /-- SCHED_UNLOAD (R267). -/
  | schedUnload
  /-- SCHED_UNLOAD_TIMEOUT (R267). -/
  | schedUnloadTimeout (n : Nat)
  /-- CHANNEL_PIN (R207). -/
  | channelPin
  /-- CHANNEL_WEIGHT (R208). -/
  | channelWeight
  /-- VCB_WEIGHT_SET (R211). -/
  | vcbWeightSet
  /-- HUB_PLACE (R337). -/
  | hubPlace
  /-- DELIVERY_MODE (R190). -/
  | deliveryMode
  /-- LINK_CLASS_SET (R212). -/
  | linkClassSet
  /-- HALF_CLOCK (R384). -/
  | halfClock
  /-- ESC_SET (R315). -/
  | escSet
  /-- POWER_CAP_SET (R385). -/
  | powerCapSet
  /-- TENANT_RESET (R308). -/
  | tenantReset
  /-- SERVICE_RESET (R375). -/
  | serviceReset
  /-- SERVICE_RESET_MEM_WAIT (R375). -/
  | serviceResetMemWait
  /-- UNIT_RETURN (R320). -/
  | unitReturn
  /-- UNIT_ABANDON (R320). -/
  | unitAbandon
  /-- RETEST_DONE (R321): the unit's retest passed or failed. -/
  | retestDone (u : UnitId) (pass : Bool)
  /-- SHADOW_COMPARE (R321): the outputs agreed, or the unit being replaced failed (R322). -/
  | shadowCompare (u : UnitId) (agree liveFailed : Bool)
  /-- FAULT_READ (R364). -/
  | faultRead
  /-- FW_UPDATE (R347), with the bytes of the image. -/
  | fwUpdate (mem : List Byte)
  /-- FW_ACTIVATE (R347). -/
  | fwActivate
  /-- LEHR_WRITE (R367), with the source bytes. -/
  | lehrWrite (mem : List Byte)
  /-- PROT_PROPOSE (R343), with the bytes of the change record. -/
  | protPropose (mem : List Byte)
  /-- PROT_CONFIRM (R343). -/
  | protConfirm
  /-- PROT_QUERY (R343). -/
  | protQuery
  /-- PROPOSAL_EXPIRE (R343). -/
  | proposalExpire
  /-- SEC_MB1_TRANSFER (R345): the words of one inbound transfer on channel 1. -/
  | secMb1Transfer (words : List (BitVec 32))
  /-- SEC_VERDICT (R347). -/
  | secVerdict (w : BitVec 32)
  /-- SEC_VERDICT_TIMEOUT (R347). -/
  | secVerdictTimeout
  /-- GAFFER_LOCKSTEP (R311): a mismatch, or (ecc) an uncorrectable word. -/
  | gafferLockstep (ecc : Bool)
  /-- GAFFER_RESTART_DONE (R311). -/
  | gafferRestartDone
  /-- MEM_RDATA (R219). -/
  | memRdata (port tag : Nat) (data : BitVec 1024) (last err : Bool)
  /-- MEM_WACK (R219). -/
  | memWack (port tag : Nat) (err : Bool)
  /-- MEM_FACK (R220). -/
  | memFack (port tag : Nat)
  /-- LINK_UP (R224). -/
  | linkUp (p : Nat)
  /-- LINK_DOWN (R377). -/
  | linkDown (p : Nat)
  /-- ROUTER_CREDIT (R224): VCU and VCB credits returned, 0-8 each. -/
  | routerCredit (p u b : Nat)
  /-- PACKET_VERDICT (R229): the TAIL flit of the packet in the receive area. -/
  | packetVerdict (p : Nat) (vcb : Bool) (tail : BitVec 512)
  /-- CTRL_FLIT_RECEIVE (R229). -/
  | ctrlFlitReceive (p : Nat) (vcb : Bool) (flit : BitVec 512)
  /-- ACK (R228): the oldest ACK accepted on the port. -/
  | ack (p : Nat)
  /-- NAK (R228). -/
  | nak (p : Nat)
  /-- CREDIT (R230). -/
  | credit (p : Nat)
  /-- RESEND_TIMEOUT (R228). -/
  | resendTimeout (p : Nat) (vcb : Bool)
  /-- TRIGGER_NOTICE (R238): the oldest batch of trigger notices on its way to Marver. -/
  | triggerNotice
  /-- STEP_START (R237). -/
  | stepStart (sched pass step : Nat)
  /-- PASS_START (R216). -/
  | passStart (sched : Nat)
  /-- RESERVATION_AGE (R216). -/
  | reservationAge (sched : Nat)
  /-- PIECE_TAKE (R238). -/
  | pieceTake (slice : Nat)
  /-- PIECE_DONE (R233): whether the slice's copies disagreed. -/
  | pieceDone (slice : Nat) (mismatch : Bool)
  /-- SLICE_GATE_TIMER (R372). -/
  | sliceGateTimer (slice : Nat)
  /-- SLICE_POWERED (R372). -/
  | slicePowered (slice : Nat)
  /-- STEP_COMPLETE (R265). -/
  | stepComplete (sched pass step : Nat)
  /-- PASS_END (R241). -/
  | passEnd (sched pass : Nat)
  /-- DONE (R281): the oldest DONE packet accepted on the port for this chip. -/
  | done (p : Nat)
  /-- COMMIT (R282). -/
  | commit (p : Nat)
  /-- POISON (R286). -/
  | poison (p : Nat)
  /-- POISON_DIE_QUIESCE (R286). -/
  | poisonDieQuiesce (gid : Nat)
  /-- BUMPED (R287). -/
  | bumped (p : Nat)
  /-- GO (R287). -/
  | go (p : Nat)
  /-- POISON_STUCK (R293). -/
  | poisonStuck (gid : Nat)
  /-- ABORT (R307): the oldest ABORT flit accepted on the port for this chip. -/
  | abort (p : Nat)
  /-- FAULT_REPORT (R299): the collectors sample every pair that stands at 1/0. -/
  | faultReport
  /-- ABORT_CLEANUP_END (R305). -/
  | abortCleanupEnd (gid : Nat)
  /-- ERR_WIRE_FAULT (R298): a source's pair read 0/0 or 1/1 on 4 edges. -/
  | errWireFault (skind sidx : Nat)
  /-- SYNDROME_POLL (R298). -/
  | syndromePoll (skind sidx : Nat)
  /-- COLLECTOR_MISMATCH (R312): node 0-74, and whether the spine collector has failed to write for 64 cycles. -/
  | collectorMismatch (node : Nat) (unwritable : Bool)
  /-- ESC_TIMER_C2 (R315): the C2 timer of a group or tenant. -/
  | escTimerC2 (idx : Nat)
  /-- ESC_TIMER_C3 (R315). -/
  | escTimerC3
  /-- ECC_ERROR (R310). -/
  | eccError (site : EccSite) (single : Bool)
  /-- SRAM_SCRUB (R310). -/
  | sramScrub
  /-- TB_WINDOW_CHECK (R314): the ticks tb_count moved in the window. -/
  | tbWindowCheck (ticks : Int)
  /-- C2PEND_CLEAR (R316). -/
  | c2pendClear
  /-- FLASH_OP_DONE (R350). -/
  | flashOpDone (res : FlashEnd)
  /-- CONFIG_RECORD_DUE (R360). -/
  | configRecordDue (k : ConfKind)
  /-- FLASH_HOUR_BUDGET (R362). -/
  | flashHourBudget
  /-- LEHR_SCRUB_STEP (R365): what was read, and the most corrected bits of one of its frames. -/
  | lehrScrubStep (item : ScrubItem) (bits : Nat)
  /-- SCRUB_RECORD (R365). -/
  | scrubRecord
  /-- FLASH_READY_TIMEOUT (R351). -/
  | flashReadyTimeout
  /-- RST_COLD (R373). -/
  | rstCold
  /-- RST_COLD_RELEASE (R368), with tst_en as sampled (R416). -/
  | rstColdRelease (tstEn : Bool)
  /-- RST_BLK (R373). -/
  | rstBlk
  /-- RST_BLK_RELEASE (R373). -/
  | rstBlkRelease
  /-- POWER_ON (R319). -/
  | powerOn
  /-- BOOT_ANCHORS_APPLIED (R381). -/
  | bootAnchorsApplied
  /-- FIRMWARE_START (R381). -/
  | firmwareStart
  /-- SLICE_KAC_DONE (R381): bit i is 1 when slice i failed. -/
  | sliceKacDone (failed : BitVec 16)
  /-- TRAINING_WAVE_END (R382): the lanes found in error per direction of the wave. -/
  | trainingWaveEnd (fails : List (LinkDir × List LaneFail))
  /-- PWR_BRAKE (R387). -/
  | pwrBrake
  /-- BRAKE_RELEASE (R388). -/
  | brakeRelease
  /-- GOVERNOR_WINDOW (R385): the window's energy estimate in units of 0.1 W x 1 us. -/
  | governorWindow (est : Nat)
  /-- HOST_REG_WRITE (R397): a host access, by word offset and byte enables. -/
  | hostRegWrite (we : Bool) (off : Nat) (be : BitVec 8) (data : BitVec 64)
  /-- TB_READ_LOW (R396). -/
  | tbReadLow
  /-- MSGCTL_WRITE (R401). -/
  | msgctlWrite (data : BitVec 64)
  /-- MBIP_CLEAR (R152): half 0 or 1 of UW_MBIP and the bits written 1. -/
  | mbipClear (hi : Bool) (data : BitVec 64)
  /-- FIP_CLEAR (R152). -/
  | fipClear (data : BitVec 64)
  /-- CANE_IP_CLEAR (R152). -/
  | caneIpClear (data : BitVec 64)
  /-- SLOT_IP_CLEAR (R152). -/
  | slotIpClear (slot : Nat)
  /-- CSEL_WRITE (R403). -/
  | cselWrite (data : BitVec 64)
  /-- UW_CANE_ARRIVE (R404). -/
  | uwCaneArrive (data : BitVec 64)
  /-- SLOT_ARRIVE (R405): the word of UW_SLOT_OP, with OP ARRIVE. -/
  | slotArrive (slot : Nat) (w : BitVec 64)
  /-- SLOT_SIGNAL (R405). -/
  | slotSignal (slot : Nat) (w : BitVec 64)
  /-- SLOT_RESET (R405). -/
  | slotReset (slot : Nat) (w : BitVec 64)
  /-- SLOT_READ (R405). -/
  | slotRead (slot : Nat) (w : BitVec 64)
  /-- SLOT_OP_DONE (R405). -/
  | slotOpDone (slot : Nat)
  /-- MBIST_RUN (R416): the unit's SRAM, and the first failing address and bit if any. -/
  | mbistRun (sram : Nat) (fail : Option (Nat × Nat))
  /-- PRBS_RUN (R417): cycles, loopback, and the errors counted per lane. -/
  | prbsRun (d : LinkDir) (ncyc : Nat) (loopback : Bool) (errs : List Nat)
  /-- CANE_SWEEP (R416): the bundle, and the trim codes at which each copy passed. -/
  | caneSweep (bundle : Nat) (passA passB passC : BitVec 16)
  /-- LOCKSTEP_FORCE (R416): the pair or slice, the copy, and the beat or piece. -/
  | lockstepForce (u : UnitId) (copyB : Bool) (at' : Nat)
  /-- ERRPAIR_FORCE (R416): the collector node, the source's place, and the level driven. -/
  | errpairForce (node src : Nat) (p n : Bool)
  /-- FLIT_LANDS (R279): a HEAD or DATA flit lands. -/
  | flitLands (p : Nat) (vcb : Bool) (head : Bool) (flit : BitVec 512)
  /-- CREDIT_OWED_PERIOD (R230). -/
  | creditOwedPeriod (p : Nat) (vcb : Bool)
  /-- POWER_LOSS (R363). -/
  | powerLoss
  /-- TB_READ_HIGH (R396). -/
  | tbReadHigh
  /-- SEC_MB1_RESPONSE (R345). -/
  | secMb1Response
  deriving DecidableEq, Repr

end Sys2Proof
end

