-- ==== Sys2Proof/Config.lean ====
section
/-! DEFINITION. What an implementation fixes and the free values: constants with no body, so that nothing can be proved of their value. -/
namespace Sys2Proof.Config

/-- A free number: which of several free items the block takes where the manual does not say which (R261, Table 12-4 ANY of SCHED_LOAD).
DESIGN CHOICE (log entry 3). -/
opaque freeNat : Nat → Nat

/-- The number by which DETAIL of an ECC event names an array, by the array (log entry 61). -/
opaque arrayNo : Nat → Nat

/-- Which format accumulates a SUM or WSUM of Marver whose operands are all I80, a case for which Table 4-3 has no row (log entry 100). -/
opaque sumOfI80 : Nat

end Sys2Proof.Config
end

