-- ==== Sys2Proof/Machine/Table.lean ====
section
/-! DEFINITION. Sparse tables in one canonical form, bit-field helpers (R6) and little-endian bytes (R7). -/
namespace Sys2Proof.Machine

/-- The value at key `k`; keys not listed read as `d`. -/
def tabGet {α : Type} (d : α) : Tab α → Nat → α
  | [], _ => d
  | (j, v) :: r, k => if k = j then v else tabGet d r k

/-- Insert or replace the entry at `k`, keeping keys rising. -/
def tabPut {α : Type} (k : Nat) (v : α) : Tab α → Tab α
  | [] => [(k, v)]
  | (j, w) :: r => if k < j then (k, v) :: (j, w) :: r else if k = j then (k, v) :: r else (j, w) :: tabPut k v r

/-- Remove the entry at `k`. -/
def tabDel {α : Type} (k : Nat) : Tab α → Tab α
  | [] => []
  | (j, w) :: r => if k = j then tabDel k r else (j, w) :: tabDel k r

/-- Write `v` at `k`; writing the default removes the entry. -/
def tabSet {α : Type} [DecidableEq α] (d : α) (m : Tab α) (k : Nat) (v : α) : Tab α :=
  if v = d then tabDel k m else tabPut k v m

/-- Apply `f` to the value at `k`. -/
def tabMod {α : Type} [DecidableEq α] (d : α) (m : Tab α) (k : Nat) (f : α → α) : Tab α :=
  tabSet d m k (f (tabGet d m k))

/-- Every listed key is above `b`, keys rise, and no entry equals the default. -/
def tabWfFrom {α : Type} [DecidableEq α] (d : α) (b : Nat) : Tab α → Bool
  | [] => true
  | (j, v) :: r => decide (b ≤ j) && decide (v ≠ d) && tabWfFrom d (j + 1) r

/-- The canonical form: keys strictly rising, no entry equal to the default. -/
def tabWf {α : Type} [DecidableEq α] (d : α) (m : Tab α) : Bool := tabWfFrom d 0 m

/-- Apply `f` to every listed entry; entries that become the default are dropped. -/
def tabMap {α : Type} [DecidableEq α] (d : α) (f : Nat → α → α) : Tab α → Tab α
  | [] => []
  | (j, v) :: r => if f j v = d then tabMap d f r else (j, f j v) :: tabMap d f r

/-- The field of `w` bits at bit `lo` (R6). -/
def fld {n : Nat} (x : BitVec n) (lo w : Nat) : Nat := (x.toNat >>> lo) % 2 ^ w

/-- Bit `i` of a word. -/
def bit {n : Nat} (x : BitVec n) (i : Nat) : Bool := x.getLsbD i

/-- A one-bit field. -/
def b2n (b : Bool) : Nat := if b then 1 else 0

/-- A two's complement field of `w` bits. -/
def sfld {n : Nat} (x : BitVec n) (lo w : Nat) : Int :=
  let v := fld x lo w
  if v < 2 ^ (w - 1) then (v : Int) else (v : Int) - (2 ^ w : Nat)

/-- An integer as an unsigned field of `w` bits, two's complement. -/
def uns (w : Nat) (i : Int) : Nat := (i % ((2 ^ w : Nat) : Int)).toNat

/-- The word made of fields given as (low bit, width, value); values are cut to their width (R6). -/
def pack (n : Nat) : List (Nat × Nat × Nat) → BitVec n
  | [] => 0
  | (lo, w, v) :: r => BitVec.ofNat n ((v % 2 ^ w) <<< lo) ||| pack n r

/-- Every bit of `x` in the listed (low bit, width) ranges is 0. -/
def zeros {n : Nat} (x : BitVec n) (rs : List (Nat × Nat)) : Bool := rs.all fun r => fld x r.1 r.2 == 0

/-- The low `n` bytes of a number, lowest first (R7). -/
def leBytes : Nat → Nat → List Byte
  | 0, _ => []
  | n + 1, v => BitVec.ofNat 8 v :: leBytes n (v / 256)

/-- The number that bytes, lowest first, spell (R7). -/
def leNat : List Byte → Nat
  | [] => 0
  | b :: r => b.toNat + 256 * leNat r

/-- `n` bytes of a list from offset `o`, missing bytes read as 0. -/
def slice (l : List Byte) (o n : Nat) : List Byte := (l.drop o ++ List.replicate n 0).take n

/-- The little-endian number in `n` bytes of a list from offset `o`. -/
def leAt (l : List Byte) (o n : Nat) : Nat := leNat (slice l o n)

/-- A list padded with zero bytes, or cut, to `n` bytes. -/
def padTo (l : List Byte) (n : Nat) : List Byte := (l ++ List.replicate (n - l.length) 0).take n

/-- The lowest number below `n` that satisfies `p`. -/
def lowest (n : Nat) (p : Nat → Bool) : Option Nat := (List.range n).find? p

/-- Quotient rounded up. -/
def ceilDiv (a b : Nat) : Nat := (a + b - 1) / b

/-- Replace the element at `i`. -/
def setAt {α : Type} (l : List α) (i : Nat) (v : α) : List α := l.set i v

/-- Saturating sum. -/
def satAdd (cap a b : Nat) : Nat := min cap (a + b)

end Sys2Proof.Machine
end

