-- ==== Sys2Proof/Machine/Codes.lean ====
section
/-! DEFINITION. Check codes and digests: CRC-16 (R33), CRC-32C (R226), PRBS-7 (R44), the BCH code of Lehr's frames (R353), SHA-256 (R342, R346). -/
namespace Sys2Proof.Machine

/-! ## CRC-16 (R33) -/

/-- One bit of the CRC register: shift left, reduce by 0x1021. -/
def crc16Bit (c : BitVec 16) (b : Bool) : BitVec 16 :=
  if c.msb != b then (c <<< 1) ^^^ 0x1021 else c <<< 1

/-- One byte, most significant bit first. -/
def crc16Byte (c : BitVec 16) (x : Byte) : BitVec 16 :=
  [7, 6, 5, 4, 3, 2, 1, 0].foldl (fun a i => crc16Bit a (x.getLsbD i)) c

/-- CRC-16 of the data bytes of a beat. -/
def crc16 (l : List Byte) : BitVec 16 := l.foldl crc16Byte 0xFFFF

/-! ## CRC-32C (R226), reflected -/

/-- One bit of the reflected register. -/
def crc32Bit (c : BitVec 32) : BitVec 32 :=
  if c.getLsbD 0 then (c >>> 1) ^^^ 0x82F63B78 else c >>> 1

/-- One byte of input. -/
def crc32Byte (c : BitVec 32) (x : Byte) : BitVec 32 :=
  [7, 6, 5, 4, 3, 2, 1, 0].foldl (fun a _ => crc32Bit a) (c ^^^ x.setWidth 32)

/-- CRC-32C of a byte string. -/
def crc32c (l : List Byte) : BitVec 32 := (l.foldl crc32Byte 0xFFFFFFFF) ^^^ 0xFFFFFFFF

/-! ## PRBS-7 (R44) -/

/-- One step of x^7 + x^6 + 1: the bit driven is the register's highest bit. -/
def prbs7 (x : BitVec 7) : BitVec 7 := (x <<< 1) ||| BitVec.ofNat 7 (b2n (x.getLsbD 6 != x.getLsbD 5))

/-- The first `n` bits of the sequence from seed 0x7F. -/
def prbsBits : Nat → BitVec 7 → List Bool
  | 0, _ => []
  | n + 1, x => x.getLsbD 6 :: prbsBits n (prbs7 x)

/-! ## BCH code (R353): polynomials over GF(2) as numbers, bit i the coefficient of x^i -/

/-- The primitive polynomial x^13 + x^4 + x^3 + x + 1. -/
def bchPrim : Nat := 0x201B

/-- Remainder of a polynomial of degree below `d + k` by `g` of degree `d`. -/
def polyMod (g d : Nat) : Nat → Nat → Nat
  | 0, a => a
  | k + 1, a => polyMod g d k (if a.testBit (d + k) then a ^^^ (g <<< k) else a)

/-- Product of two polynomials, the second of degree below `k`. -/
def polyMul (a : Nat) : Nat → Nat → Nat
  | 0, _ => 0
  | k + 1, b => (if b.testBit k then a <<< k else 0) ^^^ polyMul a k b

/-- Product in GF(2^13). -/
def gfMul (a b : Nat) : Nat := polyMod bchPrim 13 12 (polyMul a 13 b)

/-- Power in GF(2^13). -/
def gfPow (a : Nat) : Nat → Nat
  | 0 => 1
  | n + 1 => gfMul a (gfPow a n)

/-- Multiply a polynomial over GF(2^13) (lowest coefficient first) by x + r. -/
def mulRoot (p : List Nat) (r : Nat) : List Nat :=
  (List.range (p.length + 1)).map fun i => (if i = 0 then 0 else p.getD (i - 1) 0) ^^^ gfMul r (p.getD i 0)

/-- The conjugates of an element. -/
def conjs : Nat → Nat → List Nat
  | 0, _ => []
  | n + 1, a => a :: conjs n (gfMul a a)

/-- Minimal polynomial of alpha^i, as a polynomial over GF(2). -/
def minPoly (i : Nat) : Nat :=
  ((conjs 13 (gfPow 2 i)).foldl mulRoot [1]).foldr (fun c a => c % 2 + 2 * a) 0

/-- The generator: the product of the minimal polynomials of alpha, alpha^3, ..., alpha^15 (degree 104). -/
def bchGen : Nat := [1, 3, 5, 7, 9, 11, 13, 15].foldl (fun g i => polyMul g 14 (minPoly i)) 1

/-- One message bit of the division by the generator, register of 104 bits. -/
def bchBit (g r : Nat) (b : Bool) : Nat :=
  let t := (r <<< 1) ^^^ (b2n b <<< 104)
  if t.testBit 104 then t ^^^ g else t

/-- The 13 parity bytes of the data bytes of a frame, highest bit first. -/
def bchParity (data : List Byte) : List Byte :=
  let g := bchGen
  let r := data.foldl (fun a x => [7, 6, 5, 4, 3, 2, 1, 0].foldl (fun c i => bchBit g c (x.getLsbD i)) a) 0
  (leBytes 13 r).reverse

/-! ## SHA-256 (FIPS 180-4) -/

/-- The largest number of `n` bits more than `x` has that, to the `k`-th power, does not exceed `v`: digits from the highest down. -/
def rootBits (k v : Nat) : Nat → Nat → Nat
  | 0, x => x
  | n + 1, x => rootBits k v n (if (x + 2 ^ n) ^ k ≤ v then x + 2 ^ n else x)

/-- The first 32 bits of the fraction of the `k`-th root of `p`. -/
def rootFrac (k p : Nat) : BitVec 32 := BitVec.ofNat 32 (rootBits k (p * 2 ^ (32 * k)) 36 0)

/-- The first 64 primes. -/
def primes : List Nat := (List.range 312).filter fun n => 2 ≤ n && (List.range n).all fun d => d < 2 || n % d != 0

/-- The round constants: from the cube roots of the first 64 primes. -/
def shaK : List (BitVec 32) := primes.map (rootFrac 3)

/-- The initial hash value: from the square roots of the first eight. -/
def shaInit : List (BitVec 32) := (primes.take 8).map (rootFrac 2)

/-- A number from its bytes, highest first. -/
def beNat (l : List Byte) : Nat := l.foldl (fun a b => a * 256 + b.toNat) 0

/-- One step of the message schedule, newest word first. -/
def shaNext (w : List (BitVec 32)) : List (BitVec 32) :=
  let w2 := w.getD 1 0
  let w15 := w.getD 14 0
  let s0 := w15.rotateRight 7 ^^^ w15.rotateRight 18 ^^^ (w15 >>> 3)
  let s1 := w2.rotateRight 17 ^^^ w2.rotateRight 19 ^^^ (w2 >>> 10)
  (s1 + w.getD 6 0 + s0 + w.getD 15 0) :: w

/-- `n` steps of the message schedule. -/
def shaExpand : Nat → List (BitVec 32) → List (BitVec 32)
  | 0, w => w
  | n + 1, w => shaExpand n (shaNext w)

/-- One round over the working variables a..h. -/
def shaRound (v : List (BitVec 32)) (kw : BitVec 32 × BitVec 32) : List (BitVec 32) :=
  match v with
  | [a, b, c, d, e, f, g, h] =>
    let t1 := h + (e.rotateRight 6 ^^^ e.rotateRight 11 ^^^ e.rotateRight 25) + ((e &&& f) ^^^ (~~~e &&& g)) + kw.1 + kw.2
    let t2 := (a.rotateRight 2 ^^^ a.rotateRight 13 ^^^ a.rotateRight 22) + ((a &&& b) ^^^ (a &&& c) ^^^ (b &&& c))
    [t1 + t2, a, b, c, d + t1, e, f, g]
  | _ => v

/-- Compression of one block of 64 bytes. -/
def shaBlock (h : List (BitVec 32)) (blk : List Byte) : List (BitVec 32) :=
  let w0 := (List.range 16).map fun i => BitVec.ofNat 32 (beNat (slice blk (4 * i) 4))
  let w := (shaExpand 48 w0.reverse).reverse
  List.zipWith (· + ·) h ((shaK.zip w).foldl shaRound h)

/-- Compression of `n` blocks. -/
def shaBlocks : Nat → List (BitVec 32) → List Byte → List (BitVec 32)
  | 0, h, _ => h
  | n + 1, h, l => shaBlocks n (shaBlock h (l.take 64)) (l.drop 64)

/-- SHA-256: 32 bytes, in the standard's order. -/
def sha256 (m : List Byte) : List Byte :=
  let z := (119 - m.length % 64) % 64
  let l := m ++ 0x80 :: (List.replicate z 0 ++ (leBytes 8 (8 * m.length)).reverse)
  let h := shaBlocks (l.length / 64) shaInit l
  h.flatMap fun x => (leBytes 4 x.toNat).reverse

end Sys2Proof.Machine
end

