-- ==== Sys2Proof/Machine/Operands.lean ====
section
/-! DEFINITION. Number formats and conversion (03): every operand form of the block. -/
namespace Sys2Proof.Machine

/-! ## Floating-point formats (R70) -/

/-- A row of Table 3-2: mantissa bits T, exponent bits, bias, EMIN, and the codes that are no numbers. -/
structure FpFmt where
  t : Nat
  eb : Nat
  bias : Int
  emin : Int
  hasInf : Bool      -- E all ones with M = 0 is an infinity, other M a NaN
  topNan : Bool      -- E all ones with M all ones is a NaN, other M finite (E4M3)
  maxK : Nat         -- largest finite value is maxK * 2^maxU
  maxU : Int
  deriving DecidableEq, Repr

def fp32 : FpFmt := ⟨23, 8, 127, -126, true, false, 2 ^ 24 - 1, 104⟩
def fp16 : FpFmt := ⟨10, 5, 15, -14, true, false, 2 ^ 11 - 1, 5⟩
def e4m3 : FpFmt := ⟨3, 4, 7, -6, false, true, 14, 5⟩
def e5m2 : FpFmt := ⟨2, 5, 15, -14, true, false, 7, 13⟩
def e3m2 : FpFmt := ⟨2, 3, 3, -2, false, false, 7, 2⟩
def e2m3 : FpFmt := ⟨3, 2, 1, 0, false, false, 15, -1⟩
def e2m1 : FpFmt := ⟨1, 2, 1, 0, false, false, 3, 1⟩

/-- WX, Marver's internal format (R107): P = 24, EMIN = -510, EMAX = 511; it has no code. -/
def wx : FpFmt := ⟨23, 11, 511, -510, true, false, 2 ^ 24 - 1, 488⟩

/-- Significand bits P (R70). -/
def FpFmt.p (f : FpFmt) : Nat := f.t + 1

/-- The element format of a format code that holds floats (Table 3-1). -/
def fpOf : Nat → Option FpFmt
  | 0 => some fp32 | 1 => some fp16 | 3 => some e4m3 | 4 => some e5m2 | 5 => some e3m2 | 6 => some e2m3 | 7 => some e2m1
  | _ => none

/-- Codes of Table 3-1. -/
def fmtFP32 : Nat := 0
def fmtFP16 : Nat := 1
def fmtI80 : Nat := 2
def fmtMXINT8 : Nat := 8
def fmtINT8 : Nat := 9
def fmtINT4 : Nat := 10
def fmtLUT4 : Nat := 11

/-- Codes 0x0 to 0xB are formats, the others reserved (R68). -/
def fmtOk (f : Nat) : Bool := f < 12
/-- The packed formats (R68). -/
def isPacked (f : Nat) : Bool := 3 ≤ f && f < 12
/-- The MX formats (R68). -/
def isMX (f : Nat) : Bool := 3 ≤ f && f < 9
/-- INT8, INT4 and LUT4, input formats only (R78). -/
def isIntIn (f : Nat) : Bool := 9 ≤ f && f < 12

/-- Element width in bits (Table 3-1); an I80 element takes a 128-bit slot. -/
def elemBits : Nat → Nat
  | 0 => 32 | 1 => 16 | 2 => 128 | 3 => 8 | 4 => 8 | 5 => 6 | 6 => 6 | 7 => 4 | 8 => 8 | 9 => 8 | 10 => 4 | 11 => 4 | _ => 8

/-- Bytes of an element of an unpacked format on the wire and in core memory (Table 2-5, R174). -/
def elemBytes (f : Nat) : Nat := elemBits f / 8

/-! ## Decoding (R71, R86) -/

/-- decode_float of R86. -/
def decodeFp (f : FpFmt) (w : Nat) : Exact :=
  let m := w % 2 ^ f.t
  let e := (w / 2 ^ f.t) % 2 ^ f.eb
  let s := (w / 2 ^ (f.t + f.eb)) % 2 == 1
  let top := e == 2 ^ f.eb - 1
  if f.hasInf && top then (if m == 0 then .inf s else .nan s)
  else if f.topNan && top && m == 2 ^ f.t - 1 then .nan s
  else if e == 0 then (if m == 0 then .zero s else .fin s m (f.emin - f.t))
  else .fin s (2 ^ f.t + m) ((e : Int) - f.bias - f.t)

/-- scale_by of R86: times m2 * 2^e2, exact. -/
def scaleBy (x : Exact) (m2 : Nat) (e2 : Int) : Exact :=
  match x.cls with
  | .fin => .fin x.sgn (x.m * m2) (x.e + e2)
  | _ => x

/-- decode_i80 of R86: the integer n stands for n * 2^S. -/
def decodeI80 (n s : Int) : Exact := if n = 0 then .zero false else .fin (n < 0) n.natAbs s

/-- The 80-bit two's complement integer in a 16-byte slot (R75). -/
def i80OfNat (w : Nat) : Int :=
  let v : Nat := w % 2 ^ 80
  if v < 2 ^ 79 then (v : Int) else (v : Int) - ((2 ^ 80 : Nat) : Int)

/-- A signed integer of `w` bits. -/
def sgnOf (w v : Nat) : Int :=
  let x : Nat := v % 2 ^ w
  if x < 2 ^ (w - 1) then (x : Int) else (x : Int) - ((2 ^ w : Nat) : Int)

/-- Significand and exponent of a coarse scale (FP32, positive and normal by R84). -/
def coarse (g : BitVec 32) : Nat × Int := let x := decodeFp fp32 g.toNat; (x.m, x.e)

/-- 1.0 in FP32. -/
def one32 : BitVec 32 := 0x3F800000

/-! ## Packed pages (R79-R82) -/

/-- Blocks of a full page (Table 3-3). -/
def pageBlocks : Nat → Nat
  | 3 => 124 | 4 => 124 | 8 => 124 | 5 => 163 | 6 => 163 | 7 => 240 | 9 => 117 | 10 => 215 | 11 => 254 | _ => 0

/-- Elements of a full page (Table 3-3). -/
def pageElems (f : Nat) : Nat := 32 * pageBlocks f

/-- Element bytes of one block (Table 3-3). -/
def blockBytes (f : Nat) : Nat := 4 * elemBits f

/-- Bytes of the scale area of a page of `b` blocks, padded to a multiple of 4 (R79, R81). -/
def scaleArea (f b : Nat) : Nat :=
  if f == fmtLUT4 then 32 else if isIntIn f then 4 * ceilDiv (3 * b) 4 else 4 * ceilDiv b 4

/-- Payload bytes of a page of `b` blocks (R79). -/
def pageBytes (f b : Nat) : Nat := scaleArea f b + b * blockBytes f

/-- Field of element `i` of a block's element bytes (R80). -/
def blockField (f : Nat) (bytes : List Byte) (i : Nat) : Nat := (leNat bytes >>> (elemBits f * i)) % 2 ^ elemBits f

/-- Element of an MX block: its class and value before the block scale (R74, R86). -/
def mxElem (f w : Nat) : Exact :=
  if f == fmtMXINT8 then
    let k := sgnOf 8 w
    if k = 0 then .zero false else .fin (k < 0) k.natAbs (-6)
  else match fpOf f with
    | some g => decodeFp g w
    | none => .nan false

/-- decode_packed of R86: element `i` of a page of `b` blocks under coarse scale `g`. -/
def decodePacked (f : Nat) (page : List Byte) (b i : Nat) (g : BitVec 32) : Exact :=
  let j := i / 32
  let w := blockField f (slice page (scaleArea f b + j * blockBytes f) (blockBytes f)) (i % 32)
  let gm := coarse g
  if isMX f then
    let sc := leAt page j 1
    if sc == 0xFF then .nan false
    else scaleBy (scaleBy (mxElem f w) 1 ((sc : Int) - 127)) gm.1 gm.2
  else if f == fmtLUT4 then scaleBy (decodeFp fp16 (leAt page (2 * w) 2)) gm.1 gm.2
  else
    let sg := decodeFp fp16 (leAt page (2 * j) 2)
    match sg.cls with
    | .inf => .nan false
    | .nan => .nan false
    | .zero => .zero false
    | .fin =>
      let d := sgnOf (elemBits f) w - sgnOf 8 (leAt page (2 * b + j) 1)
      if d = 0 then .zero false
      else scaleBy (.fin ((d < 0) != sg.sgn) (d.natAbs * sg.m) sg.e) gm.1 gm.2

/-- The elements of one page that holds `n` of them (R81). -/
def decodePage (f : Nat) (page : List Byte) (n : Nat) (g : BitVec 32) : List Exact :=
  (List.range n).map fun i => decodePacked f page (ceilDiv n 32) i g

/-- The elements of a sequence of 4,096-byte page slots that hold `n` of them (R82); `k` bounds the pages. -/
def decodeSlots (f : Nat) (g : BitVec 32) : Nat → List Byte → Nat → List Exact
  | 0, _, _ => []
  | k + 1, bytes, n =>
    if n = 0 then []
    else decodePage f bytes (min n (pageElems f)) g ++ decodeSlots f g k (bytes.drop 4096) (n - pageElems f)

/-- The exact values of `n` elements in memory or wire form (R86). Packed data lie in page slots. -/
def decodeElems (f : Nat) (s : Int) (g : BitVec 32) (n : Nat) (bytes : List Byte) : List Exact :=
  match f with
  | 0 => (List.range n).map fun i => decodeFp fp32 (leAt bytes (4 * i) 4)
  | 1 => (List.range n).map fun i => decodeFp fp16 (leAt bytes (2 * i) 2)
  | 2 => (List.range n).map fun i => decodeI80 (i80OfNat (leAt bytes (16 * i) 16)) s
  | _ => decodeSlots f g (n + 1) bytes n

/-! ## The single rounding (R85, R87) -/

/-- Conversion flags of Table 3-7. -/
def fINX : BitVec 8 := 1
def fUNF : BitVec 8 := 2
def fOVF : BitVec 8 := 4
def fSAT : BitVec 8 := 8
def fNAN : BitVec 8 := 16
def fNFL : BitVec 8 := 32
def fVAN : BitVec 8 := 64
def fSCLAMP : BitVec 8 := 128

/-- Exponent of the leading bit of m * 2^e (R85). -/
def lead (m : Nat) (e : Int) : Int := e + (Nat.log2 m : Nat)

/-- Compare a * 2^ea with b * 2^eb. -/
def ltVal (a : Nat) (ea : Int) (b : Nat) (eb : Int) : Bool :=
  if ea ≤ eb then a < b <<< (eb - ea).toNat else a <<< (ea - eb).toNat < b

/-- round_to_unit of R87: m * 2^e to a multiple of 2^u, to nearest with ties to even; second: inexact. -/
def roundToUnit (m : Nat) (e u : Int) : Nat × Bool :=
  if u ≤ e then (m <<< (e - u).toNat, false)
  else
    let d := (u - e).toNat
    let k := m >>> d
    let r := m - (k <<< d)
    let h := 1 <<< (d - 1)
    (if h < r || (r == h && k % 2 == 1) then k + 1 else k, r != 0)

/-- rne of R87: at most P significant bits, with the floor EMIN. -/
def rne (m : Nat) (e : Int) (p : Nat) (emin : Int) : Nat × Int × Bool :=
  let u := max (lead m e) emin - ((p : Int) - 1)
  let k := roundToUnit m e u
  if k.1 == 2 ^ p then (k.1 / 2, u + 1, k.2) else (k.1, u, k.2)

/-- tiny of R87: tininess after rounding. -/
def tiny (m : Nat) (e : Int) (p : Nat) (emin : Int) : Bool :=
  let k := rne m e p (-1000)
  ltVal k.1 k.2.1 1 emin

/-- pack of R87: the code of K * 2^u, representable in `f`. -/
def packFp (f : FpFmt) (s : Bool) (k : Nat) (u : Int) : Nat :=
  let sg := b2n s * 2 ^ (f.t + f.eb)
  if 2 ^ f.t ≤ k then sg + (u + f.t + f.bias).toNat * 2 ^ f.t + (k - 2 ^ f.t) else sg + k

/-- The canonical NaN of FP32 or FP16 (R72). -/
def canonNan (f : FpFmt) : Nat := (2 ^ f.eb - 1) * 2 ^ f.t + 2 ^ (f.t - 1)

/-- The infinity code of sign `s`. -/
def infCode (f : FpFmt) (s : Bool) : Nat := b2n s * 2 ^ (f.t + f.eb) + (2 ^ f.eb - 1) * 2 ^ f.t

/-- K * 2^u lies beyond the largest finite value of `f`. -/
def overMax (f : FpFmt) (k : Nat) (u : Int) : Bool := ltVal f.maxK f.maxU k u

/-! ## Encoding into FP32, FP16, I80 (R88, R89) -/

/-- encode_fp of R88, with the conversion flags. -/
def encodeFp (f : FpFmt) (x : Exact) : Nat × BitVec 8 :=
  match x.cls with
  | .nan => (canonNan f, fNAN)
  | .inf => (infCode f x.sgn, 0)
  | .zero => (b2n x.sgn * 2 ^ (f.t + f.eb), 0)
  | .fin =>
    let r := rne x.m x.e f.p f.emin
    if overMax f r.1 r.2.1 then (infCode f x.sgn, fOVF ||| fINX)
    else
      let fl := (if r.2.2 then fINX else 0) ||| (if r.2.2 && tiny x.m x.e f.p f.emin then fUNF else 0)
      (if r.1 = 0 then b2n x.sgn * 2 ^ (f.t + f.eb) else packFp f x.sgn r.1 r.2.1, fl)

/-- encode_i80 of R89, with the conversion flags. -/
def encodeI80 (x : Exact) (s : Int) : Int × BitVec 8 :=
  match x.cls with
  | .nan => (0, fNAN ||| fNFL)
  | .inf => (0, fNFL)
  | .zero => (0, 0)
  | .fin =>
    let r := roundToUnit x.m (x.e - s) 0
    let sat := decide (2 ^ 47 ≤ r.1)
    let k : Nat := if sat then 2 ^ 47 - 1 else r.1
    ((if x.sgn then -(k : Int) else (k : Int)), (if r.2 then fINX else 0) ||| (if sat then fSAT ||| fINX else 0))

/-! ## Encoding into MX formats (R90-R93) -/

/-- EMAX of an MX element format (Table 3-2, R74). -/
def mxEmax : Nat → Int
  | 3 => 8 | 4 => 15 | 5 => 4 | 6 => 2 | 7 => 2 | _ => 0

/-- Largest finite element, as K * 2^u. -/
def mxMax (f : Nat) : Nat × Int :=
  match fpOf f with
  | some g => (g.maxK, g.maxU)
  | none => (127, -6)

/-- round_elem of R90. -/
def roundElem (f : Nat) (x : Exact) (sx : Int) : Nat × Int × Bool :=
  match fpOf f with
  | some g => rne x.m (x.e - sx) g.p g.emin
  | none => let r := roundToUnit x.m (x.e - sx) (-6); (r.1, -6, r.2)

/-- encode_elem of R90: the field, the flags, and whether the element vanished. -/
def encodeElem (f : Nat) (x : Exact) (pad : Bool) (sx : Int) : Nat × BitVec 8 × Bool :=
  if pad || x.cls == .zero || x.cls == .nan then (0, 0, false)
  else if x.cls == .inf then (infCode e5m2 x.sgn, 0, false)
  else
    let r := roundElem f x sx
    let mx := mxMax f
    let excess := ltVal mx.1 mx.2 r.1 r.2.1
    let k := if excess then mx.1 else r.1
    let u := if excess then mx.2 else r.2.1
    let fl := (if r.2.2 then fINX else 0) ||| (if excess then fSAT ||| fINX else 0)
    if k = 0 then (0, fl ||| fVAN ||| fUNF, true)
    else match fpOf f with
      | some g =>
        (packFp g x.sgn k u, fl ||| (if r.2.2 && tiny x.m (x.e - sx) g.p g.emin then fUNF else 0), false)
      | none => (if x.sgn then 256 - k else k, fl, false)

/-- The value of larger magnitude of two finite ones; the first on a tie. -/
def larger (a b : Exact) : Exact := if ltVal a.m a.e b.m b.e then b else a

/-- Largest magnitude among the finite values of a list. -/
def maxFin : List Exact → Option Exact
  | [] => none
  | x :: r =>
    match maxFin r with
    | none => if x.cls == .fin then some x else none
    | some y => if x.cls == .fin then some (larger x y) else some y

/-- The scale exponent X of R90 and whether it was clamped. -/
def mxScale (f : Nat) (xs : List Exact) : Int × Bool :=
  match maxFin xs with
  | none => (-127, false)
  | some a =>
    let x0 := lead a.m a.e - mxEmax f
    let r := roundElem f a x0
    let mx := mxMax f
    let x1 := if ltVal mx.1 mx.2 r.1 r.2.1 then x0 + 1 else x0
    if x1 > 127 then (127, true) else if x1 < -127 then (-127, true) else (x1, false)

/-- encode_mx of R90 on the elements of one block, the last `32 - xs.length` of them padding:
scale byte, element fields, flags, vanished elements. -/
def encodeMx (f : Nat) (xs0 : List Exact) (ginv : BitVec 32) : Nat × List Nat × BitVec 8 × Nat :=
  let gm := coarse ginv
  let xs := (xs0.take 32).map fun x => scaleBy x gm.1 gm.2
  let padn := 32 - xs.length
  if xs.any (fun x => x.cls == .nan) then (0xFF, List.replicate 32 0, fNAN ||| fNFL, 0)
  else if xs.any (fun x => x.cls == .inf) && f != 4 then (0xFF, List.replicate 32 0, fNFL, 0)
  else
    let sx := mxScale f xs
    let es := xs.map fun x => encodeElem f x false sx.1
    ((sx.1 + 127).toNat, es.map (·.1) ++ List.replicate padn 0,
     es.foldl (fun a e => a ||| e.2.1) (if sx.2 then fSCLAMP else 0), (es.filter fun e => e.2.2).length)

/-- Pack element fields of one block into its element bytes (R80). -/
def packBlock (f : Nat) (es : List Nat) : List Byte :=
  leBytes (blockBytes f) (es.foldr (fun e a => e + a * 2 ^ elemBits f) 0)

/-- Split a list into runs of `n`; `k` bounds the runs. -/
def runs {α : Type} (n : Nat) : Nat → List α → List (List α)
  | 0, _ => []
  | k + 1, l => if l.isEmpty then [] else l.take n :: runs n k (l.drop n)

/-- One page in an MX format (R79): bytes, flags, vanished elements. -/
def encodePage (f : Nat) (xs : List Exact) (ginv : BitVec 32) : List Byte × BitVec 8 × Nat :=
  let bs := (runs 32 (xs.length + 1) xs).map fun b => encodeMx f b ginv
  (padTo (bs.map fun b => BitVec.ofNat 8 b.1) (scaleArea f bs.length) ++ bs.flatMap (fun b => packBlock f b.2.1),
   bs.foldl (fun a b => a ||| b.2.2.1) 0, bs.foldl (fun a b => a + b.2.2.2) 0)

/-- A sequence of page slots (R82). -/
def encodeSlots (f : Nat) (xs : List Exact) (ginv : BitVec 32) : List Byte × BitVec 8 × Nat :=
  let ps := (runs (pageElems f) (xs.length + 1) xs).map fun p => encodePage f p ginv
  (ps.flatMap (fun p => padTo p.1 4096), ps.foldl (fun a p => a ||| p.2.1) 0, ps.foldl (fun a p => a + p.2.2) 0)

/-- Encode exact values into a format (R88-R90): bytes in memory or wire form, flags, vanished elements.
A packed destination is laid out in page slots. INT8, INT4 and LUT4 are never encoded into (R78). -/
def encodeElems (f : Nat) (s : Int) (ginv : BitVec 32) (xs : List Exact) : List Byte × BitVec 8 × Nat :=
  match f with
  | 0 => let es := xs.map (encodeFp fp32); (es.flatMap (fun e => leBytes 4 e.1), es.foldl (fun a e => a ||| e.2) 0, 0)
  | 1 => let es := xs.map (encodeFp fp16); (es.flatMap (fun e => leBytes 2 e.1), es.foldl (fun a e => a ||| e.2) 0, 0)
  | 2 =>
    let es := xs.map fun x => encodeI80 x s
    (es.flatMap (fun e => leBytes 16 (uns 80 e.1)), es.foldl (fun a e => a ||| e.2) 0, 0)
  | _ => encodeSlots f xs ginv

/-! ## The conversion context (R83, R84) -/

def ctxSfmt (c : BitVec 128) : Nat := fld c 0 4
def ctxDfmt (c : BitVec 128) : Nat := fld c 4 4
def ctxS (c : BitVec 128) : Int := sfld c 8 9
def ctxG (c : BitVec 128) : BitVec 32 := BitVec.ofNat 32 (fld c 32 32)
def ctxGinv (c : BitVec 128) : BitVec 32 := BitVec.ofNat 32 (fld c 64 32)

/-- A context made of its fields. -/
def mkCtx (sf df : Nat) (s : Int) (g ginv : BitVec 32) : BitVec 128 :=
  pack 128 [(0, 4, sf), (4, 4, df), (8, 9, uns 9 s), (32, 32, g.toNat), (64, 32, ginv.toNat)]

/-- A coarse scale is positive, normal and finite (R84). -/
def coarseOk (g : BitVec 32) : Bool := 0x00800000 ≤ g.toNat && g.toNat ≤ 0x7F7FFFFF

/-- What R84 asks of a context at every point: defined codes, coarse scales, reserved fields. -/
def ctxFieldsOk (c : BitVec 128) : Bool :=
  fmtOk (ctxSfmt c) && fmtOk (ctxDfmt c) && coarseOk (ctxG c) && coarseOk (ctxGinv c) && zeros c [(17, 15), (96, 32)]

/-- Wide channels (R47). -/
def isWide (ch : Nat) : Bool := ch == 14 || ch == 15

/-- Cell push pairs of Table 3-6. -/
def pushPair (ch sf df : Nat) : Bool :=
  match sf, df with
  | 0, 0 => true
  | 1, 1 => !isWide ch
  | 1, 0 => true
  | 0, 1 => !isWide ch
  | 0, 2 => isWide ch
  | 1, 2 => isWide ch
  | _, _ => false

/-- Cell pull pairs of Table 3-6. -/
def pullPair (ch sf df : Nat) : Bool :=
  match sf with
  | 0 => df == 0 || df == 1
  | 1 => (df == 0 || df == 1) && !isWide ch
  | 2 => df ≤ 2 && isWide ch
  | _ => isPacked sf && (df == 0 || df == 1)

/-- Marver load and store pairs of Table 3-6; INT8, INT4 and LUT4 are reached only as a copy with both coarse scales 1.0
(R78, R98; that a load or store may decode them into other formats is DEDUCED from Table 3-6, log entry 12). -/
def marverPair (c : BitVec 128) : Bool :=
  let sf := ctxSfmt c
  let df := ctxDfmt c
  if isIntIn df then sf == df && ctxG c == one32 && ctxGinv c == one32
  else fmtOk sf && fmtOk df

/-- A context valid for a Marver load or store (R84, R95). -/
def marverCtxOk (c : BitVec 128) : Bool := ctxFieldsOk c && marverPair c

/-! ## Whole conversions -/

/-- A load, store or pull copies without decoding: the same packed format with both coarse scales 1.0 (R98). -/
def isCopy (c : BitVec 128) : Bool :=
  ctxSfmt c == ctxDfmt c && isPacked (ctxSfmt c) && ctxG c == one32 && ctxGinv c == one32

/-- Bytes that `n` elements take in page slots or as plain elements. -/
def bytesOf (f n : Nat) : Nat := if isPacked f then 4096 * ceilDiv n (pageElems f) else n * elemBytes f

/-- The outcome of converting a chunk: bytes, CVF (R99), vanished elements (R93), and bits [55:0] of the status word
that encode_i80 records (R125). -/
structure Conv where
  bytes : List Byte
  cvf : BitVec 8 := 0
  vanish : Nat := 0
  sw : BitVec 64 := 0
  deriving DecidableEq, Repr

/-- The numbers of the elements that satisfy `p`, in order. -/
def positions (p : Exact → Bool) (xs : List Exact) : List Nat := (List.range xs.length).filter fun i => p (xs.getD i (.nan false))

/-- Status word fields NPOS, NV, NMULTI, IPOS, IV, ISGN, IMULTI of a list of elements, counted from `base` (R123, R124, R127). -/
def posStatus (base : Nat) (xs : List Exact) : BitVec 64 :=
  let ns := positions (fun x => x.cls == .nan) xs
  let is := positions (fun x => x.cls == .inf) xs
  pack 64
    [(0, 21, if ns.isEmpty then 0 else base + ns.headD 0), (21, 1, b2n (!ns.isEmpty)), (22, 1, b2n (2 ≤ ns.length)),
     (24, 21, if is.isEmpty then 0 else base + is.headD 0), (45, 1, b2n (!is.isEmpty)),
     (46, 1, b2n (!is.isEmpty && (xs.getD (is.headD 0) (.nan false)).sgn)), (47, 1, b2n (2 ≤ is.length))]

/-- The elements of an I80 chunk with status word `sw` as they are converted into another format (R126);
`base` is the position of the first. -/
def i80Elems (sw : BitVec 64) (base : Nat) (xs : List Exact) : List Exact :=
  (List.range xs.length).map fun i =>
    if bit sw 22 || bit sw 47 then .nan false
    else if bit sw 21 && fld sw 0 21 == base + i then .nan false
    else if bit sw 45 && fld sw 24 21 == base + i then .inf (bit sw 46)
    else xs.getD i (.nan false)

/-- A NaN code of FP32 or FP16. -/
def isNanCode (f w : Nat) : Bool :=
  match fpOf f with
  | some g => (decodeFp g w).cls == .nan
  | none => false

/-- Copy of unpacked elements: unchanged but that every NaN becomes canonical and sets NAN (R72, R98). -/
def copyPlain (f n : Nat) (bytes : List Byte) : List Byte × BitVec 8 :=
  let es := (List.range n).map fun i =>
    let w := leAt bytes (elemBytes f * i) (elemBytes f)
    if isNanCode f w then (canonNan (if f == fmtFP16 then fp16 else fp32), fNAN) else (w, (0 : BitVec 8))
  (es.flatMap fun e => leBytes (elemBytes f) e.1, es.foldl (fun a e => a ||| e.2) 0)

/-- Convert `n` elements in memory or wire form under a context (R83, R86 to R98).
`sw` is the status word of an I80 source (R126), `base` the position of its first element. -/
def convert (c : BitVec 128) (n : Nat) (sw : BitVec 64) (base : Nat) (bytes : List Byte) : Conv :=
  let sf := ctxSfmt c
  let df := ctxDfmt c
  if isCopy c then ⟨padTo bytes (bytesOf sf n), 0, 0, 0⟩
  else if sf == df && !isPacked sf then let r := copyPlain sf n bytes; ⟨r.1, r.2, 0, if sf == fmtI80 then sw else 0⟩
  else
    let xs := decodeElems sf (ctxS c) (ctxG c) n bytes
    let ys := if sf == fmtI80 then i80Elems sw base xs else xs
    let r := encodeElems df (ctxS c) (ctxGinv c) ys
    ⟨r.1, r.2.1, r.2.2, if df == fmtI80 then posStatus base ys else 0⟩

end Sys2Proof.Machine
end

