-- ==== Sys2Proof/Machine/Flags.lean ====
section
/-! DEFINITION. Reduction arithmetic (04): one combine with its flags, the pairwise tree, and the merges of status words. -/
namespace Sys2Proof.Machine

/-! ## Arithmetic flags: bits [54:48] of the status word (Table 4-10), as a 7-bit word -/

def aINX : BitVec 7 := 1
def aUNF : BitVec 7 := 2
def aOVF : BitVec 7 := 4
def aINV : BitVec 7 := 8
def aIOVF : BitVec 7 := 16
def aXOVF : BitVec 7 := 32
def aXUNF : BitVec 7 := 64

/-- Accumulation formats (Table 4-3). -/
inductive Acc
  | fp32 | fp16 | i80 | wx
  deriving DecidableEq, Repr

/-- The format that round_acc uses. -/
def accFmt : Acc → FpFmt
  | .fp16 => Machine.fp16
  | .wx => Machine.wx
  | _ => Machine.fp32

/-- The accumulation format of on-die frames with format code `f` (R105). -/
def dieAcc (f : Nat) : Acc := if f == fmtFP16 then .fp16 else if f == fmtI80 then .i80 else .fp32

/-- Reduce operators (Table 4-1). -/
def opSUM : Nat := 1
def opWSUM : Nat := 2
def opMAX : Nat := 3
def opMIN : Nat := 4
def opISUM : Nat := 5

/-- Codes 0x1 to 0x5 name operators (R103). -/
def opOk (o : Nat) : Bool := 1 ≤ o && o ≤ 5

/-- round_acc of R108. -/
def roundAcc (a : Acc) (x : Exact) : Exact × BitVec 7 :=
  if x.cls != .fin then (x, 0)
  else
    let f := accFmt a
    let r := rne x.m x.e f.p f.emin
    let i : BitVec 7 := if r.2.2 then aINX else 0
    if overMax f r.1 r.2.1 then
      (if a = .wx then (.fin x.sgn f.maxK f.maxU, aINX ||| aXOVF) else (.inf x.sgn, aINX ||| aOVF))
    else
      let t := if r.2.2 && tiny x.m x.e f.p f.emin then (if a = .wx then aXUNF else aUNF) else 0
      (if r.1 = 0 then .zero x.sgn else .fin x.sgn r.1 r.2.1, i ||| t)

/-- A finite value as an integer multiple of 2^u, for u no larger than its exponent. -/
def atUnit (x : Exact) (u : Int) : Int :=
  let v : Nat := x.m <<< (x.e - u).toNat
  if x.sgn then -(v : Int) else (v : Int)

/-- The exact value of n * 2^u. -/
def ofUnit (n u : Int) : Exact := if n = 0 then .zero false else .fin (n < 0) n.natAbs u

/-- add_exact of R108: no rounding; exact cancellation gives +0. -/
def addExact (a b : Exact) : Exact × BitVec 7 :=
  match a.cls, b.cls with
  | .nan, _ => (.nan false, 0)
  | _, .nan => (.nan false, 0)
  | .inf, .inf => if a.sgn != b.sgn then (.nan false, aINV) else (a, 0)
  | .inf, _ => (a, 0)
  | _, .inf => (b, 0)
  | .zero, .zero => (.zero (a.sgn && b.sgn), 0)
  | .zero, _ => (b, 0)
  | _, .zero => (a, 0)
  | .fin, .fin => let u := min a.e b.e; (ofUnit (atUnit a u + atUnit b u) u, 0)

/-- term of R108: the exact product of a weight and an element. -/
def mulTerm (w x : Exact) : Exact × BitVec 7 :=
  match w.cls, x.cls with
  | .nan, _ => (.nan false, 0)
  | _, .nan => (.nan false, 0)
  | .inf, .zero => (.nan false, aINV)
  | .zero, .inf => (.nan false, aINV)
  | .inf, _ => (.inf (w.sgn != x.sgn), 0)
  | _, .inf => (.inf (w.sgn != x.sgn), 0)
  | .zero, _ => (.zero (w.sgn != x.sgn), 0)
  | _, .zero => (.zero (w.sgn != x.sgn), 0)
  | .fin, .fin => (.fin (w.sgn != x.sgn) (w.m * x.m) (w.e + x.e), 0)

/-- Sign of value(a) - value(b) for values that are no NaN. -/
def cmpExact (a b : Exact) : Int :=
  match a.cls, b.cls with
  | .inf, .inf => if a.sgn == b.sgn then 0 else if a.sgn then -1 else 1
  | .inf, _ => if a.sgn then -1 else 1
  | _, .inf => if b.sgn then 1 else -1
  | _, _ =>
    let u := min a.e b.e
    let x := if a.cls == .zero then 0 else atUnit a u
    let y := if b.cls == .zero then 0 else atUnit b u
    if x = y then 0 else if x < y then -1 else 1

/-- ext of R108: IEEE 754-2019 maximum or minimum. -/
def ext (a b : Exact) (wantMax : Bool) : Exact :=
  if a.cls == .nan || b.cls == .nan then .nan false
  else if a.cls == .zero && b.cls == .zero then .zero (if wantMax then a.sgn && b.sgn else a.sgn || b.sgn)
  else
    let c := cmpExact a b
    if c = 0 then a else if decide (0 < c) == wantMax then a else b

/-- wrap80 of R108. -/
def wrap80 (n : Int) : Int × BitVec 7 :=
  ((n + (2 ^ 79 : Nat)) % ((2 ^ 80 : Nat) : Int) - (2 ^ 79 : Nat),
   if ((2 ^ 79 : Nat) : Int) ≤ n ∨ n < -((2 ^ 79 : Nat) : Int) then aIOVF else 0)

/-- The exact value an operand stands for; an I80 partial has none. -/
def opdVal : Operand → Exact
  | .part x => x
  | .term x => x
  | .int n => ofUnit n 0
  | .empty => .zero false

/-- The integer of an I80 partial. -/
def opdInt : Operand → Int
  | .int n => n
  | _ => 0

/-- lone of R108: a term is rounded, a partial passes through unchanged. -/
def lone (f : Acc) : Operand → Operand × BitVec 7
  | .term x => let r := roundAcc f x; (.part r.1, r.2)
  | a => (a, 0)

/-- comb of R108 with its arithmetic flags. -/
def comb (f : Acc) (op : Nat) (a b : Operand) : Operand × BitVec 7 :=
  match a, b with
  | .empty, .empty => (.empty, 0)
  | a, .empty => lone f a
  | .empty, b => lone f b
  | a, b =>
    if op == opISUM then let r := wrap80 (opdInt a + opdInt b); (.int r.1, r.2)
    else if op == opMAX then
      (if f = .i80 then (.int (max (opdInt a) (opdInt b)), 0) else let r := roundAcc f (ext (opdVal a) (opdVal b) true); (.part r.1, r.2))
    else if op == opMIN then
      (if f = .i80 then (.int (min (opdInt a) (opdInt b)), 0) else let r := roundAcc f (ext (opdVal a) (opdVal b) false); (.part r.1, r.2))
    else
      let x := addExact (opdVal a) (opdVal b)
      let r := roundAcc f x.1
      (.part r.1, x.2 ||| r.2)

/-- One level of the pairwise tree (R110). -/
def combLevel (f : Acc) (op : Nat) : List Operand → List Operand × BitVec 7
  | [] => ([], 0)
  | [a] => let r := comb f op a .empty; ([r.1], r.2)
  | a :: b :: l => let r := comb f op a b; let t := combLevel f op l; (r.1 :: t.1, r.2 ||| t.2)

/-- `k` levels of the pairwise tree over 2^k positions (R110, Table 4-5). -/
def combTree (f : Acc) (op : Nat) : Nat → List Operand → Operand × BitVec 7
  | 0, l => (l.headD .empty, 0)
  | k + 1, l => let r := combLevel f op l; let t := combTree f op k r.1; (t.1, r.2 ||| t.2)

/-- on_die of R110 over 8,192 padded positions. -/
def onDie (f : Acc) (op : Nat) (v : List Operand) : Operand × BitVec 7 := combTree f op 13 v

/-- The padded position of a core (R20, R110). -/
def padPos (k : Nat) : Nat :=
  let cell := k / 4
  let bk := cell / 20
  (bk / 32) * 4096 + (bk / 8 % 4) * 1024 + (bk % 8) * 128 + (cell % 20) * 4 + k % 4

/-! ## Status words (Table 4-10) -/

/-- Status word with the CVF byte and arithmetic flags added. -/
def addFlags (sw : BitVec 64) (cvf : BitVec 8) (afl : BitVec 7) : BitVec 64 :=
  sw ||| pack 64 [(48, 7, afl.toNat), (56, 8, cvf.toNat)]

/-- The flags and CVF byte of a status word alone. -/
def flagPart (sw : BitVec 64) : BitVec 64 := pack 64 [(48, 7, fld sw 48 7), (56, 8, fld sw 56 8)]

/-- merge_i80 of R125, flags ORed. -/
def mergeI80 (a b : BitVec 64) : BitVec 64 :=
  let nan0 := (if bit a 21 then [fld a 0 21] else []) ++ (if bit b 21 then [fld b 0 21] else [])
  let inf0 := (if bit a 45 then [(fld a 24 21, bit a 46)] else []) ++ (if bit b 45 then [(fld b 24 21, bit b 46)] else [])
  let clash := (inf0.map (·.1)).filter fun p => inf0.contains (p, true) && inf0.contains (p, false)
  let nan := nan0 ++ clash
  let inf := inf0.filter fun e => !nan.contains e.1
  let nlo := nan.foldl min (nan.headD 0)
  let ilo := (inf.map (·.1)).foldl min ((inf.map (·.1)).headD 0)
  let isg := match inf.find? (fun e => e.1 == ilo) with | some e => e.2 | none => false
  pack 64
    [(0, 21, if nan.isEmpty then 0 else nlo), (21, 1, b2n (!nan.isEmpty)),
     (22, 1, b2n (bit a 22 || bit b 22 || nan.any (fun p => p != nlo))),
     (24, 21, if inf.isEmpty then 0 else ilo), (45, 1, b2n (!inf.isEmpty)), (46, 1, b2n isg),
     (47, 1, b2n (bit a 47 || bit b 47 || inf.any (fun e => e.1 != ilo)))]
    ||| flagPart a ||| flagPart b

/-- One level of the pairwise tree over the status words of I80 chunks, absent where no chunk is (R110, R125). -/
def swLevel : List (Option (BitVec 64)) → List (Option (BitVec 64))
  | [] => []
  | [a] => [a]
  | a :: b :: l => (match a, b with | some x, some y => some (mergeI80 x y) | some x, none => some x | none, y => y) :: swLevel l

/-- The status word that `k` levels of the tree give (R125, R130). -/
def swTree : Nat → List (Option (BitVec 64)) → BitVec 64
  | 0, l => (l.headD none).getD 0
  | k + 1, l => swTree k (swLevel l)

/-- Merge of the status words of two pieces of one chunk (R234). -/
def mergePieces (a b : BitVec 64) : BitVec 64 :=
  let nv := bit a 21 || bit b 21
  let npos := if bit a 21 && bit b 21 then min (fld a 0 21) (fld b 0 21) else if bit a 21 then fld a 0 21 else fld b 0 21
  let iv := bit a 45 || bit b 45
  let aFirst := bit a 45 && (!bit b 45 || fld a 24 21 ≤ fld b 24 21)
  pack 64
    [(0, 21, if nv then npos else 0), (21, 1, b2n nv), (22, 1, b2n (bit a 22 || bit b 22 || (bit a 21 && bit b 21))),
     (24, 21, if iv then (if aFirst then fld a 24 21 else fld b 24 21) else 0), (45, 1, b2n iv),
     (46, 1, b2n (iv && (if aFirst then bit a 46 else bit b 46))),
     (47, 1, b2n (bit a 47 || bit b 47 || (bit a 45 && bit b 45)))]
    ||| flagPart a ||| flagPart b

/-- The status word of an output chunk whose elements are `xs` (R124), with collected flags. -/
def outStatus (xs : List Exact) (collected : BitVec 64) : BitVec 64 := posStatus 0 xs ||| flagPart collected

/-! ## Scale pass (R120) -/

/-- The bound a member contributes: sign cleared, NaN and infinity replaced by +0. -/
def scaleBound (x : Exact) : Exact :=
  match x.cls with
  | .fin => { x with sgn := false }
  | _ => .zero false

/-- S from the maximum R. -/
def scaleOf (r : BitVec 32) : Int :=
  let x := decodeFp fp32 r.toNat
  match x.cls with
  | .fin => lead x.m x.e - 46
  | _ => -24

/-! ## Combines of Marver (R106, R232) -/

/-- Accumulation format of a SUM or WSUM whose operands are all I80, for which Table 4-3 has no row: a free one (log entry 100). -/
def openAcc : Acc := match Config.sumOfI80 % 3 with | 0 => .wx | 1 => .fp32 | _ => .fp16

/-- Accumulation format of a combine (Table 4-3): operator, formats of the operands, a weight among them (R113), destination format, narrow bit. -/
def mrvAcc (op : Nat) (fs : List Nat) (fd : Nat) (narrow : Bool) : Acc :=
  let ints := fs.all (· == fmtI80)
  if op == opISUM then .i80
  else if (op == opMAX || op == opMIN) && ints then .i80
  else if ints && !isMX fd then openAcc
  else if fs.any (fun f => isPacked f || f == fmtI80) || isMX fd then .wx
  else if (op == opSUM || op == opWSUM) && fs.all (· == fmtFP16) && fd == fmtFP16 && narrow then .fp16
  else .fp32

end Sys2Proof.Machine
end

