-- ==== Sys2Proof/Machine/State.lean ====
section
/-! DEFINITION. The state of the block as plain data, its codes, and the state right after reset. -/
namespace Sys2Proof.Machine

/-! ## Codes -/

/-- Service levels (Table 14-3). -/
inductive Level
  | dark | cane | limp | full
  deriving DecidableEq, Repr

/-- The three resets (R373). -/
inductive ResetKind
  | cold | blk | svc
  deriving DecidableEq, Repr

/-- Status codes (Table 12-3). -/
inductive St
  | ok | busy | range | denied | notx | conflict | draining | residue | version
  deriving DecidableEq, Repr

/-- Wait results (Table 5-4). -/
inductive WCode
  | ok | timeout | ownerLost | epoch | poison | abort
  deriving DecidableEq, Repr

/-- Transfer reasons (Table 6-9). -/
inductive Reason
  | none | full | align | notmember | epoch | nopost | order | length | format | context | abort | mem
  deriving DecidableEq, Repr

/-- States of a sync object (Table 5-1). -/
inductive SoState
  | idle | armed | frozen | abandoned
  deriving DecidableEq, Repr

/-- States of a group (Table 7-1). -/
inductive GState
  | free | disabled | enabled | draining | aborted
  deriving DecidableEq, Repr

/-- Modes of a core's wait (Table 6-20). -/
inductive WaitMode
  | gen | count | cane | push | pull | scalar | fence
  deriving DecidableEq, Repr

/-- Operations on a sync object (Table 5-2) that reach its node. -/
inductive SoOpKind
  | arrive | signal | reset | read
  deriving DecidableEq, Repr

/-- The F_ codes (Table 11-9). -/
inductive FCode
  | hopCrc | linkCtl | laneSpared | linkHalf | standby | rehome | lockstep | copyFenced | frame | linkLost
  | rehomeLost | nodeLost | scaleMismatch | nanTrap | scaleStale | waitTimeout | soRemote | caneVote | caneLost
  | coreMem | xtag | peerWait | stall | drainStuck | groupMismatch | peerAbort | xroute | trigLost | linkDown
  | chunkCrc | ctrlCrc | sliceMismatch | sliceRetired | memPort | xframe | trigOvf | postMismatch | a2avRoom
  | engineLost | poison | poisonStuck | poisonLimit | eccCe | eccUeData | eccUeGroup | eccUeTenant | eccUeShared
  | wire | gafferLockstep | gafferEcc | collectLockstep | protCopy | timebase | unitReturned | retestFail
  | shadowFail | escalated | fatalOut | gafferGrave | protIntegrity | collector | lehrCorr | lehrSector | fwImage
  | lehrAbsent
  deriving DecidableEq, Repr

/-- One event as a source holds it in its syndrome register and as Cullet stores it (Table 11-4), without the stamp. -/
structure Event where
  code : FCode
  cls : Nat                             -- 0-4 (Table 11-3)
  skind : Nat := 0
  sidx : Nat := 0
  gid : Option Nat := none              -- GV and GID
  epoch : BitVec 16 := 0
  soid : Option Nat := none             -- OV and SOID
  waiter : Option Nat := none           -- WV and WAITER (Table 5-5)
  chunk : Bool := false                 -- CV
  cid : BitVec 32 := 0                  -- CID field
  cseq : BitVec 32 := 0                 -- CSEQ field
  detail : BitVec 16 := 0
  rep : Nat := 0                        -- REP
  tid : Option Nat := none              -- tenant concerned, for the reaction of F_ECC_UE_TENANT
  deriving DecidableEq, Repr

/-- A Cullet entry: the event, its stamp and the WSEQ at which it was written (R301, R403). -/
structure Entry where
  ev : Event
  tb : Nat
  wseq : BitVec 32
  deriving DecidableEq, Repr

/-! ## Tree fabric (02) -/

/-- Width at which a link direction runs (R45, R46). -/
inductive Width
  | eighth | full | lower | upper
  deriving DecidableEq, Repr

/-- One beat of a frame, or one slice of a beat at reduced width (R31, R35, R46), with the group its frame names. -/
structure Beat where
  sof : Bool
  eof : Bool
  data : List Byte
  gid : Nat
  deriving DecidableEq, Repr

/-- A frame of Tables 2-3 and 2-4. -/
structure Frame where
  ch : Nat := 0
  kind : Nat := 0
  gid : Nat := 0
  epoch : BitVec 16 := 0
  cid : BitVec 32 := 0
  cseq : BitVec 32 := 0
  fmt : Nat := 0
  op : Nat := 0
  slvl : Nat := 0
  sidx : Nat := 0
  payload : List Byte := []
  status : BitVec 64 := 0
  vanish : Nat := 0
  nslot : Nat := 0
  deriving DecidableEq, Repr

/-- Kinds of return (Table 2-2). -/
inductive RetKind
  | beat | nak | held | release | rewind
  deriving DecidableEq, Repr

/-- Sender's side of one channel and context of a link direction (R38, R40). -/
structure TxChan where
  ready : List Beat := []      -- beats not yet driven, in order
  sent : List Beat := []       -- beats driven and not yet credited, oldest first; each holds a BEAT credit on the up-path
  acc : Nat := 0               -- how many of the oldest not yet credited the receiver has taken
  rpl : Bool := false          -- the next beat driven carries RPL = 1
  deriving DecidableEq, Repr

/-- Receiver's side of one channel and context of a link direction (R35, R36, R40). -/
structure RxChan where
  discard : Bool := false      -- discarding until a beat with RPL = 1
  naks : Nat := 0              -- NAKs in succession of the beat awaited (R43)
  part : List Byte := []       -- slices of the beat being received at reduced width
  partSof : Bool := false      -- the first of them carried SOF
  cur : List Byte := []        -- bytes of the frame being received
  nbeat : Nat := 0             -- its beats so far
  dup : Nat := 0               -- units that a resend brings again although they have been taken (R40)
  gid : Nat := 0               -- the group its header names
  whole : List (List Byte × Nat) := []  -- whole frames not yet judged, with their number of beats
  deriving DecidableEq, Repr

/-- Returns due for one channel and context of a data direction (R42). -/
structure RetDue where
  nak : Bool := false
  rewind : Bool := false
  held : Nat := 0
  release : Nat := 0
  beat : Nat := 0              -- up to 63
  deriving DecidableEq, Repr

/-- A lane check exchange on a link direction (R44, R67). -/
inductive LaneChk
  | idle
  | asked (ncyc : Nat) (since : Nat)      -- request sent, answer awaited (cycle of the receiver's count)
  | running (ncyc : Nat)                  -- PRBS-7 is driven
  | counted (mode : Nat) (excess : Bool) (lanes : List LaneFail) (since : Nat)  -- report sent or due
  deriving DecidableEq, Repr

/-- A LINKCTL frame: node level and number of the sender, and the payload (R67). -/
structure LinkCtl where
  slvl : Nat
  sidx : Nat
  payload : List Byte
  deriving DecidableEq, Repr

/-- One direction of one tree link, both ends. -/
structure LinkState where
  liveLvl : Bool := false                 -- level of LIVE last seen (R32)
  liveAge : Nat := 0                      -- cycles without a change
  liveDrv : Bool := false                 -- level of LIVE driven
  liveCnt : Nat := 0                      -- cycles since the sender toggled it
  cyc : Nat := 0                          -- cycles counted by the receiver
  dis : Tab Nat := []                     -- consecutive disagreements, key copy*20 + bit (R31)
  width : Width := .eighth
  spares : List (Nat × Nat) := []         -- (lane group, failed lane in it) carried on the spare (R44)
  spareBad : List Nat := []               -- lane groups whose spare lane failed
  lost : Bool := false                    -- declared lost (R32) or carrying neither half (R45)
  unusable : Bool := false                -- standby link that cannot serve a re-home (R45)
  nakTimes : List Nat := []               -- cycles of the NAKs of the last 1,024 (R43)
  hopErr : Nat := 0                       -- hop error counter (R40)
  chk : LaneChk := .idle
  hold : Bool := false                    -- channel beats held (R44, R382)
  prbsDue : Option Nat := none            -- LANE_CHECK answer being sent: PRBS-7 cycles to drive after its last beat
  homeAsk : Option (Nat × Nat) := none    -- standby, down: WHY of the cell's HOME_LOST, and the cycle it was sent in (R67)
  ctlIn : List LinkCtl := []              -- LINKCTL frames received and judged good
  ptr : Tab Nat := []                     -- arbitration pointer per context (R48)
  cnt : Tab Nat := []                     -- remaining count per context; absent: weight of the pointed channel
  lastForeign : Bool := true              -- context of the last grant; after reset the own context goes first
  tx : Tab TxChan := []                   -- key 2*ch + ctx; 32: LINKCTL frames
  rx : Tab RxChan := []                   -- key 2*ch + ctx; 32: LINKCTL frames
  midKey : Nat := 0                       -- key of the beat whose slices are being driven
  rets : Tab RetDue := []                 -- returns due for this data direction, key 2*ch + ctx
  retIn : List (RetKind × Nat) := []      -- returns the sender has sampled, oldest first, with key 2*ch + ctx
  word : BitVec 20 := 0                   -- last control word driven
  beatOut : Option (List Byte × BitVec 16) := none  -- beat driven with it
  prbs : Bool := false                    -- PRBS-7 driven
  prbsLeft : Nat := 0                     -- cycles of it still to drive (R67)
  deriving DecidableEq, Repr

/-- One child slot of a node's channel: beats checked and not yet combined (hubs and roots), or elements pushed (cells). -/
structure SlotIn where
  fifo : List Beat := []
  taken : Nat := 0             -- beats of the oldest frame already combined
  frames : List Frame := []    -- whole frames judged good and not yet used up, oldest first
  ops : List Operand := []     -- elements supplied by the core, converted or formed into terms (R96, R180)
  cvf : BitVec 8 := 0          -- conversion flags of those elements
  afl : BitVec 7 := 0          -- arithmetic flags of the terms formed (AINV)
  sw : BitVec 64 := 0          -- positions recorded by encode_i80 (R125)
  ready : Bool := false        -- the core has supplied every element of the chunk being formed
  deriving DecidableEq, Repr

/-- The output chunk a node is forming (R49). -/
structure OutChunk where
  hdr : Frame                  -- header fields of the chunk
  done : Nat := 0              -- beats combined so far
  src : Option Nat := none     -- UP_COPY: the slot whose contribution is carried
  nel : Nat := 0               -- cell: elements of the chunk
  eof : Bool := false          -- its last beat has been combined
  deriving DecidableEq, Repr

/-- A whole up chunk in a stage buffer (R39). -/
structure UpChunk where
  frame : Frame
  heldUp : Bool := false       -- the parent has returned HELD for it
  gone : Bool := false         -- discarded with its group; returns that speak of it are still on their way
  src : Option Nat := none     -- UP_COPY: the slot that fed it
  deriving DecidableEq, Repr

/-- A down chunk held by a node (R53-R55). -/
structure DownChunk where
  frame : Frame
  since : Nat                  -- count at which it was taken
  taken : List Nat := []       -- child slots that have taken it into a down buffer
  released : List Nat := []    -- child slots that have released it (at a cell: cores that have accepted it)
  told : Tab Nat := []         -- stalls reported, by child slot (R209)
  gone : Bool := false         -- discarded with its group; returns that speak of it are still on their way
  deriving DecidableEq, Repr

/-- A chunk of a collective in progress: group, epoch, issue order of the collective, CSEQ. -/
structure ChunkKey where
  gid : Nat
  epoch : BitVec 16
  order : Nat
  cseq : BitVec 32
  deriving DecidableEq, Repr

/-- One channel and context of a node. -/
structure NodeChan where
  slots : Tab SlotIn := []
  out : Option OutChunk := none
  up : List UpChunk := []      -- whole chunks retained, oldest first
  down : List DownChunk := []  -- oldest first
  downComing : List (Nat × BitVec 32 × BitVec 32) := []  -- down buffers reserved for frames on their way, in order: GID, CID, CSEQ
  mism : Nat := 0              -- lockstep mismatches in succession on one chunk (R63)
  mismOf : Bool × BitVec 32 × BitVec 32 := (false, 0, 0)  -- that chunk: down, CID, CSEQ
  upSeen : List ChunkKey := [] -- chunks whose output the node has held whole, newest first (R58)
  downSeen : List ChunkKey := []  -- down chunks taken, newest first (R58)
  copyNext : List (Nat × BitVec 32 × Nat) := []  -- UP_COPY begun and not ended: group, CID and next CSEQ
  deriving DecidableEq, Repr

/-- Lockstep state of a node (R61-R63). -/
structure NodeState where
  fenced : Option Bool := none -- the fenced copy: false A, true B
  kac : Bool := false          -- known-answer check running, all traffic held
  nodeLost : Bool := false
  deriving DecidableEq, Repr

/-- Compiled mask of one group at one node, with the epoch written (R195). -/
structure MaskEntry where
  mask : Nat
  epoch : BitVec 16
  host : Bool := false         -- spine root: the host bit
  marver : Bool := false       -- spine root: the Marver bit
  deriving DecidableEq, Repr

/-- Re-homing of a block (R56-R60): step of Table 2-9 reached. -/
structure Rehome where
  step : Nat := 0              -- 0 home, 1 hub stopped, 2 REHOME_GO sent, 3 rewound, 4 cells switched
  cells : List Nat := []       -- cells switched to their standby link
  deriving DecidableEq, Repr

/-- The tree fabric. -/
structure Fabric where
  links : Tab LinkState := []
  nodes : Tab NodeState := []
  chans : Tab NodeChan := []
  masks : Tab (Option MaskEntry) := []
  rehome : Tab Rehome := []
  weight : Tab Nat := []       -- channel weights, default 1 (R48)
  pauseCh : List Nat := []     -- channels paused by a commit (R339)
  pauseHalf : List Nat := []   -- seam links paused by a commit (Table 2-12)
  seamSlow : Tab Bool := []    -- bridge ratio per half: true 1:2 (R64)
  deriving DecidableEq, Repr

/-! ## Sync objects and the Cane (05) -/

/-- A sync object record (Table 5-1). NWAIT is counted from the waits the ports hold. -/
structure SyncObj where
  count : Nat := 0
  thresh : Nat := 0
  gen : BitVec 16 := 0
  tid : Nat := 0
  st : SoState := .idle
  fpre : Bool := false
  sat : Bool := false
  gid : Option Nat := none     -- GV and GID
  al : Bool := false
  tag : Nat := 0
  held : Nat := 0
  lastc : Nat := 0
  lastk : Nat := 0
  lastx : Nat := 0
  psn : Bool := false
  heldPsn : Bool := false      -- mark of a poisoned arrival in HELD (R145, R291)
  tbx : BitVec 32 := 0
  bthr : Nat := 0
  deriving DecidableEq, Repr

/-- Who sent an operation to an object (R134, R137). -/
inductive Caller
  | core (k : Nat)
  | marver (sched : Nat)
  | host (slot : Nat)
  | remote (chip : Nat) (gid : Nat) (port : Nat) (soidTag : BitVec 32)
  | gaffer
  deriving DecidableEq, Repr

/-- An operation on its way to an object. -/
structure SoOp where
  soid : Nat
  kind : SoOpKind
  opnd : Nat
  tid : Nat
  tag : Option Nat             -- task tag presented; none: the caller never acts as owner
  caller : Caller
  psn : Bool := false          -- poisoned arrival (R291)
  deriving DecidableEq, Repr

/-- A notice of a change on its way to a cell (R153). -/
structure Notice where
  cell : Nat
  soid : Nat
  count : Nat
  gen : BitVec 16
  st : SoState
  psn : Bool
  cores : List Nat              -- waiters asleep on the object at the change
  deriving DecidableEq, Repr

/-- Sync objects. -/
structure Sync where
  objs : Tab SyncObj := []
  ops : List SoOp := []
  notices : List Notice := []
  trig : List (Nat × Nat × Bool) := []  -- trigger notices on their way to Marver: SOID, k, whether a schedule that named the SOID has been unloaded since
  deriving DecidableEq, Repr

/-- A recorded Cane token (R164, R165). -/
structure Token where
  parity : Bool
  stage : Nat
  orig : Nat
  deriving DecidableEq, Repr

/-- A Cane channel (Table 5-9, R155-R165). -/
structure CaneChan where
  phase : BitVec 32 := 0
  sense : Bool := false
  bound : Option Nat := none    -- BOUND and GID
  apex : Nat := 0
  hostm : Bool := false
  xchip : Bool := false
  lost : Bool := false
  inte : Bool := false
  hostLeg : Bool := false
  members : List Nat := []      -- member cores, as compiled at the enable
  stage : Nat := 0              -- inter-chip stage the chip is in: 0 not entered, 1-3
  tokens : List Token := []
  legs : List (Nat × Bool) := []  -- levels of the cores' arrival legs, sorted by core; absent: 0
  relLeg : List (Nat × Bool) := []  -- level of the release leg seen by a cell, sorted by cell; absent: 0
  deriving DecidableEq, Repr

/-- The Cane. -/
structure Cane where
  chans : Tab CaneChan := []
  rel : List (Nat × Nat × Bool × BitVec 32) := []   -- releases on their way: channel, cell, level, phase count after it
  flags : List (Nat × Nat × Nat × Nat × Nat) := []  -- flagged copies: level, node, slot, channel, copy (R158)
  bootBar : Bool := false                           -- CN63 serves as the boot barrier (R379)
  deriving DecidableEq, Repr

/-! ## Core ports (06) -/

/-- A transfer held by a port. -/
structure Xfer where
  gid : Nat
  cid : BitVec 32
  laddr : Nat
  nelem : Nat
  ctx : BitVec 128
  weight : BitVec 32 := 0x3F800000
  waiting : Bool := false        -- waits for its posting (R173)
  since : Nat := 0               -- count at which it was written
  seq : Nat := 0                 -- order in which the port accepted it
  nchunk : Nat := 0              -- chunks it spans (R174)
  cur : Nat := 0                 -- chunk in progress
  buf : List Byte := []          -- bytes of the chunk read so far, or still to write
  issued : Nat := 0              -- push: beats of the chunk requested
  ackNeed : List (Nat × BitVec 64 × Nat × Bool) := []  -- pull: per chunk handed down, beats still to be acknowledged, status word, number, a rewrite under POISON (R178)
  prog : Nat := 0                -- chunks held or done
  committed : Bool := false      -- pull: the collective's commit notice has reached the cell (R282)
  deriving DecidableEq, Repr

/-- One direction of a core port's streams (R173, Tables 6-10 to 6-12). -/
structure Stream where
  run : Option Xfer := none
  que : Option Xfer := none
  err : Reason := .none
  ev : Bool := false
  cnt : Nat := 0                 -- HELDN or DONEN
  cid : BitVec 32 := 0
  psn : Bool := false
  fchk : Nat := 0
  fv : Bool := false
  sw : BitVec 64 := 0            -- CP_PULL_SW
  opened : List Xfer := []       -- pulls ended and open until the commit (R178)
  lastCid : BitVec 32 := 0       -- CID and count of the last transfer that ran, shown again after a refusal (Table 6-10)
  lastCnt : Nat := 0
  deriving DecidableEq, Repr

/-- The scalar in progress (R181). -/
structure Scal where
  value : BitVec 32
  gid : Nat
  cid : BitVec 32
  ctxPush : BitVec 128
  ctxPull : BitVec 128
  weight : BitVec 32
  waiting : Bool
  since : Nat
  sent : Bool := false           -- its element has been handed to the cell
  deriving DecidableEq, Repr

/-- CP_SCALAR_RES (Table 6-15). -/
structure ScalRes where
  value : BitVec 32 := 0
  s : BitVec 9 := 0
  sv : Bool := false
  err : Reason := .none
  ev : Bool := false
  v : Bool := false
  sw : BitVec 64 := 0
  deriving DecidableEq, Repr

/-- The CP_SYNC operation a port holds or has in flight (R183). -/
structure SyncHold where
  kind : SoOpKind
  soid : Nat
  rmt : Bool
  ord : Nat
  gid : Nat
  chip : Nat
  opnd : Nat
  before : Nat                   -- SEQ below which transfers were written before it
  sent : Bool := false
  deriving DecidableEq, Repr

/-- A core's wait in progress (R140). -/
structure Wait where
  mode : WaitMode
  id : Nat                       -- SOID or channel
  target : Nat
  deadline : Nat
  remain : Option Nat := none    -- stored remaining time while the object is FROZEN (R145)
  gate : Bool                    -- NOGATE is 0
  phase : BitVec 32 := 0         -- CANE: phase in which the core arrived
  cid : BitVec 32 := 0           -- PUSH, PULL: transfer awaited
  gid : Option Nat := none       -- group of the transfer, object or channel
  deriving DecidableEq, Repr

/-- CP_WRES (Table 6-21). -/
structure WRes where
  code : WCode := .ok
  v : Bool := false
  mode : WaitMode := .gen
  st : SoState := .idle
  gen : BitVec 16 := 0
  val : BitVec 32 := 0
  deriving DecidableEq, Repr

/-- A read of core memory outstanding (R175): SEQ of its push, beat address, group, CID and number of the chunk, and whether a
recomputation has made it stale. -/
structure RdReq where
  seq : Nat
  addr : Nat
  gid : Nat
  cid : BitVec 32
  chunk : Nat
  stale : Bool := false
  deriving DecidableEq, Repr

/-- A core port. -/
structure CorePort where
  ctxPush : BitVec 128 := 0x000000003F8000003F80000000000000
  ctxPull : BitVec 128 := 0x000000003F8000003F80000000000000
  weight : BitVec 64 := 0x3F800000
  pushLo : BitVec 64 := 0
  pullLo : BitVec 64 := 0
  scalLo : BitVec 64 := 0
  syncLo : BitVec 64 := 0
  waitLo : BitVec 64 := 0
  tid : Nat := 0
  tv : Bool := false
  tag : Nat := 0
  push : Stream := {}
  pull : Stream := {}
  nseq : Nat := 0                -- transfers written so far
  scal : Option Scal := none
  scalRes : ScalRes := {}
  sync : Option SyncHold := none
  syncSt : St := .ok             -- CP_CMD_STAT.SYNC
  rv : Bool := false             -- CP_CMD_STAT.RV
  caneSt : St := .ok             -- CP_CMD_STAT.CANE
  waitSt : St := .ok             -- CP_CMD_STAT.WAIT
  sorec : BitVec 256 := 0
  wait : Option Wait := none
  wres : WRes := {}
  cgReq : Bool := false
  cgAck : Bool := false
  wake : Bool := false
  fPullvis : Option Nat := none  -- writes still to be acknowledged
  fSync : Bool := false
  fPush : Option Nat := none     -- SEQ below which every push must have ended
  errAddr : Bool := false
  errWro : Bool := false
  errRd : Bool := false
  errWr : Bool := false
  errSc : Bool := false
  rdReq : List RdReq := []       -- reads outstanding, oldest first (R175)
  wrOut : List (Nat × Nat × List Byte) := []  -- writes issued and not acknowledged, oldest first: SEQ of the pull, address, bytes
  wrAcc : Nat := 0               -- how many of them the core is known to have accepted (R187)
  rdata : BitVec 64 := 0         -- read data last returned (R169)
  posted : List (Nat × BitVec 32 × Bool) := []  -- (group, CID, is pull) parts this core has joined (ORDER)
  deriving DecidableEq, Repr

/-! ## Groups, tenants, channels (07) -/

/-- A posting (Table 9-1) as the chip accepted it. -/
structure Coll where
  cid : BitVec 32
  desc : BitVec 1024
  order : Nat                    -- issue order on the chip (R270)
  s : Option Int                 -- unit exponent as resolved (R248); none: not an ISUM and no I80
  dfltS : Bool := false          -- ISUM under the default S of R118
  sched : Option Nat := none     -- schedule that carries it, until its pass ends
  carried : Bool := false        -- a schedule carries or carried it
  ch : Nat := 0                  -- reduction channel
  vcu : Bool := false            -- class between chips (R210)
  cellsTo : List Nat := []       -- cells to which the posting is still on its way
  cellsAt : List Nat := []       -- cells it has reached
  coresLeft : List Nat := []     -- parts of member cores that have not ended: 2k push, 2k + 1 pull
  epoch : BitVec 16
  early : Bool                   -- DMODE at the posting
  poisons : Nat := 0             -- POISONs that named it (R293)
  named : List Nat := []         -- CSEQ of the on-die chunks that this chip rewrites at its member cores (R289)
  posted : Bool := false         -- the posting has been sent to the cells
  r : Option (BitVec 32) := none -- SCALEPASS: R, once the result is known
  apex : Nat := 5                -- apex at the posting (R51)
  deriving DecidableEq, Repr

/-- NaN trap record (Table 4-11), without GID. -/
structure TrapRec where
  cid : BitVec 32
  cseq : BitVec 32
  npos : Nat
  step : Nat
  sv : Bool
  epoch : BitVec 16
  ord : Nat := 0                 -- step that took the trap, among those of equal CSEQ (R128)
  deriving DecidableEq, Repr

/-- Poison log entry (Table 10-4), without GID. -/
structure PoisonRec where
  cid : BitVec 32
  pcseq : BitVec 32
  first : BitVec 32
  nchk : Nat
  oepoch : BitVec 16
  det : Bool
  mem : Bool
  cores : Bool
  tb : Nat
  deriving DecidableEq, Repr

/-- Handling of a POISON in progress (R286, R287). -/
structure PoisonWork where
  since : Nat
  epoch : BitVec 16              -- the new epoch
  quiesced : Bool := false       -- step 4 done
  got : List Nat := []           -- member 0: chips whose BUMPED it holds
  deriving DecidableEq, Repr

/-- A handshake of another chip (R201): its epoch, list CRC and CLOG. -/
structure Handshake where
  chip : Nat
  epoch : BitVec 16
  crc : BitVec 32
  clog : Nat
  deriving DecidableEq, Repr

/-- A group table entry (Table 7-1) and what goes with it. -/
structure Group where
  st : GState := .free
  enq : Bool := false
  tid : Nat := 0
  epoch : BitVec 16 := 0
  gtag : BitVec 32 := 0
  cores : BitVec 5120 := 0
  hostm : Bool := false
  chips : List Nat := []
  peers : Bool := false
  apex : Nat := 0
  apexSet : Nat := 0             -- HUB_PLACE level for the next enable, 0 natural
  chn : Option Nat := none       -- NV, CHN
  chw : Option Nat := none       -- WV, CHW
  dmode : Bool := false          -- true EARLY
  ntrap : Bool := false
  wdef : Nat := 1000
  stall : Nat := 1000
  report : Bool := false         -- STALLACT = REPORT
  clog : Nat := 4
  pinn : Bool := false
  pinw : Bool := false
  notify : Option Nat := none
  compiled : Bool := false       -- the member list is unchanged since the last compile
  compiling : Bool := false      -- GROUP_ENABLE waits for MASK_COMPILE_DONE
  listCrc : BitVec 32 := 0       -- CRC-32C of the list header and CHIPS (R201)
  since : Nat := 0               -- count at the GROUP_DISABLE, or at the last F_DRAIN_STUCK
  hs : List Handshake := []      -- handshakes received under the current epoch or a newer one
  peerSince : Nat := 0           -- count at the enable or adoption, or at the last F_PEER_WAIT
  colls : List Coll := []        -- in progress, in issue order
  norder : Nat := 0
  scales : List (BitVec 32 × BitVec 32 × Int) := []  -- CID, R, S of the last 8 SCALEPASS, newest first (R248)
  scaleGone : List (BitVec 32) := []  -- CID of those whose place a later one has taken
  trap : Option TrapRec := none
  plog : List PoisonRec := []    -- newest first, at most 8
  pwork : Option PoisonWork := none
  dones : List (BitVec 32 × Nat) := []  -- EARLY, member 0: DONE held, by CID and chip (R281)
  cleanup : Bool := false        -- abort clean-up in progress
  deriving DecidableEq, Repr

/-- A task (R336). -/
structure Task where
  tid : Nat
  tag : Nat
  cores : BitVec 5120
  suspended : Bool := false
  deriving DecidableEq, Repr

/-- Protection table, per tenant (Table 7-7). -/
structure Tenant where
  en : Bool := false
  expert : Bool := false
  cells : BitVec 1280 := 0
  box : List Nat := [0, 0, 0, 0, 0, 0]
  qgrp : Nat := 0
  qso : Nat := 0
  qcane : Nat := 0
  qhost : Nat := 0
  qsched : Nat := 0
  qvcbw : Nat := 4
  deriving DecidableEq, Repr

/-- Grant of a reduction channel (Table 7-8). -/
inductive ChGrant
  | unassigned
  | exclusive (tid : Nat)
  | shared (mask : BitVec 64)
  deriving DecidableEq, Repr

/-- Cross-tenant grant of a sync object (Table 7-8). -/
structure SoGrant where
  soid : Nat := 0
  valid : Bool := false
  tid : Nat := 0
  arrive : Bool := false
  signal : Bool := false
  read : Bool := false
  deriving DecidableEq, Repr

/-- A pending protection proposal (R343). -/
structure Proposal where
  record : List Byte
  pseq : BitVec 32
  digest : List Byte
  expiry : Nat
  deriving DecidableEq, Repr

/-- Class parameters of a link port (Table 7-9). -/
structure LinkClass where
  rate : Nat := 30
  depth : Nat := 64
  wt : Nat := 24
  upd : Bool := false
  deriving DecidableEq, Repr

/-- Groups, tenants and channels. -/
structure Groups where
  groups : Tab Group := []
  tasks : List Task := []
  tenants : Tab Tenant := []
  chGrant : Tab ChGrant := []
  caneGrant : Tab (Option Nat) := []
  soGrant : Tab SoGrant := []
  slotGrant : Tab (Option Nat) := []
  pseq : BitVec 32 := 0
  prop : Option Proposal := none
  propOut : St := .ok
  vcbW : Tab Nat := []           -- default 4 (R211)
  lclass : Tab LinkClass := []
  resetT : List Nat := []        -- tenants whose abort clean-ups have not ended (R308)
  deriving DecidableEq, Repr

/-! ## Marver (08, 09) -/

/-- A step descriptor (Table 9-7). -/
structure Step where
  kind : Nat
  tv : Bool := false
  trig : Nat := 0
  op : Nat := 0
  narrow : Bool := false
  fmt : Nat := 0
  ctx : Nat := 0
  buf : Nat := 0
  wa : Bool := false
  wb : Bool := false
  ws : Bool := false
  off : Nat := 0
  cseq0 : Nat := 0
  nchk : Nat := 0
  ua : Nat := 0
  ub : Nat := 0
  uc : Nat := 0
  peer : Nat := 0
  stage : Nat := 0
  nrmt : Bool := false
  nsig : Bool := false
  nsoid : Nat := 0
  nn : Nat := 0
  after : Nat := 0
  uw : Nat := 0
  nel : Nat := 0                 -- schedules built from postings: elements in all; 0: every chunk is full
  eoff : Nat := 0                -- schedules built from postings: first element within the tensor at BASE + OFF
  pk : Nat := 1                  -- schedules built from postings: packets of one chunk (R259)
  deriving DecidableEq, Repr

/-- A schedule header (Table 9-6). -/
structure SchedHdr where
  gid : Nat
  rv : Bool := false
  units : Nat := 1
  stand : Bool := false
  spp : Bool := false
  s : Int := 0
  rlog : Nat := 0
  cid0 : BitVec 32 := 0
  spcid0 : BitVec 32 := 0
  raddr : Nat := 0
  base : List Nat := []
  ctx : List (BitVec 128) := []
  deriving DecidableEq, Repr

/-- A chunk in the working pool (R264): format, payload, status word, VANISH. -/
structure PChunk where
  fmt : Nat
  n : Nat                        -- elements
  data : List Byte
  status : BitVec 64 := 0
  vanish : Nat := 0
  loaded : Bool := false         -- written by a LOAD or DIE_IN step (R280)
  skip : Nat := 0                -- weights held in whole page slots: elements before the chunk's, and elements in the slots (R247)
  held : Option Nat := none
  deriving DecidableEq, Repr

/-- What a step contributes to the completion record (Table 8-9, R240). -/
structure PassRec where
  cvf : BitVec 8 := 0
  afl : BitVec 7 := 0
  nv : Option (BitVec 32 × Nat) := none  -- CSEQ and position of the first NaN
  vanish : Nat := 0
  deriving DecidableEq, Repr

/-- Progress of one step of a pass. -/
structure StepRun where
  started : Bool := false
  written : List Nat := []       -- chunks whose work is done
  issued : List Nat := []        -- chunks whose requests or packets have been issued
  waits : Nat := 0               -- fences outstanding; DIE_OUT: on-die chunks handed over
  need : List (Nat × Nat) := []  -- chunks in progress, with the responses or acknowledgements still due
  got : List (Nat × Nat × List Byte × BitVec 64 × Nat) := []  -- parts of a chunk that have arrived: chunk, offset or number, bytes, status word, VANISH
  ports : List Nat := []         -- STORE: memory ports that carry its writes (R220)
  pieces : List (Nat × Nat × List Operand × BitVec 7) := []  -- COMB: pieces combined: chunk, position, elements, flags
  taken : List (Nat × Nat) := [] -- COMB: pieces given to a slice: chunk, position
  completed : Bool := false
  skip : List Nat := []          -- chunks (DIE_OUT: on-die chunks) delivered before a POISON (R288)
  fired : Bool := false          -- NOTE: fired, and not to fire again (R288)
  crec : PassRec := {}
  deriving DecidableEq, Repr

/-- A pass of a schedule. -/
structure Pass where
  p : Nat
  cid : BitVec 32
  epoch : BitVec 16
  s : Option Int := none
  reserved : Bool := false
  since : Nat := 0               -- count at which step 0 became ready
  aged : Bool := false           -- waited 100 us (R216)
  desc : List Step := []         -- its steps; a count exchange adds those that it decides (R251)
  steps : List StepRun := []
  units : Tab (Option PChunk) := []  -- key: unit number of the chunk's first unit
  fin : Nat := 0                 -- completion actions: 0 not begun, 1 fences out, 2 record write out, 3 its fence out, 4 actions due
  fwait : Nat := 0               -- responses that the stage awaits
  res : WCode := .ok
  stopped : Bool := false        -- stopped by a POISON until GO (R286)
  doneSent : Bool := false       -- EARLY: DONE sent to member 0
  committed : Bool := false
  closed : Option (Nat × Nat) := none  -- every step has completed: tb_count, and live slices, at that moment (R216, R241)
  deriving DecidableEq, Repr

/-- A resident schedule (R237). -/
structure Sched where
  hdr : SchedHdr
  steps : List Step              -- the store's descriptors, at most 128
  more : List Step := []         -- schedules built from postings: steps that firmware writes into slots that fall free (log entry 62)
  tid : Nat
  tag : Option Nat := none       -- task tag presented for its operations
  coll : Option (BitVec 1024) := none  -- posting it was built from
  tfmt : Nat := 0                -- on-die wire format
  wfmt : Nat := 0                -- wire format between chips (R264)
  vcu : Bool := false
  oneShot : Bool := false
  pend : List Nat := []          -- pending count of each step
  passes : List Pass := []
  nextPass : Nat := 0
  unloading : Option Nat := none -- SCHED_UNLOAD parked since
  deriving DecidableEq, Repr

/-- A memory request in use (R218). -/
structure MemReq where
  op : Nat                       -- 0 READ, 1 WRITE, 2 FENCE
  addr : Nat := 0
  nb : Nat := 0                  -- beats
  data : List Byte := []         -- write data, or bytes read so far
  strb : List Bool := []
  sched : Nat := 0
  pass : Nat := 0
  step : Nat := 0
  chunk : Nat := 0
  gid : Nat := 0
  len : Nat := 0                 -- bytes asked for or written
  off : Nat := 0                 -- offset of its bytes within the chunk
  abandoned : Bool := false      -- tag held, responses discarded (R375, R305)
  deriving DecidableEq, Repr

/-- A memory port. -/
structure MemPort where
  tags : Tab (Option MemReq) := []
  queue : List MemReq := []      -- requests waiting for a tag
  out : List (Nat × MemReq) := []  -- requests driven, newest first
  deriving DecidableEq, Repr

/-- A piece of a combine (R232). -/
structure Piece where
  sched : Nat
  pass : Nat
  step : Nat
  chunk : Nat
  pos : Nat                      -- element position within the chunk
  len : Nat
  deriving DecidableEq, Repr

/-- An adder slice (R232-R236, R372). -/
structure Slice where
  retired : Bool := false
  powered : Bool := true
  asked : Bool := false          -- power asked for
  lastTake : Nat := 0
  piece : Option Piece := none
  mism : List Nat := []          -- counts of the mismatches within 1 s
  deriving DecidableEq, Repr

/-- Marver. -/
structure Marver where
  scheds : Tab (Option Sched) := []
  freeUnits : Nat := 8960
  order : List (Nat × Nat) := [] -- passes waiting for their reservation, in order: schedule, pass
  slices : Tab Slice := []
  rr : Nat := 0
  redo : List (Piece × Nat) := []  -- pieces to be taken again, not by this slice
  mps : Tab MemPort := []
  postOut : List (Nat × Nat × BitVec 32) := []  -- postings on their way: cell, group, CID
  commits : List (Nat × Nat × BitVec 32) := []  -- commit notices on their way: cell, group, CID
  deriving DecidableEq, Repr

/-! ## Link ports (08, 10) -/

/-- A packet (Tables 8-5, 8-6). -/
structure Packet where
  head : BitVec 512
  data : List Byte
  tail : BitVec 512
  deriving DecidableEq, Repr

/-- An item sent on a link port: a packet or a CTRL flit. -/
inductive Item
  | pkt (p : Packet)
  | ctrl (f : BitVec 512)
  deriving DecidableEq, Repr

/-- An item waiting to be sent or retained. -/
structure TxItem where
  item : Item
  tid : Nat                      -- tenant served; 64: unknown (relayed)
  lpsn : Option (BitVec 16) := none
  tsent : Nat := 0
  src : Option (Nat × Nat × Nat × Nat) := none  -- schedule, pass, step, chunk it belongs to
  relay : Option (Nat × Nat) := none  -- a relayed item: port it came in on, and units to return at the acknowledgement
  tell : Option Nat := none      -- the core whose CP_SYNC ends when the item leaves the chip (R150, R183)
  deriving DecidableEq, Repr

/-- One class of one link port. -/
structure LinkClassState where
  crd : Nat := 0                 -- router credits held
  ret : Nat := 0                 -- flit credits to return to the router
  wait : List TxItem := []       -- items not yet sent
  imm : List (BitVec 512) := []  -- ACK, NAK and CREDIT flits to send ahead
  again : List (BitVec 16) := [] -- retained items to resend, in order
  cur : List (Nat × BitVec 512) := []  -- flits of the item being sent, still to be driven: kind, flit
  curN : Option (BitVec 16) := none  -- LPSN of the numbered item being sent
  retain : List TxItem := []     -- oldest first
  nextTx : BitVec 16 := 0
  nextRx : BitVec 16 := 0
  nakWait : Bool := false        -- discarding until the resend
  hd : Option (BitVec 512) := none  -- HEAD of the packet landing
  buf : List Byte := []          -- its data so far
  parked : List (Packet × Nat × Nat) := []  -- checked packets waiting for a RECV: since, units
  rxUsed : Nat := 0              -- receive units in use
  units : BitVec 16 := 0         -- units returned so far
  txCred : BitVec 16 := 0        -- UNITS last received
  txUsed : Nat := 0              -- receive units of the neighbour in use
  last : Nat := 63               -- tenant last served
  wleft : Nat := 0               -- packets the last tenant may still send in its turn
  credAt : Nat := 0              -- count at which the last CREDIT was sent (R230)
  early : List (Nat × Nat × Nat × Nat) := []  -- result chunks that the landing packet has already reached: schedule, pass, step, chunk
  deriving DecidableEq, Repr

/-- A link port. -/
structure LinkPort where
  up : Bool := false
  rst : Bool := true             -- lpN_rst
  vcu : LinkClassState := {}
  vcb : LinkClassState := {}
  inbox : List (BitVec 512) := []  -- CTRL flits accepted for this chip
  ctlPkts : List Packet := []    -- delivery control packets accepted for this chip
  out : List (Bool × Nat × BitVec 512) := []  -- flits driven, newest first: class, kind, flit
  pauseVcb : Bool := false
  deriving DecidableEq, Repr

/-! ## Faults (11) -/

/-- A C2 event whose timer runs (R315). -/
structure C2Timer where
  code : FCode
  gid : Option Nat
  tid : Option Nat
  start : Nat
  tesc : Nat
  deriving DecidableEq, Repr

/-- A unit return in progress (R320-R323). -/
structure UnitRet where
  u : UnitId
  copyB : Bool
  shadow : Bool := false
  agree : Nat := 0
  notify : Option Nat
  deriving DecidableEq, Repr

/-- Faults. -/
structure Faults where
  ring : List Entry := []        -- newest first, at most 64
  wseq : BitVec 32 := 0
  total : Nat := 0
  drop : Nat := 0
  fcount : Option Nat := none    -- further entries before the freeze
  frozen : Bool := false
  c2pend : Bool := false
  lastf : BitVec 16 := 0
  timers : List C2Timer := []
  c3timer : Option (Nat × Nat) := none  -- start, T_ESC
  fatal : Bool := false
  bstop : Bool := false
  c4 : Bool := false
  synd : List Event := []        -- events the sources hold, oldest first
  polled : List (Nat × Nat) := []  -- sources whose pair is faulty: SKIND, SIDX
  tesc : Nat := 2000             -- in us
  gafMis : List Nat := []
  colMis : Tab (List Nat) := []
  returns : List UnitRet := []
  deriving DecidableEq, Repr

/-! ## Gaffer (12) -/

/-- A mailbox: command and response areas of 256 bytes (Tables 12-1, 12-2). -/
structure Mailbox where
  cmd : BitVec 2048 := 0
  rsp : BitVec 2048 := 0         -- bits 96-98 of the header are the three flags below
  full : Bool := false
  done : Bool := false
  ovr : Bool := false
  deriving DecidableEq, Repr

/-- The commands that may be staged (Table 12-4, TX yes or only). -/
inductive Staged
  | groupUpdate (tid : Nat) (payload : BitVec 1920) (mem : List Byte)
  | channelPin (tid : Nat) (payload : BitVec 1920)
  | channelWeight (tid : Option Nat) (payload : BitVec 1920)
  | vcbWeight (tid : Nat) (payload : BitVec 1920)
  | hubPlace (tid : Nat) (payload : BitVec 1920)
  | deliveryMode (tid : Nat) (payload : BitVec 1920)
  | chipPlace (payload : BitVec 1920)
  | linkClass (payload : BitVec 1920)
  | halfClock (payload : BitVec 1920)
  | escSet (payload : BitVec 1920)
  | powerCap (payload : BitVec 1920)
  deriving DecidableEq, Repr

/-- A transaction (R338-R341). -/
structure Tx where
  txid : BitVec 32
  deadline : Nat
  staged : List (Staged × List (Nat × Nat)) := []  -- with the change counts read at staging: key, count
  committing : Option Nat := none  -- COMMITTING, since
  deriving DecidableEq, Repr

/-- A parked command (R330). -/
inductive Parked
  | commit (mb : Nat)
  | enable (mb gid : Nat)
  | unload (mb sched : Nat)
  | tenantReset (mb tid : Nat)
  | serviceReset
  | fwUpdate (mb : Nat)
  | lehrWrite (mb : Nat)
  deriving DecidableEq, Repr

/-- A firmware update in progress (R347). -/
structure FwUpd where
  image : List Byte
  slotB : Bool
  asked : Option Nat             -- verdict awaited since
  wrote : Bool := false          -- image write operations under way
  deriving DecidableEq, Repr

/-- Gaffer. -/
structure Gaffer where
  mbs : Tab Mailbox := []
  serving : Option Nat := none   -- mailbox whose command passed the common checks
  lastT : Nat := 65              -- tenant mailbox last served; the search starts after it
  parked : List Parked := []
  txs : Tab (Option Tx) := []    -- by mailbox
  nextTx : BitVec 32 := 1
  chg : Tab Nat := []            -- change counts (R339)
  fwRun : Bool := false
  rom : Bool := false            -- ROM defaults serve at LIMP (R367)
  run : Bool := false            -- running image: true B
  build : BitVec 32 := 0
  vmin : Nat := 0
  vmaj : Nat := 0
  restart : Bool := false        -- GPAUSE
  upd : Option FwUpd := none
  secOut : List (Bool × List (BitVec 32)) := []  -- sideband transfers out: channel, words
  lehrW : Option (Nat × List Byte × Nat) := none  -- LEHR_WRITE: offset, bytes left, sectors written
  deriving DecidableEq, Repr

/-! ## Lehr (13) -/

/-- An anchor (Table 13-7). -/
structure Anchor where
  aseq : BitVec 32 := 0
  dlog : Nat := 25
  sel : Bool := false
  val : BitVec 2 := 0
  absent : BitVec 5120 := 0
  trim : List (BitVec 4) := []
  rsn : Nat := 0
  deriving DecidableEq, Repr

/-- A record of the log (Tables 13-4, 13-5). -/
structure Record where
  kind : Nat
  rsn : Nat
  payload : List Byte
  torn : Bool := false
  deriving DecidableEq, Repr

/-- A log sector. -/
structure Sector where
  erased : Bool := true
  erases : Nat := 0
  opened : Bool := false         -- its SECTOR record stands
  recs : List Record := []       -- in order of offset, SECTOR record included
  deriving DecidableEq, Repr

/-- Why a record is written: it is new; the scrub has found its RSN worn; compaction empties its sector. -/
inductive WriteSrc
  | fresh
  | again (rsn : Nat)
  | copy (tail : Nat)
  deriving DecidableEq, Repr

/-- Jobs of the flash port, each a run of flash operations, by the classes of R363. -/
inductive FlashOp
  | record (r : Record)          -- a record to be written at the head; of the kinds that hold settings, the content is taken when it begins
  | rewrite (rsn : Nat)          -- the live record of an RSN, to be written again with the same content
  | write (s : Nat) (r : Record) (src : WriteSrc)  -- a record being written in log sector s, where it stands torn until its last frame reads back
  | readFault (mb : Nat)
  | anchor (sel : Option Bool) (val : Option (Bool × Bool)) (fin : Bool)  -- new SEL; slot and its new VAL; FW_UPDATE is answered after it
  | image (slotB : Bool) (image : List Byte)
  | sector (off : Nat) (data : List Byte)   -- LEHR_WRITE
  | compact (s : Nat)            -- the live records of log sector s copied one by one, then its erase
  deriving DecidableEq, Repr

/-- Lehr. -/
structure Lehr where
  dlog : Nat := 25
  sfdp : Bool := true                     -- the device's SFDP table reports a size and an erase that R350 supports
  anchors : Tab (Option Anchor) := []     -- 0, 1
  images : Tab (List Byte) := []          -- 0 A, 1 B
  sectors : Tab Sector := []              -- log sectors by index
  retired : List Nat := []
  head : Option Nat := none               -- log sector being written
  nextRsn : Nat := 1
  fseq : Nat := 0                         -- last FSEQ used
  laneMap : List (BitVec 32) := []        -- content in force
  rehomeB : BitVec 64 := 0
  fence : List (BitVec 32) := []
  slices : BitVec 16 := 0
  due : Tab (Option Nat) := []            -- changes to write by kind (1-4): since
  budget : Nat := 4096
  hours : Nat := 0
  cursor : Nat := 0
  passHour : Nat := 0
  lastScrub : Nat := 0
  hourStart : Nat := 0
  hourPast : Nat := 0                     -- of the hour in progress, what had passed when power was lost
  ops : List FlashOp := []                -- waiting, each class in order
  cur : Option FlashOp := none
  left : Nat := 0                         -- flash operations of it still to end, the one in progress included
  held : List (FlashOp × Nat) := []       -- jobs interrupted by one of a higher class, with what is left of them
  rstHigh : Option Nat := none            -- count at which fl_reset_n rose
  ready : Bool := false
  absent : Bool := false                  -- judged absent or unsupported (R367)
  noConf : Bool := false                  -- fewer than 4 good sectors (R361)
  trims : List (BitVec 4) := []
  deriving DecidableEq, Repr

/-! ## Host window (16) -/

/-- A sync host slot (Tables 16-32, 16-33). -/
structure Slot where
  soid : Option Nat := none      -- MAPPED
  tid : Nat := 0
  tag : Nat := 0
  inte : Bool := false
  opLo : BitVec 32 := 0          -- lower bytes of UW_SLOT_OP as last written
  count : Nat := 0
  gen : BitVec 16 := 0
  st : SoState := .idle
  busy : Bool := false
  res : St := .ok
  next : Option St := none       -- status that SLOT_OP_DONE will set
  ip : Bool := false
  cnt : Nat := 0                 -- counted events (R152)
  unmap : Bool := false          -- unmap deferred (R406)
  deriving DecidableEq, Repr

/-- The host window. -/
structure HostWin where
  msgen : Bool := false
  msgAddr : BitVec 64 := 0
  dbase : BitVec 16 := 0
  mbie : BitVec 72 := 0
  mbip : BitVec 72 := 0
  mbCnt : Tab Nat := []
  fie : BitVec 5 := 0
  fip : BitVec 5 := 0
  fCnt : Tab Nat := []
  caneIp : BitVec 64 := 0
  caneCnt : Tab Nat := []
  due : List Nat := []           -- SRC of the messages due, in order
  msgOut : Option (BitVec 64 × BitVec 32) := none  -- message last emitted
  herrAddr : Bool := false
  herrSize : Bool := false
  herrWro : Bool := false
  herrMbx : Bool := false
  lastoff : BitVec 17 := 0
  tbLatch : Option (BitVec 32) := none
  rdata : BitVec 64 := 0
  csel : BitVec 6 := 0
  cselSeq : BitVec 32 := 0
  cent : BitVec 256 := 0
  caneLo : BitVec 32 := 0        -- lower bytes of UW_CANE_ARRIVE
  caneSt : St := .ok
  caneStCn : Nat := 0
  caneSel : BitVec 6 := 0
  slots : Tab Slot := []
  deriving DecidableEq, Repr

/-! ## Boot, clocks, power, test (14, 17) -/

/-- Boot, clocks and power. -/
structure Boot where
  level : Level := .dark
  rst : Option ResetKind := some .cold  -- reset in progress; right after a cold reset its release is awaited
  stage : Nat := 0               -- steps of Table 14-4 done: 0 none, 1 released, 2 anchors, 4 log read, 5 firmware, 6 slices
  wave : Nat := 0                -- training wave in progress, 1-9 (Table 14-5)
  waveSince : Nat := 0           -- count at its start
  kac : Bool := false            -- slice check ended
  testMode : Bool := false       -- tst_en as sampled (R416)
  h0slow : Bool := false
  h1slow : Bool := false
  placed : Bool := false
  x : Nat := 0
  y : Nat := 0
  z : Nat := 0
  nx : Nat := 1
  ny : Nat := 1
  nz : Nat := 1
  rates : List Nat := [0, 0, 0, 0, 0, 0]
  absent : BitVec 5120 := 0
  brake : Bool := false
  brakeSince : Nat := 0          -- count at which it took hold
  b : Nat := 64                  -- issue budget in 64ths
  bOwn : Nat := 64               -- the governor's own budget
  ramp : Bool := false
  cap : Nat := 110
  est : Nat := 0
  lehrLimp : Bool := false
  tbsub : Bool := false
  svcStep : Nat := 0             -- service reset: step of R375 reached, 0 none
  svcSince : Nat := 0
  verdict : Option Bool := none  -- boot verification of the image being tried
  bootTry : Nat := 0             -- images that have failed at this boot
  powered : Bool := true
  deriving DecidableEq, Repr

/-- Results of the test instruments (Table 17-3). -/
structure Test where
  mbist : Tab (Option (Option (Nat × Nat))) := []
  prbs : Tab (List Nat) := []
  cane : Tab (Option (BitVec 16 × BitVec 16 × BitVec 16)) := []
  forced : List (UnitId × Bool × Nat) := []
  pairs : List (Nat × Nat × Bool × Bool) := []
  deriving DecidableEq, Repr

/-! ## The state -/

/-- The state of the block. `pending` is the queue of commands; `freeCtr` is the model's own field (log entry 3). -/
structure State where
  tb : Nat := 0
  freeCtr : Nat := 0
  boot : Boot := {}
  fab : Fabric := {}
  sync : Sync := {}
  cane : Cane := {}
  ports : Tab CorePort := []
  grp : Groups := {}
  mrv : Marver := {}
  lps : Tab LinkPort := []
  flt : Faults := {}
  gaf : Gaffer := {}
  lehr : Lehr := {}
  host : HostWin := {}
  test : Test := {}
  pending : List Instr := []
  deriving DecidableEq, Repr

/-- The machine's stop: raised by the meaning of a command whose operand names a unit that the block does not have
(a core at or above 5,120, a port at or above 6 or 16, and so on), so that the boundary has no wire to present it on.
Safe: the hardware cannot meet such a command. -/
inductive Fault
  | noSuchUnit
  deriving DecidableEq, Repr

/-- Refusals: a command with no meaning yet, by its mnemonic in the table. Safe. -/
inductive Refusal
  | notModelled (mnemonic : String)
  deriving DecidableEq, Repr

/-- The machine right after reset: every field at the value the manual gives for a cold reset.
The block stands at DARK, and its boot has not begun (R373, R374, Table 14-2). -/
def State.reset : State := {}

end Sys2Proof.Machine
end

