-- ==== Sys2Proof/WellFormed.lean ====
section
/-! DEFINITION. Which commands name units that the block has (Table 1-4, R20, R29, R131, R189, R214, R237): the others cannot be presented at its boundary. -/
namespace Sys2Proof

/-- The tree links of Table 2-1. -/
def LinkId.ok : LinkId → Bool
  | .cell c => decide (c < 1280)
  | .standby c => decide (c < 1280)
  | .block b => decide (b < 64)
  | .region r => decide (r < 8)
  | .half h => decide (h < 2)

/-- The nodes of Table 1-4. -/
def NodeId.ok : NodeId → Bool
  | .cell c => decide (c < 1280)
  | .block b => decide (b < 64)
  | .region r => decide (r < 8)
  | .half h => decide (h < 2)
  | .spine => true

/-- The units of Table 11-7. -/
def UnitId.ok : UnitId → Bool
  | .copy n => n.ok
  | .blockHub b => decide (b < 64)
  | .slice i => decide (i < 16)
  | .cane cn => decide (cn < 64)

/-- The sites of a stall (R54, R230). -/
def StallSite.ok : StallSite → Bool
  | .child n ch _ slot => n.ok && decide (ch < 16) && decide (slot < 20)
  | .port p _ => decide (p < 6)

/-- The lockstep pairs of LOCKSTEP_MISMATCH. -/
def LockSite.ok : LockSite → Bool
  | .node n => n.ok
  | .steps => true

/-- The arrays of Table 11-5. -/
def EccSite.ok : EccSite → Bool
  | .stage n ch _ _ => n.ok && decide (ch < 16)
  | .pool n _ _ => decide (n < 512)
  | .linkItem p _ _ => decide (p < 6)
  | .group gid => decide (gid < 4096)
  | .object soid => decide (soid < 32768)
  | .channel cn => decide (cn < 64)
  | .sched n => decide (n < 512)
  | .slot n => decide (n < 4096)
  | .free _ => true
  | .shared _ => true
  | .gaffer => true
  | .prot _ _ => true

/-- The command names only units that exist. -/
def Instr.ok : Instr → Bool
  | .chipPlace => true
  | .treeBeatReceive d _ _ _ _ _ => d.link.ok
  | .linkCtlDisagree d copy bit => d.link.ok && decide (copy < 3) && decide (bit < 20)
  | .liveTimeout d => d.link.ok
  | .nakReturn d ch _ => d.link.ok && decide (ch < 16)
  | .laneCheckTrigger d => d.link.ok
  | .rewind d ch _ => d.link.ok && decide (ch < 16)
  | .held d ch _ => d.link.ok && decide (ch < 16)
  | .release d ch _ => d.link.ok && decide (ch < 16)
  | .beatCredit d ch _ => d.link.ok && decide (ch < 16)
  | .linkGrant d => d.link.ok
  | .frameReceive d ch _ => d.link.ok && decide (ch < 17)
  | .upChunkOpen cell ch => decide (cell < 1280) && decide (ch < 16)
  | .upCombine n ch _ => n.ok && decide (ch < 16)
  | .downOffer n ch _ => n.ok && decide (ch < 16)
  | .stallTimeout site => site.ok
  | .laneCheck d => d.link.ok
  | .prbsCountEnd d _ => d.link.ok
  | .laneReport d => d.link.ok
  | .linkctlRetry d => d.link.ok
  | .homeLost d => d.link.ok
  | .rehomeGo d => d.link.ok
  | .lockstepMismatch n ch _ _ => n.ok && decide (ch < 16)
  | .knownAnswerDone n _ _ => n.ok
  | .soOpApply soid _ => decide (soid < 32768)
  | .soNotice cell => decide (cell < 1280)
  | .waitTimeout core => decide (core < 5120)
  | .cpCgAck core _ => decide (core < 5120)
  | .soRemoteOp p => decide (p < 6)
  | .soRefuse p => decide (p < 6)
  | .caneRelease cn => decide (cn < 64)
  | .caneReleaseArrive cn cell => decide (cn < 64) && decide (cell < 1280)
  | .caneVoteDisagree level _ _ cn copy => decide (level < 4) && decide (cn < 64) && decide (copy < 3)
  | .caneToken p => decide (p < 6)
  | .msgEmit _ => true
  | .cpRegWrite core _ _ _ => decide (core < 5120)
  | .cpPush core _ => decide (core < 5120)
  | .cpPull core _ => decide (core < 5120)
  | .cpScalar core _ => decide (core < 5120)
  | .scalarResRead core => decide (core < 5120)
  | .wresRead core => decide (core < 5120)
  | .postingArrive cell => decide (cell < 1280)
  | .nopostTimeout core kind => decide (core < 5120) && decide (kind < 3)
  | .cpRdData core _ _ => decide (core < 5120)
  | .cpWrAck core _ => decide (core < 5120)
  | .cpSyncArrive core _ => decide (core < 5120)
  | .cpSyncSignal core _ => decide (core < 5120)
  | .cpSyncReset core _ => decide (core < 5120)
  | .cpSyncRead core _ => decide (core < 5120)
  | .syncOrdMet core => decide (core < 5120)
  | .cpCaneArrive core _ => decide (core < 5120)
  | .cpCaneArriveWait core _ => decide (core < 5120)
  | .cpCaneRead core _ => decide (core < 5120)
  | .cpWaitGen core _ => decide (core < 5120)
  | .cpWaitCount core _ => decide (core < 5120)
  | .cpWaitCane core _ => decide (core < 5120)
  | .cpWaitPush core _ => decide (core < 5120)
  | .cpWaitPull core _ => decide (core < 5120)
  | .cpWaitScalar core _ => decide (core < 5120)
  | .cpWaitFence core _ => decide (core < 5120)
  | .fencePullvis core => decide (core < 5120)
  | .fenceSync core => decide (core < 5120)
  | .fencePushheld core => decide (core < 5120)
  | .commitNotice cell => decide (cell < 1280)
  | .mbCmdWrite mb off _ _ => decide (mb < 72) && decide (off < 256)
  | .mbServeSelect => true
  | .ifQuery => true
  | .txBegin => true
  | .txCommit => true
  | .txPauseHeld mb => decide (mb < 72)
  | .txPauseTimeout mb => decide (mb < 72)
  | .txRollback => true
  | .txExpire mb => decide (mb < 72)
  | .groupCreate _ => true
  | .groupUpdate _ => true
  | .groupEnable => true
  | .maskCompileDone gid => decide (gid < 4096)
  | .groupDisable => true
  | .groupDestroy => true
  | .groupQuery => true
  | .groupLogs => true
  | .drainEnd gid => decide (gid < 4096)
  | .drainStuck gid => decide (gid < 4096)
  | .handshake p => decide (p < 6)
  | .peerWait gid => decide (gid < 4096)
  | .collPost => true
  | .soAlloc => true
  | .soFree => true
  | .soQuery => true
  | .caneBind => true
  | .caneUnbind => true
  | .hostSlotMap => true
  | .hostSlotUnmap => true
  | .taskBind _ => true
  | .taskSuspend => true
  | .taskResume => true
  | .taskKill => true
  | .taskRelease => true
  | .schedLoad _ => true
  | .schedUnload => true
  | .schedUnloadTimeout n => decide (n < 512)
  | .channelPin => true
  | .channelWeight => true
  | .vcbWeightSet => true
  | .hubPlace => true
  | .deliveryMode => true
  | .linkClassSet => true
  | .halfClock => true
  | .escSet => true
  | .powerCapSet => true
  | .tenantReset => true
  | .serviceReset => true
  | .serviceResetMemWait => true
  | .unitReturn => true
  | .unitAbandon => true
  | .retestDone u _ => u.ok
  | .shadowCompare u _ _ => u.ok
  | .faultRead => true
  | .fwUpdate _ => true
  | .fwActivate => true
  | .lehrWrite _ => true
  | .protPropose _ => true
  | .protConfirm => true
  | .protQuery => true
  | .proposalExpire => true
  | .secMb1Transfer _ => true
  | .secVerdict _ => true
  | .secVerdictTimeout => true
  | .gafferLockstep _ => true
  | .gafferRestartDone => true
  | .memRdata port tag _ _ _ => decide (port < 16) && decide (tag < 256)
  | .memWack port tag _ => decide (port < 16) && decide (tag < 256)
  | .memFack port tag => decide (port < 16) && decide (tag < 256)
  | .linkUp p => decide (p < 6)
  | .linkDown p => decide (p < 6)
  | .routerCredit p _ _ => decide (p < 6)
  | .packetVerdict p _ _ => decide (p < 6)
  | .ctrlFlitReceive p _ _ => decide (p < 6)
  | .ack p => decide (p < 6)
  | .nak p => decide (p < 6)
  | .credit p => decide (p < 6)
  | .resendTimeout p _ => decide (p < 6)
  | .triggerNotice => true
  | .stepStart sched _ step => decide (sched < 512) && decide (step < 128)
  | .passStart sched => decide (sched < 512)
  | .reservationAge sched => decide (sched < 512)
  | .pieceTake slice => decide (slice < 16)
  | .pieceDone slice _ => decide (slice < 16)
  | .sliceGateTimer slice => decide (slice < 16)
  | .slicePowered slice => decide (slice < 16)
  | .stepComplete sched _ step => decide (sched < 512) && decide (step < 128)
  | .passEnd sched _ => decide (sched < 512)
  | .done p => decide (p < 6)
  | .commit p => decide (p < 6)
  | .poison p => decide (p < 6)
  | .poisonDieQuiesce gid => decide (gid < 4096)
  | .bumped p => decide (p < 6)
  | .go p => decide (p < 6)
  | .poisonStuck gid => decide (gid < 4096)
  | .abort p => decide (p < 6)
  | .faultReport => true
  | .abortCleanupEnd gid => decide (gid < 4096)
  | .errWireFault _ _ => true
  | .syndromePoll _ _ => true
  | .collectorMismatch node _ => decide (node < 75)
  | .escTimerC2 _ => true
  | .escTimerC3 => true
  | .eccError site _ => site.ok
  | .sramScrub => true
  | .tbWindowCheck _ => true
  | .c2pendClear => true
  | .flashOpDone _ => true
  | .configRecordDue _ => true
  | .flashHourBudget => true
  | .lehrScrubStep _ _ => true
  | .scrubRecord => true
  | .flashReadyTimeout => true
  | .rstCold => true
  | .rstColdRelease _ => true
  | .rstBlk => true
  | .rstBlkRelease => true
  | .powerOn => true
  | .bootAnchorsApplied => true
  | .firmwareStart => true
  | .sliceKacDone _ => true
  | .trainingWaveEnd _ => true
  | .pwrBrake => true
  | .brakeRelease => true
  | .governorWindow _ => true
  | .hostRegWrite _ _ _ _ => true
  | .tbReadLow => true
  | .msgctlWrite _ => true
  | .mbipClear _ _ => true
  | .fipClear _ => true
  | .caneIpClear _ => true
  | .slotIpClear slot => decide (slot < 4096)
  | .cselWrite _ => true
  | .uwCaneArrive _ => true
  | .slotArrive slot _ => decide (slot < 4096)
  | .slotSignal slot _ => decide (slot < 4096)
  | .slotReset slot _ => decide (slot < 4096)
  | .slotRead slot _ => decide (slot < 4096)
  | .slotOpDone slot => decide (slot < 4096)
  | .mbistRun _ _ => true
  | .prbsRun d _ _ _ => d.link.ok
  | .caneSweep _ _ _ _ => true
  | .lockstepForce u _ _ => u.ok
  | .errpairForce node _ _ _ => decide (node < 75)
  | .flitLands p _ _ _ => decide (p < 6)
  | .creditOwedPeriod p _ => decide (p < 6)
  | .powerLoss => true
  | .tbReadHigh => true
  | .secMb1Response => true

end Sys2Proof
end

