-- ==== Sys2Proof/Machine/Ops.lean ====
section
/-! DEFINITION. Shared operations: access to the tables of the state, numbers of units and chips, fault events (R297 to R302), interrupt messages (R152, R400, R401). -/
namespace Sys2Proof

/-- Number of a link direction. -/
def LinkDir.key (d : LinkDir) : Nat :=
  (if d.down then 1 else 0) + 2 * match d.link with
    | .cell c => c
    | .standby c => 1280 + c
    | .block b => 2560 + b
    | .region r => 2624 + r
    | .half h => 2632 + h

/-- Number of a node: cells, block hubs, region hubs, half roots, spine root. -/
def NodeId.key : NodeId → Nat
  | .cell c => c
  | .block b => 1280 + b
  | .region r => 1344 + r
  | .half h => 1352 + h
  | .spine => 1354

/-- Level of a node (SLVL, Table 2-3). -/
def NodeId.lvl : NodeId → Nat
  | .cell _ => 1
  | .block _ => 2
  | .region _ => 3
  | .half _ => 4
  | .spine => 5

/-- Number of a node at its level (SIDX). -/
def NodeId.idx : NodeId → Nat
  | .cell c => c
  | .block b => b
  | .region r => r
  | .half h => h
  | .spine => 0

/-- The source kind and number of a node (Table 11-2). -/
def NodeId.skind : NodeId → Nat
  | .cell _ => 1 | .block _ => 2 | .region _ => 3 | .half _ => 4 | .spine => 5

end Sys2Proof

namespace Sys2Proof.Machine

/-- The outcome of a command: the next state, or the stop of a command that names no unit of the block. -/
def answer (c : Instr) (t : State) : Host.Outcome State Fault Refusal :=
  if c.ok then .next t else .fault .noSuchUnit

/-- The block issues nothing: block stop holds, or a reset is in progress (R309, R373). -/
def State.stopped (s : State) : Bool := s.flt.bstop || s.boot.rst.isSome

/-! ## Access -/

/-- Core port k. -/
def State.port (s : State) (k : Nat) : CorePort := tabGet {} s.ports k
/-- Change core port k. -/
def State.modPort (s : State) (k : Nat) (f : CorePort → CorePort) : State := { s with ports := tabMod {} s.ports k f }

/-- Group table entry g. -/
def State.group (s : State) (g : Nat) : Group := tabGet {} s.grp.groups g
/-- Change group table entry g. -/
def State.modGroup (s : State) (g : Nat) (f : Group → Group) : State :=
  { s with grp := { s.grp with groups := tabMod {} s.grp.groups g f } }

/-- Sync object i. -/
def State.obj (s : State) (i : Nat) : SyncObj := tabGet {} s.sync.objs i
/-- Change sync object i. -/
def State.modObj (s : State) (i : Nat) (f : SyncObj → SyncObj) : State :=
  { s with sync := { s.sync with objs := tabMod {} s.sync.objs i f } }

/-- Cane channel cn. -/
def State.cchan (s : State) (cn : Nat) : CaneChan := tabGet {} s.cane.chans cn
/-- Change Cane channel cn. -/
def State.modCchan (s : State) (cn : Nat) (f : CaneChan → CaneChan) : State :=
  { s with cane := { s.cane with chans := tabMod {} s.cane.chans cn f } }

/-- Protection table entry of tenant t. -/
def State.tenant (s : State) (t : Nat) : Tenant := tabGet {} s.grp.tenants t
/-- Change the protection table entry of tenant t. -/
def State.modTenant (s : State) (t : Nat) (f : Tenant → Tenant) : State :=
  { s with grp := { s.grp with tenants := tabMod {} s.grp.tenants t f } }

/-- Mailbox m. -/
def State.mbox (s : State) (m : Nat) : Mailbox := tabGet {} s.gaf.mbs m
/-- Change mailbox m. -/
def State.modMbox (s : State) (m : Nat) (f : Mailbox → Mailbox) : State :=
  { s with gaf := { s.gaf with mbs := tabMod {} s.gaf.mbs m f } }

/-- Host slot n. -/
def State.slot (s : State) (n : Nat) : Slot := tabGet {} s.host.slots n
/-- Change host slot n. -/
def State.modSlot (s : State) (n : Nat) (f : Slot → Slot) : State :=
  { s with host := { s.host with slots := tabMod {} s.host.slots n f } }

/-- Schedule n, if resident. -/
def State.sched (s : State) (n : Nat) : Option Sched := tabGet none s.mrv.scheds n
/-- Write schedule n. -/
def State.setSched (s : State) (n : Nat) (v : Option Sched) : State :=
  { s with mrv := { s.mrv with scheds := tabSet none s.mrv.scheds n v } }
/-- Change schedule n, if resident. -/
def State.modSched (s : State) (n : Nat) (f : Sched → Sched) : State := s.setSched n ((s.sched n).map f)

/-- Memory port n. -/
def State.mport (s : State) (n : Nat) : MemPort := tabGet {} s.mrv.mps n
/-- Change memory port n. -/
def State.modMport (s : State) (n : Nat) (f : MemPort → MemPort) : State :=
  { s with mrv := { s.mrv with mps := tabMod {} s.mrv.mps n f } }

/-- Slice i. -/
def State.sliceOf (s : State) (i : Nat) : Slice := tabGet {} s.mrv.slices i
/-- Change slice i. -/
def State.modSlice (s : State) (i : Nat) (f : Slice → Slice) : State :=
  { s with mrv := { s.mrv with slices := tabMod {} s.mrv.slices i f } }

/-- Link port p. -/
def State.lport (s : State) (p : Nat) : LinkPort := tabGet {} s.lps p
/-- Change link port p. -/
def State.modLport (s : State) (p : Nat) (f : LinkPort → LinkPort) : State := { s with lps := tabMod {} s.lps p f }

/-- One class of a link port. -/
def LinkPort.cls (l : LinkPort) (vcb : Bool) : LinkClassState := if vcb then l.vcb else l.vcu
/-- Change one class of a link port. -/
def LinkPort.modCls (l : LinkPort) (vcb : Bool) (f : LinkClassState → LinkClassState) : LinkPort :=
  if vcb then { l with vcb := f l.vcb } else { l with vcu := f l.vcu }

/-- Number of one channel and context of a link direction or node. -/
def chCtx (ch : Nat) (ctx : Bool) : Nat := 2 * ch + b2n ctx

/-- One direction of a tree link. -/
def State.link (s : State) (d : LinkDir) : LinkState := tabGet {} s.fab.links d.key
/-- Change one direction of a tree link. -/
def State.modLink (s : State) (d : LinkDir) (f : LinkState → LinkState) : State :=
  { s with fab := { s.fab with links := tabMod {} s.fab.links d.key f } }

/-- Lockstep state of a node. -/
def State.node (s : State) (n : NodeId) : NodeState := tabGet {} s.fab.nodes n.key
/-- Change the lockstep state of a node. -/
def State.modNode (s : State) (n : NodeId) (f : NodeState → NodeState) : State :=
  { s with fab := { s.fab with nodes := tabMod {} s.fab.nodes n.key f } }

/-- One channel and context of a node. -/
def State.nchan (s : State) (n : NodeId) (ch : Nat) (ctx : Bool) : NodeChan :=
  tabGet {} s.fab.chans (n.key * 32 + chCtx ch ctx)
/-- Change one channel and context of a node. -/
def State.modNchan (s : State) (n : NodeId) (ch : Nat) (ctx : Bool) (f : NodeChan → NodeChan) : State :=
  { s with fab := { s.fab with chans := tabMod {} s.fab.chans (n.key * 32 + chCtx ch ctx) f } }

/-- The compiled mask of a group at a node (R195). -/
def State.maskOf (s : State) (n : NodeId) (g : Nat) : Option MaskEntry := tabGet none s.fab.masks (n.key * 4096 + g)
/-- Write the compiled mask of a group at a node. -/
def State.setMask (s : State) (n : NodeId) (g : Nat) (m : Option MaskEntry) : State :=
  { s with fab := { s.fab with masks := tabSet none s.fab.masks (n.key * 4096 + g) m } }

/-- Re-homing of block b. -/
def State.rehome (s : State) (b : Nat) : Rehome := tabGet {} s.fab.rehome b
/-- Change the re-homing of block b. -/
def State.modRehome (s : State) (b : Nat) (f : Rehome → Rehome) : State :=
  { s with fab := { s.fab with rehome := tabMod {} s.fab.rehome b f } }

/-- The free number and the state with the counter advanced (log entry 3). -/
def takeFree (s : State) : Nat × State := (Config.freeNat s.freeCtr, { s with freeCtr := s.freeCtr + 1 })

/-- `n` bytes of a free value. -/
def freeBytes (k n : Nat) : List Byte := leBytes n (Config.freeNat k)

/-- The oldest entry of a list that satisfies a condition, and the rest. -/
def takeFirst {α : Type} (p : α → Bool) : List α → Option (α × List α)
  | [] => none
  | x :: r => if p x then some (x, r) else (takeFirst p r).map fun y => (y.1, x :: y.2)

/-! ## Numbers of units and chips -/

/-- Cell, block, region and half of a core (R20). -/
def cellOf (k : Nat) : Nat := k / 4
def blockOfCell (c : Nat) : Nat := c / 20
def regionOfBlock (b : Nat) : Nat := b / 8
def halfOfRegion (r : Nat) : Nat := r / 4

/-- The buddy hub of a block (R22). -/
def buddy (b : Nat) : Nat := b ^^^ 1

/-- A core is present when Lehr's anchor does not list it as absent (R24). -/
def State.present (s : State) (k : Nat) : Bool := decide (k < 5120) && !bit s.boot.absent k

/-- Chip index of coordinates (R23). -/
def chipIndex (x y z : Nat) : Nat := z * 64 + y * 8 + x

/-- This chip's index (R26). -/
def State.self (s : State) : Nat := chipIndex s.boot.x s.boot.y s.boot.z

/-- Coordinate of a chip on axis 0 X, 1 Y, 2 Z. -/
def coord (n a : Nat) : Nat := match a with | 0 => n % 8 | 1 => n / 8 % 8 | _ => n / 64

/-- Ring size of an axis. -/
def State.ring (s : State) (a : Nat) : Nat := match a with | 0 => s.boot.nx | 1 => s.boot.ny | _ => s.boot.nz

/-- An index names a chip of the machine (R23). -/
def State.chipOk (s : State) (n : Nat) : Bool :=
  decide (coord n 0 < s.boot.nx) && decide (coord n 1 < s.boot.ny) && decide (coord n 2 < s.boot.nz)

/-- Shorter-way distance between two ring positions. -/
def ringDist (n a b : Nat) : Nat := min ((b + n - a) % n) ((a + n - b) % n)

/-- The axis on which a route to `dst` moves next: X, then Y, then Z (R149). -/
def State.routeAxis (s : State) (dst : Nat) : Option Nat :=
  [0, 1, 2].find? fun a => coord dst a != coord s.self a

/-- The + way is taken when it is no longer than the - way (R149). -/
def State.plusWay (s : State) (a dst : Nat) : Bool :=
  let n := s.ring a
  let me := coord s.self a
  decide ((coord dst a + n - me) % n ≤ (me + n - coord dst a) % n)

/-- The port towards the + or - way of an axis; on an X ring of size 2 the package bridge alone is used, and on a Y or Z ring of size 2 the
+ port for either way (R15, R16, R25). -/
def State.wayPort (s : State) (a : Nat) (plus : Bool) : Nat :=
  if a == 0 && s.ring 0 == 2 then (if s.boot.x % 2 == 0 then 0 else 1)
  else 2 * a + (if plus || s.ring a == 2 then 0 else 1)

/-- The port on which an item for `dst` leaves (R16, R231); odd inter-chip chunks of VCB to the neighbour on a Y or Z ring
of size 2 take the - port. -/
def State.routePort (s : State) (dst : Nat) (vcb : Bool) (cseq : Nat) : Option Nat :=
  match s.routeAxis dst with
  | none => none
  | some a =>
    if s.ring a == 2 && a != 0 && vcb && cseq % 2 == 1 then some (2 * a + 1)
    else some (s.wayPort a (s.plusWay a dst))

/-- Hops to a chip (R149). -/
def State.hopsTo (s : State) (dst : Nat) : Nat :=
  ([0, 1, 2].map fun a => ringDist (s.ring a) (coord s.self a) (coord dst a)).foldl (· + ·) 0

/-- The chip beyond a port (R25). -/
def State.neighbour (s : State) (p : Nat) : Nat :=
  let a := p / 2
  let n := s.ring a
  let c := if p % 2 == 0 then (coord s.self a + 1) % n else (coord s.self a + n - 1) % n
  match a with
  | 0 => chipIndex c s.boot.y s.boot.z
  | 1 => chipIndex s.boot.x c s.boot.z
  | _ => chipIndex s.boot.x s.boot.y c

/-! ## Status codes -/

/-- Status codes of Table 12-3. -/
def St.code : St → Nat
  | .ok => 0 | .busy => 1 | .range => 2 | .denied => 3 | .notx => 4 | .conflict => 5 | .draining => 6 | .residue => 7 | .version => 8

/-- Wait results of Table 5-4. -/
def WCode.code : WCode → Nat
  | .ok => 0 | .timeout => 1 | .ownerLost => 2 | .epoch => 3 | .poison => 4 | .abort => 5

/-- Reasons of Table 6-9. -/
def Reason.code : Reason → Nat
  | .none => 0 | .full => 1 | .align => 2 | .notmember => 3 | .epoch => 4 | .nopost => 5 | .order => 6 | .length => 7
  | .format => 8 | .context => 9 | .abort => 10 | .mem => 11

/-- States of a sync object (Table 5-1). -/
def SoState.code : SoState → Nat
  | .idle => 0 | .armed => 1 | .frozen => 2 | .abandoned => 3

/-- States of a group (Table 7-1). -/
def GState.code : GState → Nat
  | .free => 0 | .disabled => 1 | .enabled => 2 | .draining => 3 | .aborted => 4

/-- Modes of a wait (Table 6-20). -/
def WaitMode.code : WaitMode → Nat
  | .gen => 0 | .count => 1 | .cane => 2 | .push => 3 | .pull => 4 | .scalar => 5 | .fence => 6

/-- Service levels (Table 14-3). -/
def Level.code : Level → Nat
  | .dark => 0 | .cane => 1 | .limp => 2 | .full => 3

/-! ## Fault events -/

/-- Number of a code (Table 11-9). -/
def FCode.num : FCode → Nat
  | .hopCrc => 0x0101 | .linkCtl => 0x0102 | .laneSpared => 0x0103 | .linkHalf => 0x0104 | .standby => 0x0105
  | .rehome => 0x0106 | .lockstep => 0x0107 | .copyFenced => 0x0108 | .frame => 0x0109 | .linkLost => 0x010A
  | .rehomeLost => 0x010B | .nodeLost => 0x010C | .scaleMismatch => 0x0201 | .nanTrap => 0x0202 | .scaleStale => 0x0203
  | .waitTimeout => 0x0301 | .soRemote => 0x0302 | .caneVote => 0x0303 | .caneLost => 0x0304 | .coreMem => 0x0401
  | .xtag => 0x0501 | .peerWait => 0x0502 | .stall => 0x0503 | .drainStuck => 0x0504 | .groupMismatch => 0x0505
  | .peerAbort => 0x0506 | .xroute => 0x0601 | .trigLost => 0x0602 | .linkDown => 0x0603 | .chunkCrc => 0x0604
  | .ctrlCrc => 0x0605 | .sliceMismatch => 0x0606 | .sliceRetired => 0x0607 | .memPort => 0x0608 | .xframe => 0x0609
  | .trigOvf => 0x060A | .postMismatch => 0x060B | .a2avRoom => 0x060C | .engineLost => 0x060D | .poison => 0x0701
  | .poisonStuck => 0x0702 | .poisonLimit => 0x0703 | .eccCe => 0x0801 | .eccUeData => 0x0802 | .eccUeGroup => 0x0803
  | .eccUeTenant => 0x0804 | .eccUeShared => 0x0805 | .wire => 0x0901 | .gafferLockstep => 0x0902 | .gafferEcc => 0x0903
  | .collectLockstep => 0x0904 | .protCopy => 0x0905 | .timebase => 0x0906 | .unitReturned => 0x0907 | .retestFail => 0x0908
  | .shadowFail => 0x0909 | .escalated => 0x090A | .fatalOut => 0x090B | .gafferGrave => 0x090C | .protIntegrity => 0x090D
  | .collector => 0x090E | .lehrCorr => 0x0A01 | .lehrSector => 0x0A02 | .fwImage => 0x0A03 | .lehrAbsent => 0x0A04

/-- Class of a code (Table 11-9); F_STALL has the class its event carries (R209). -/
def FCode.cls : FCode → Nat
  | .hopCrc => 0 | .linkCtl => 1 | .laneSpared => 1 | .linkHalf => 1 | .standby => 1 | .rehome => 1 | .lockstep => 1
  | .copyFenced => 1 | .frame => 2 | .linkLost => 3 | .rehomeLost => 3 | .nodeLost => 3 | .scaleMismatch => 2
  | .nanTrap => 2 | .scaleStale => 2 | .waitTimeout => 0 | .soRemote => 2 | .caneVote => 1 | .caneLost => 2
  | .coreMem => 2 | .xtag => 0 | .peerWait => 0 | .stall => 2 | .drainStuck => 2 | .groupMismatch => 2 | .peerAbort => 2
  | .xroute => 0 | .trigLost => 0 | .linkDown => 0 | .chunkCrc => 1 | .ctrlCrc => 1 | .sliceMismatch => 1
  | .sliceRetired => 1 | .memPort => 2 | .xframe => 2 | .trigOvf => 2 | .postMismatch => 2 | .a2avRoom => 2
  | .engineLost => 3 | .poison => 1 | .poisonStuck => 2 | .poisonLimit => 2 | .eccCe => 0 | .eccUeData => 1
  | .eccUeGroup => 2 | .eccUeTenant => 2 | .eccUeShared => 3 | .wire => 1 | .gafferLockstep => 1 | .gafferEcc => 1
  | .collectLockstep => 1 | .protCopy => 1 | .timebase => 1 | .unitReturned => 0 | .retestFail => 0 | .shadowFail => 1
  | .escalated => 3 | .fatalOut => 3 | .gafferGrave => 4 | .protIntegrity => 4 | .collector => 4 | .lehrCorr => 0
  | .lehrSector => 1 | .fwImage => 1 | .lehrAbsent => 2

/-- An event of a code at a source. -/
def mkEv (c : FCode) (skind sidx : Nat) : Event := { code := c, cls := c.cls, skind := skind, sidx := sidx }

/-- The event with the group's number and epoch. -/
def Event.onGroup (e : Event) (s : State) (g : Nat) : Event := { e with gid := some g, epoch := (s.group g).epoch }

/-- The event with a chunk named. -/
def Event.onChunk (e : Event) (cid cseq : BitVec 32) : Event := { e with chunk := true, cid := cid, cseq := cseq }

/-- Two events are further occurrences of one (R299): same code, source and concern (DEDUCED from R296, log entry 13). -/
def sameEvent (a b : Event) : Bool :=
  a.code == b.code && a.skind == b.skind && a.sidx == b.sidx && a.gid == b.gid && a.tid == b.tid && a.cls == b.cls

/-- Count an occurrence into a pending event, or append it. -/
def addEvent (e : Event) : List Event → List Event
  | [] => [e]
  | x :: r => if sameEvent x e then { x with rep := satAdd 255 x.rep 1 } :: r else x :: addEvent e r

/-- A source raises an event: it holds it in its syndrome register until the collector samples it (R297, R299). -/
def raise (s : State) (e : Event) : State := { s with flt := { s.flt with synd := addEvent e s.flt.synd } }

/-- Raise every event of a list. -/
def raiseAll (s : State) (es : List Event) : State := es.foldl raise s

/-- fault_n is low while any condition of R316 holds. -/
def State.faultLow (s : State) : Bool := !s.flt.timers.isEmpty || s.flt.c2pend || s.flt.bstop || s.flt.c4

/-! ## Interrupt messages (R152, R400, R401) -/

def srcCane : Nat := 0x1000
def srcMb : Nat := 0x1100
def srcFault : Nat := 0x1200

/-- The source's enable (Table 16-14). -/
def msgEnabled (s : State) (src : Nat) : Bool :=
  if src < srcCane then (s.slot src).inte
  else if src < srcMb then (s.cchan (src - srcCane)).inte
  else if src < srcFault then bit s.host.mbie (src - srcMb)
  else bit s.host.fie (src - srcFault)

/-- The source's pending bit. -/
def msgPending (s : State) (src : Nat) : Bool :=
  if src < srcCane then (s.slot src).ip
  else if src < srcMb then bit s.host.caneIp (src - srcCane)
  else if src < srcFault then bit s.host.mbip (src - srcMb)
  else bit s.host.fip (src - srcFault)

/-- The source's counter. -/
def msgCount (s : State) (src : Nat) : Nat :=
  if src < srcCane then (s.slot src).cnt
  else if src < srcMb then tabGet 0 s.host.caneCnt (src - srcCane)
  else if src < srcFault then tabGet 0 s.host.mbCnt (src - srcMb)
  else tabGet 0 s.host.fCnt (src - srcFault)

/-- Set one bit of a word. -/
def setBit {n : Nat} (x : BitVec n) (i : Nat) (v : Bool) : BitVec n :=
  if v then x ||| BitVec.ofNat n (2 ^ i) else x &&& ~~~(BitVec.ofNat n (2 ^ i))

/-- Write the source's pending bit and counter. -/
def setMsg (s : State) (src : Nat) (ip : Bool) (cnt : Nat) : State :=
  if src < srcCane then s.modSlot src fun x => { x with ip := ip, cnt := cnt }
  else if src < srcMb then
    { s with host := { s.host with caneIp := setBit s.host.caneIp (src - srcCane) ip, caneCnt := tabSet 0 s.host.caneCnt (src - srcCane) cnt } }
  else if src < srcFault then
    { s with host := { s.host with mbip := setBit s.host.mbip (src - srcMb) ip, mbCnt := tabSet 0 s.host.mbCnt (src - srcMb) cnt } }
  else { s with host := { s.host with fip := setBit s.host.fip (src - srcFault) ip, fCnt := tabSet 0 s.host.fCnt (src - srcFault) cnt } }

/-- A message of the source becomes due, unless one is held already (R401). -/
def msgDue (s : State) (src : Nat) : State :=
  if s.host.due.contains src then s else { s with host := { s.host with due := s.host.due ++ [src] } }

/-- An event of a message source (R152): nothing while the source is not enabled; counted while its pending bit is set. -/
def msgEvent (s : State) (src : Nat) : State :=
  if !msgEnabled s src then s
  else if msgPending s src then setMsg s src true (satAdd 255 (msgCount s src) 1)
  else msgDue (setMsg s src true 0) src

/-- The host clears a pending bit (R152, R401): counted events stand as one message and set the bit again. -/
def msgClear (s : State) (src : Nat) : State :=
  if !msgPending s src then s
  else if msgCount s src = 0 then setMsg s src false 0
  else msgDue (setMsg s src true 0) src

/-- Return a source's pending bit and counter to their reset values and discard its held message (R401, R406). -/
def msgDiscard (s : State) (src : Nat) : State :=
  let t := setMsg s src false 0
  { t with host := { t.host with due := t.host.due.filter (· != src) } }

/-! ## Ends of a core's wait and of its CP_SYNC (R142, R183, R185) -/

/-- End core k's wait with a result; a gated wait raises cp_wake and lowers cp_cg_req (R142, R186). Nothing without a wait. -/
def wake (s : State) (k : Nat) (code : WCode) (val : BitVec 32) (gen : BitVec 16) (st : SoState) : State :=
  match (s.port k).wait with
  | none => s
  | some w =>
    let t := s.modPort k fun p =>
      { p with wait := none, cgReq := false, wake := p.wake || w.gate,
               wres := { code := code, v := true, mode := w.mode, st := st, gen := gen, val := val } }
    { t with sync := { t.sync with notices := t.sync.notices.map fun n => { n with cores := n.cores.filter (· != k) } } }

/-- End core k's wait with a result that carries no object values. -/
def wakePlain (s : State) (k : Nat) (code : WCode) (val : BitVec 32) : State := wake s k code val 0 .idle

/-- Core k's FENCE wait ends when CP_FENCE reads 0 (R185, R187). -/
def judgeFence (s : State) (k : Nat) : State :=
  let p := s.port k
  match p.wait with
  | some w => if w.mode = .fence ∧ p.fPullvis = none ∧ p.fSync = false ∧ p.fPush = none then wakePlain s k .ok 0 else s
  | none => s

/-- The held operation has its status: SPEND falls, and with it the SYNC fence (R183, R187). -/
def syncEnd (s : State) (k : Nat) (st : St) : State :=
  judgeFence (s.modPort k fun p => { p with sync := none, syncSt := st, fSync := false }) k

end Sys2Proof.Machine
end

