-- ==== Sys2Proof/Machine/CollDesc.lean ====
section
/-! DEFINITION. The collective descriptor (Table 9-1) and the parts it gives a chip and its cores (R246, R249, R250). -/
namespace Sys2Proof.Machine

abbrev Desc := BitVec 1024

def dColl (d : Desc) : Nat := fld d 0 4
def dOp (d : Desc) : Nat := fld d 4 4
def dGid (d : Desc) : Nat := fld d 8 12
def dWide (d : Desc) : Bool := bit d 20
def dSpv (d : Desc) : Bool := bit d 21
def dSpp (d : Desc) : Bool := bit d 22
def dStand (d : Desc) : Bool := bit d 23
def dS (d : Desc) : Int := sfld d 24 9
def dWfmt (d : Desc) : Nat := fld d 33 4
def dWten (d : Desc) : Bool := bit d 37
def dMems (d : Desc) : Bool := bit d 38
def dMemd (d : Desc) : Bool := bit d 39
def dCid (d : Desc) : BitVec 32 := BitVec.ofNat 32 (fld d 40 32)
def dSpcid (d : Desc) : BitVec 32 := BitVec.ofNat 32 (fld d 72 32)
def dTfmt (d : Desc) : Nat := fld d 104 4
def dRootc (d : Desc) : Nat := fld d 108 12
def dRootk (d : Desc) : Nat := fld d 120 13
def dRootm (d : Desc) : Bool := bit d 133
def dAxis (d : Desc) : Nat := fld d 134 2
def dDir (d : Desc) : Bool := bit d 136
def dDist (d : Desc) : Nat := fld d 137 6
def dRv (d : Desc) : Bool := bit d 143
def dNelem (d : Desc) : Nat := fld d 144 32
def dTsoid (d : Desc) : Nat := fld d 176 14
def dDv (d : Desc) : Bool := bit d 191
def dDsoid (d : Desc) : Nat := fld d 192 15
def dRlog (d : Desc) : Nat := fld d 208 4
def dSaddr (d : Desc) : Nat := fld d 256 48
def dDaddr (d : Desc) : Nat := fld d 320 48
def dWaddr (d : Desc) : Nat := fld d 384 48
def dRaddr (d : Desc) : Nat := fld d 448 48
def dCaddr (d : Desc) : Nat := fld d 512 48
def dLctx (d : Desc) : BitVec 128 := BitVec.ofNat 128 (fld d 576 128)
def dSctx (d : Desc) : BitVec 128 := BitVec.ofNat 128 (fld d 704 128)

/-- Codes of COLL. -/
def cBARRIER : Nat := 0
def cBCAST : Nat := 1
def cREDUCE : Nat := 2
def cALLREDUCE : Nat := 3
def cREDSCAT : Nat := 4
def cALLGATHER : Nat := 5
def cALLTOALL : Nat := 6
def cALLTOALLV : Nat := 7
def cSHIFT : Nat := 8
def cSCALEPASS : Nat := 9

/-- BARRIER and SCALEPASS travel as FP32 under MAX (R253). -/
def isScalarColl (d : Desc) : Bool := dColl d == cBARRIER || dColl d == cSCALEPASS

/-- The operator on the tree: MAX for BARRIER and SCALEPASS (R253), none for copies. -/
def treeOp (d : Desc) : Nat := if isScalarColl d then opMAX else dOp d

/-- Element format on the wire as the cores name it. -/
def wireFmt (d : Desc) : Nat := if isScalarColl d then fmtFP32 else dTfmt d

/-- Format of the frames: FP16 carried on a wide channel travels as FP32 (R206). -/
def frameFmt (c : Coll) : Nat := if isWide c.ch && wireFmt c.desc == fmtFP16 then fmtFP32 else wireFmt c.desc

/-- Elements of a full on-die chunk (Table 2-5, Table 3-3). -/
def chunkElems (f : Nat) : Nat :=
  if f == fmtFP32 then 1024 else if f == fmtFP16 then 2048 else if f == fmtI80 then 256 else pageElems f

/-- Member cores of a group, ascending. -/
def memberCores (g : Group) : List Nat := (List.range 5120).filter fun k => bit g.cores k

/-- Number of member cores. -/
def ncore (g : Group) : Nat := (memberCores g).length

/-- The group's member list names more than one chip. -/
def isXchip (g : Group) : Bool := 2 ≤ g.chips.length

/-- Member index of this chip (R193); a group of one chip reads its entry as this chip (R26). -/
def lidx (s : State) (g : Group) : Nat := if isXchip g then g.chips.findIdx (· == s.self) else 0

/-- The chips of a group, read by R26. -/
def chipsOf (s : State) (g : Group) : List Nat := if isXchip g then g.chips else [s.self]

/-- Rank of a core among the members. -/
def rankOf (g : Group) (k : Nat) : Nat := ((List.range k).filter fun j => bit g.cores j).length

/-- Number of ranks (R249): chips, or on one chip its member cores; there a memory buffer that is no contribution to combine is that
of one rank, as is a chip without cores (DEDUCED, log entry 24). -/
def nranks (g : Group) (d : Desc) : Nat :=
  if isXchip g then g.chips.length else if dMems d && dColl d != cREDSCAT then 1 else max 1 (ncore g)

/-- This chip is the root chip of a BCAST or REDUCE. -/
def onRootChip (s : State) (g : Group) (d : Desc) : Bool := lidx s g == dRootc d

/-- Core k is the root core. -/
def isRootCore (s : State) (g : Group) (d : Desc) (k : Nat) : Bool := !dRootm d && onRootChip s g d && dRootk d == k

/-- The posting gives core k a push (R246), and of how many elements (R249, R250). -/
def pushCount (s : State) (g : Group) (d : Desc) (k : Nat) : Option Nat :=
  if dMems d || !bit g.cores k then none
  else if dColl d == cBARRIER then some 0
  else if dColl d == cSCALEPASS then some 1
  else if dColl d == cBCAST then (if isRootCore s g d k then some (dNelem d) else none)
  else if dColl d == cREDUCE || dColl d == cALLREDUCE || dColl d == cREDSCAT then some (dNelem d)
  else if dColl d == cALLGATHER then some (if isXchip g then dNelem d / ncore g else dNelem d)
  else none

/-- The posting gives core k a pull, and of how many elements. -/
def pullCount (s : State) (g : Group) (d : Desc) (k : Nat) : Option Nat :=
  if dMemd d || !bit g.cores k then none
  else if dColl d == cBARRIER then some 0
  else if dColl d == cSCALEPASS then some 1
  else if dColl d == cBCAST || dColl d == cALLREDUCE then some (dNelem d)
  else if dColl d == cREDUCE then (if isRootCore s g d k then some (dNelem d) else none)
  else if dColl d == cREDSCAT then some (dNelem d / nranks g d)
  else if dColl d == cALLGATHER then some (nranks g d * dNelem d)
  else none

/-- Contributions are carried uncombined (R250, KIND of Table 2-3). -/
def isCopyColl (d : Desc) : Bool := dColl d == cALLGATHER || dColl d == cBCAST

/-- The collective may be joined by CP_SCALAR (R181). -/
def scalarOk (d : Desc) : Bool :=
  isScalarColl d || ((dColl d == cBCAST || dColl d == cREDUCE || dColl d == cALLREDUCE) && dNelem d == 1 && dTfmt d == fmtFP32)

/-- First chunk of core k's contribution within the collective: its place in the concatenation for an ALLGATHER, else 0. -/
def pushChunk0 (g : Group) (c : Coll) (k : Nat) : Nat :=
  if dColl c.desc == cALLGATHER then rankOf g k * ceilDiv (if isXchip g then dNelem c.desc / ncore g else dNelem c.desc) (chunkElems (frameFmt c)) else 0

/-- First chunk of core k's result: its shard for a REDSCAT on one chip, else 0. -/
def pullChunk0 (g : Group) (c : Coll) (k : Nat) : Nat :=
  if dColl c.desc == cREDSCAT && !isXchip g then rankOf g k * ceilDiv (dNelem c.desc / nranks g c.desc) (chunkElems (frameFmt c)) else 0

/-- The collective of a CID in progress on a group. -/
def collOf (g : Group) (cid : BitVec 32) : Option Coll := g.colls.find? fun c => c.cid == cid

end Sys2Proof.Machine
end

