-- ==== Sys2Proof/Machine/LinkOps.lean ====
section
/-! DEFINITION. Link ports, sending side (R210, R211, R224 to R230): flits, retention, credits and the choice of the next item. -/
namespace Sys2Proof.Machine

/-! ## Flits (Tables 8-5 to 8-7) -/

/-- Bytes of a flit. -/
def flitBytes (f : BitVec 512) : List Byte := leBytes 64 f.toNat

/-- The flit that 64 bytes spell. -/
def flitOf (l : List Byte) : BitVec 512 := BitVec.ofNat 512 (leNat (padTo l 64))

/-- Kinds of CTRL flits. -/
def ckToken : Nat := 1
def ckSoOp : Nat := 2
def ckSoRefuse : Nat := 3
def ckHandshake : Nat := 4
def ckAck : Nat := 5
def ckNak : Nat := 6
def ckCredit : Nat := 7
def ckPoison : Nat := 8
def ckAbort : Nat := 9

/-- A CTRL flit without LPSN and CCRC (Table 8-7); `fs` gives the fields of its kind. -/
def ctrlFlit (kind : Nat) (tag : BitVec 32) (src dst hops : Nat) (fs : List (Nat × Nat × Nat)) : BitVec 512 :=
  pack 512 ([(0, 8, kind), (8, 32, tag.toNat), (40, 12, src), (52, 12, dst), (64, 6, hops)] ++ fs)

def cKind (f : BitVec 512) : Nat := fld f 0 8
def cTag (f : BitVec 512) : BitVec 32 := BitVec.ofNat 32 (fld f 8 32)
def cSrc (f : BitVec 512) : Nat := fld f 40 12
def cDst (f : BitVec 512) : Nat := fld f 52 12
def cHops (f : BitVec 512) : Nat := fld f 64 6
def cLpsn (f : BitVec 512) : BitVec 16 := BitVec.ofNat 16 (fld f 72 16)

/-- CCRC: CRC-32C of bytes 0 to 59. -/
def ctrlCrc (f : BitVec 512) : BitVec 32 := crc32c ((flitBytes f).take 60)

/-- Replace a field of a word. -/
def setFld {n : Nat} (x : BitVec n) (lo w v : Nat) : BitVec n :=
  BitVec.ofNat n (x.toNat - (fld x lo w) <<< lo + (v % 2 ^ w) <<< lo)

/-- The flit as it is driven: CCRC computed. -/
def sealCtrl (f : BitVec 512) : BitVec 512 := setFld f 480 32 (ctrlCrc f).toNat

def hTag (f : BitVec 512) : BitVec 32 := BitVec.ofNat 32 (fld f 0 32)
def hEpoch (f : BitVec 512) : BitVec 16 := BitVec.ofNat 16 (fld f 32 16)
def hCid (f : BitVec 512) : BitVec 32 := BitVec.ofNat 32 (fld f 48 32)
def hCseq (f : BitVec 512) : BitVec 32 := BitVec.ofNat 32 (fld f 80 32)
def hSrc (f : BitVec 512) : Nat := fld f 112 12
def hDst (f : BitVec 512) : Nat := fld f 124 12
def hFmt (f : BitVec 512) : Nat := fld f 136 4
def hOp (f : BitVec 512) : Nat := fld f 140 4
def hLenw (f : BitVec 512) : Nat := fld f 144 18
def hS (f : BitVec 512) : Int := sfld f 162 9
def hStep (f : BitVec 512) : Nat := fld f 171 7
def hSched (f : BitVec 512) : Nat := fld f 178 9
def hHops (f : BitVec 512) : Nat := fld f 187 6
def hDmode (f : BitVec 512) : Bool := bit f 193
def hRply (f : BitVec 512) : Bool := bit f 194
def hLpsn (f : BitVec 512) : BitVec 16 := BitVec.ofNat 16 (fld f 198 16)

/-- CRCH over HEAD bytes 0 to 63 followed by TAIL bytes 0 to 11. -/
def headCrc (head tail : BitVec 512) : BitVec 32 := crc32c (flitBytes head ++ (flitBytes tail).take 12)

/-- A packet with another HEAD: CRCH_out = CRCH_in XOR L(Δ) (R275). CRC-32C is affine, so that L(Δ) is the XOR of the CRCs of two strings that
differ by Δ; a corrupted HEAD or TAIL keeps a CRCH that does not match. -/
def reHead (k : Packet) (h : BitVec 512) : Packet :=
  { k with head := h, tail := setFld k.tail 128 32 ((BitVec.ofNat 32 (fld k.tail 128 32)) ^^^ (headCrc h k.tail ^^^ headCrc k.head k.tail)).toNat }

/-- A TAIL flit (Table 8-6). -/
def tailFlit (status : BitVec 64) (vanish : Nat) (data : List Byte) (head : BitVec 512) : BitVec 512 :=
  let t : BitVec 512 := pack 512 [(0, 64, status.toNat), (64, 16, vanish), (96, 32, (crc32c data).toNat)]
  setFld t 128 32 (headCrc head t).toNat

/-- DATA flits of a packet. -/
def dataFlits (data : List Byte) : Nat := ceilDiv data.length 64

/-- The flits of an item in order, with their kinds: 0 DATA, 1 HEAD, 2 TAIL, 3 CTRL. -/
def itemFlits : Item → List (Nat × BitVec 512)
  | .ctrl f => [(3, f)]
  | .pkt p =>
    (1, p.head) :: ((List.range (dataFlits p.data)).map fun i => (0, flitOf ((p.data.drop (64 * i)).take 64))) ++ [(2, p.tail)]

/-- The item with its LPSN, as sent or (again) as resent with RPLY in a packet. -/
def itemWith (n : BitVec 16) (again : Bool) : Item → Item
  | .ctrl f => .ctrl (sealCtrl (setFld (setFld f 480 32 0) 72 16 n.toNat))
  | .pkt p => .pkt (reHead p (setFld (setFld p.head 198 16 n.toNat) 194 1 (b2n again)))

/-- Receive credits an item takes (R230): units of 4 KiB in VCB, flits in VCU. -/
def itemUnits (vcb : Bool) : Item → Nat
  | .ctrl _ => 1
  | .pkt p => if vcb then ceilDiv (dataFlits p.data + 2) 64 else dataFlits p.data + 2

/-- Receive credits of a class (Table 8-1). -/
def unitCap (vcb : Bool) : Nat := if vcb then 960 else 3072

/-! ## Choice of the next item (R211, R225) -/

/-- The first waiting item of a tenant, and the rest. -/
def takeOf (t : Nat) : List TxItem → Option (TxItem × List TxItem)
  | [] => none
  | x :: r => if x.tid = t then some (x, r) else (takeOf t r).map fun y => (y.1, x :: y.2)

/-- The tenants in the order of service after `last`; 64 stands for relayed items. -/
def afterTenant (last : Nat) : List Nat := (List.range 65).map fun i => (last + 1 + i) % 65

/-- VCB weight of a tenant (R211). -/
def vcbWeightOf (s : State) (t : Nat) : Nat := tabGet 4 s.grp.vcbW t

/-- An item's receive credits are held. -/
def fits (c : LinkClassState) (vcb : Bool) (x : TxItem) : Bool :=
  decide (c.txUsed + itemUnits vcb x.item ≤ unitCap vcb)

/-- CTRL flits that control retention holds on a port (Table 8-1). -/
def ctrlCap : Nat := 1024

/-- Retention has room for an item: a CTRL flit takes a place in control retention (R214, R228). -/
def retains (c : LinkClassState) : Item → Bool
  | .pkt _ => true
  | .ctrl _ => decide ((c.retain.filter fun x => match x.item with | .ctrl _ => true | .pkt _ => false).length < ctrlCap)

/-- Choose the next waiting item: the class state with the item taken out. -/
def chooseItem (s : State) (c : LinkClassState) (vcb : Bool) : Option (TxItem × LinkClassState) :=
  let ok (t : Nat) : Option (TxItem × List TxItem) :=
    match takeOf t c.wait with
    | some y => if fits c vcb y.1 && retains c y.1.item then some y else none
    | none => none
  match (if vcb && decide (0 < c.wleft) then ok c.last else none) with
  | some y => some (y.1, { c with wait := y.2, wleft := c.wleft - 1 })
  | none =>
    match (afterTenant c.last).find? fun t => (ok t).isSome with
    | none => none
    | some t =>
      match ok t with
      | some y => some (y.1, { c with wait := y.2, last := t, wleft := vcbWeightOf s t - 1 })
      | none => none

/-- Record the sending of an item: it takes the next LPSN and is retained (R228). -/
def startItem (c : LinkClassState) (vcb : Bool) (x : TxItem) : LinkClassState :=
  let it := itemWith c.nextTx false x.item
  { c with
    cur := itemFlits it
    curN := some c.nextTx
    nextTx := c.nextTx + 1
    txUsed := c.txUsed + itemUnits vcb x.item
    retain := c.retain ++ [{ x with item := it, lpsn := some c.nextTx }] }

/-- The last flit of the item in progress has left: its time runs (R228). -/
def stampSent (now : Nat) (c : LinkClassState) : LinkClassState :=
  { c with curN := none, retain := c.retain.map fun x => if x.lpsn == c.curN then { x with tsent := now } else x }

/-- The first ABORT that waits and that this chip began (R307, R309). -/
def takeAbort (c : LinkClassState) : Option (TxItem × LinkClassState) :=
  (takeFirst (fun x => x.tid != 64 && (match x.item with | .ctrl f => cKind f == ckAbort | .pkt _ => false)) c.wait).map fun y =>
    (y.1, { c with wait := y.2 })

/-- One move of a class in block stop: the item in progress ends, and then only this chip's own ABORTs go (R309, log entry 119). -/
def sendStopped (s : State) (up vcb : Bool) (c : LinkClassState) : Option (LinkClassState × Option (Nat × BitVec 512)) :=
  if !up || c.crd = 0 then none
  else match c.cur with
    | f :: r =>
      let c1 := { c with cur := r, crd := c.crd - 1 }
      some (if r.isEmpty then stampSent s.tb c1 else c1, some f)
    | [] =>
      match takeAbort c with
      | some y => if fits y.2 vcb y.1 && retains y.2 y.1.item then some (startItem y.2 vcb y.1, none) else none
      | none => none

/-- One move of a class: drive the next flit of the item in progress, or begin the next: ACK, NAK and CREDIT first,
then resends, then waiting items. -/
def sendOne (s : State) (up pause vcb : Bool) (c : LinkClassState) : Option (LinkClassState × Option (Nat × BitVec 512)) :=
  if !up || c.crd = 0 then none
  else match c.cur with
    | f :: r =>
      let c1 := { c with cur := r, crd := c.crd - 1 }
      some (if r.isEmpty then stampSent s.tb c1 else c1, some f)
    | [] =>
      match c.imm with
      | f :: r => some ({ c with imm := r, crd := c.crd - 1 }, some (3, f))
      | [] =>
        if pause then none
        else match c.again with
        | n :: r =>
          match c.retain.find? fun x => x.lpsn == some n with
          | some x =>
            if fits c vcb x then
              some ({ c with again := r, curN := some n, cur := itemFlits (itemWith n true x.item), txUsed := c.txUsed + itemUnits vcb x.item }, none)
            else none
          | none => some ({ c with again := r }, none)
        | [] =>
          match chooseItem s c vcb with
          | some y => some (startItem y.2 vcb y.1, none)
          | none => none

/-- Up to `n` moves of one class of a port. -/
def pumpClass (s : State) (p : Nat) (vcb : Bool) : Nat → LinkPort → LinkPort
  | 0, l => l
  | n + 1, l =>
    match (if s.flt.bstop then sendStopped s (l.up && !l.rst) vcb (l.cls vcb)
      else sendOne s (l.up && !l.rst) (vcb && (l.pauseVcb || s.boot.brake)) vcb (l.cls vcb)) with
    | none => l
    | some r =>
      let l1 := l.modCls vcb fun _ => r.1
      pumpClass s p vcb n (match r.2 with | some f => { l1 with out := (vcb, f.1, f.2) :: l1.out } | none => l1)

/-- Bound on the moves that the router credits of a class allow. -/
def pumpBound (c : LinkClassState) : Nat := 2 * c.crd + c.again.length + c.wait.length + 2

/-- What the credits of a port allow, VCU before VCB (R224, R225). In block stop only ABORTs go (R309), and no VCB packet starts while a
commit pauses the class or the power brake holds (R339, R387). -/
def pumpBoth (s : State) (p : Nat) : State :=
  s.modLport p fun l =>
    let l1 := pumpClass s p false (pumpBound l.vcu) l
    if s.flt.bstop then l1 else pumpClass s p true (pumpBound l1.vcb) l1

/-- The cores whose remote operation has left in a class. -/
def told (c : LinkClassState) : List Nat := c.retain.filterMap fun x => if x.lpsn == c.curN then none else x.tell

/-- Core k's remote operation has left the chip: its CP_SYNC ends with ST_OK (R150, R183). -/
def tellCore (s : State) (k : Nat) : State :=
  match (s.port k).sync with
  | some h => if h.rmt && h.sent then syncEnd s k .ok else s
  | none => s

/-- End the CP_SYNC of every core whose remote operation has left through port p. -/
def tellSent (s : State) (p : Nat) : State :=
  let c := (s.lport p).vcu
  if (told c).isEmpty then s
  else
    let gone (x : TxItem) : TxItem := if x.lpsn == c.curN then x else { x with tell := none }
    (told c).foldl tellCore (s.modLport p fun l => { l with vcu := { c with retain := c.retain.map gone } })

/-- Send what the credits of a port allow, and tell the cores whose remote operations have left. -/
def pumpPort (s : State) (p : Nat) : State := tellSent (pumpBoth s p) p

/-- Put an item in the queue of a port and class, and send what the credits allow. -/
def queueItem (s : State) (p : Nat) (vcb : Bool) (x : TxItem) : State :=
  pumpPort (s.modLport p fun l => l.modCls vcb fun c => { c with wait := c.wait ++ [x] }) p

/-- Put an ACK, NAK or CREDIT flit ahead (R225). -/
def queueImm (s : State) (p : Nat) (vcb : Bool) (f : BitVec 512) : State :=
  pumpPort (s.modLport p fun l => l.modCls vcb fun c => { c with imm := c.imm ++ [sealCtrl f] }) p

/-- Send a CTRL flit to a chip by the route of R231, and tell core `tell` when it has left; nothing for this chip itself. -/
def sendCtrlTell (s : State) (kind : Nat) (tag : BitVec 32) (dst tid : Nat) (fs : List (Nat × Nat × Nat)) (tell : Option Nat) : State :=
  match s.routePort dst false 0 with
  | none => s
  | some p => queueItem s p false { item := .ctrl (ctrlFlit kind tag s.self dst (s.hopsTo dst) fs), tid := tid, tell := tell }

/-- Send a CTRL flit to a chip. -/
def sendCtrl (s : State) (kind : Nat) (tag : BitVec 32) (dst tid : Nat) (fs : List (Nat × Nat × Nat)) : State :=
  sendCtrlTell s kind tag dst tid fs none

/-- Send a CTRL flit to every other chip of a list. -/
def sendCtrlAll (s : State) (kind : Nat) (tag : BitVec 32) (chips : List Nat) (tid : Nat) (fs : List (Nat × Nat × Nat)) : State :=
  (chips.filter (· != s.self)).foldl (fun t n => sendCtrl t kind tag n tid fs) s

/-- The group whose non-zero tag this is (R194). -/
def findTag (s : State) (tag : BitVec 32) : Option Nat :=
  if tag = 0 then none
  else match s.grp.groups.find? fun e => e.2.gtag == tag && e.2.st != .free with
    | some e => some e.1
    | none => none

end Sys2Proof.Machine
end

