-- ==== Sys2Proof/Machine/SyncOps.lean ====
section
/-! DEFINITION. Waits, sync objects and the Cane (05): the shared operations. -/
namespace Sys2Proof.Machine

/-! ## Waits (R139 to R145, R185) -/

/-- GEN and COUNT conditions (R139). -/
def condHolds (mode : WaitMode) (target count : Nat) (gen : BitVec 16) : Bool :=
  match mode with
  | .gen => decide ((gen - BitVec.ofNat 16 target).toNat < 2 ^ 15)
  | _ => decide (target ≤ count)

/-- A wait that completes as it is posted: V with W_OK, no sleep, no timer (R139, R186). -/
def waitDone (s : State) (k : Nat) (mode : WaitMode) (val : BitVec 32) (gen : BitVec 16) (st : SoState) : State :=
  s.modPort k fun p => { p with waitSt := .ok, wres := { code := .ok, v := true, mode := mode, st := st, gen := gen, val := val } }

/-- Post a wait that does not complete at once: V falls, and cp_cg_req rises unless NOGATE (R185, R186). -/
def waitSleep (s : State) (k : Nat) (w : Wait) : State :=
  s.modPort k fun p => { p with waitSt := .ok, wait := some w, cgReq := w.gate, wres := { p.wres with v := false } }

/-- Units of a timeout: the group's default, or 1,000 (R141, R185). -/
def waitUnits (s : State) (g : Option Nat) (t : Nat) : Nat :=
  if t ≠ 0 then t else match g with | some i => (s.group i).wdef | none => 1000

/-- Cores with a wait, in order. -/
def waiters (s : State) : List Nat := (s.ports.filter fun e => e.2.wait.isSome).map (·.1)

/-- Cores asleep on object i. -/
def objWaiters (s : State) (i : Nat) : List Nat :=
  (s.ports.filter fun e => match e.2.wait with
    | some w => (w.mode == .gen || w.mode == .count) && w.id == i
    | none => false).map (·.1)

/-- Cores asleep on Cane channel cn. -/
def caneWaiters (s : State) (cn : Nat) : List Nat :=
  (s.ports.filter fun e => match e.2.wait with
    | some w => w.mode == .cane && w.id == cn
    | none => false).map (·.1)

/-- Value returned for a wait that ends without its condition (R142). -/
def wakeVal (s : State) (w : Wait) : BitVec 32 :=
  match w.mode with
  | .gen => BitVec.ofNat 32 (s.obj w.id).count
  | .count => BitVec.ofNat 32 (s.obj w.id).count
  | .cane => (s.cchan w.id).phase
  | _ => 0

/-- End core k's wait with a result and the values that stand (R142). -/
def wakeWith (s : State) (k : Nat) (code : WCode) : State :=
  match (s.port k).wait with
  | none => s
  | some w =>
    if w.mode == .gen || w.mode == .count then wake s k code (wakeVal s w) (s.obj w.id).gen (s.obj w.id).st
    else if w.mode == .push then wakePlain s k code (BitVec.ofNat 32 (s.port k).push.cnt)
    else if w.mode == .pull then wakePlain s k code (BitVec.ofNat 32 (s.port k).pull.cnt)
    else wakePlain s k code (wakeVal s w)

/-- End the waits of a list of cores. -/
def wakeAll (s : State) (ks : List Nat) (code : WCode) : State := ks.foldl (fun t k => wakeWith t k code) s

/-! ## Object records (Table 5-1) -/

/-- Waiters now asleep, saturating at 255. -/
def nwait (s : State) (i : Nat) : Nat := min 255 (objWaiters s i).length

/-- The record that READ returns. -/
def soRecord (s : State) (i : Nat) : BitVec 256 :=
  let o := s.obj i
  pack 256
    [(0, 32, o.count), (32, 32, o.thresh), (64, 16, o.gen.toNat), (80, 6, o.tid), (86, 2, o.st.code), (88, 1, b2n o.fpre),
     (89, 1, b2n o.sat), (90, 1, b2n o.gid.isSome), (91, 1, b2n o.al), (92, 12, o.gid.getD 0), (104, 16, o.tag),
     (120, 8, nwait s i), (128, 32, o.held), (160, 11, o.lastc), (171, 2, o.lastk), (173, 1, b2n o.psn),
     (176, 12, o.lastx), (192, 32, o.tbx.toNat), (224, 32, o.bthr)]

/-- Blocks that hold block objects; root objects are below 0x4000 (R131). -/
def soBlock (i : Nat) : Option Nat := if i < 0x4000 then none else some ((i - 0x4000) / 256)

/-- Distinct cells of a list of cores, in order. -/
def cellsOf (ks : List Nat) : List Nat := (ks.map cellOf).eraseDups

/-- A change of GEN, COUNT or STATE: notices to the cells with waiters, and the slots that map the object follow (R153, R405). `psn`: the
change was made by a poisoned arrival, and the notice carries the mark (R291). -/
def announce (s : State) (i : Nat) (psn : Bool) : State :=
  let o := s.obj i
  let ks := objWaiters s i
  let ns := (cellsOf ks).map fun c =>
    ({ cell := c, soid := i, count := o.count, gen := o.gen, st := o.st, psn := psn, cores := ks.filter fun k => cellOf k == c } : Notice)
  { s with
    sync := { s.sync with notices := s.sync.notices ++ ns }
    host := { s.host with slots := tabMap {} (fun _ x =>
      if x.soid == some i then { x with count := o.count, gen := o.gen, st := o.st } else x) s.host.slots } }

/-- What one edge made of object i, against the record `old` before it: one notice when GEN, COUNT or STATE changed (R153). -/
def announceFrom (s : State) (i : Nat) (old : SyncObj) (psn : Bool) : State :=
  let o := s.obj i
  if old.gen == o.gen && old.count == o.count && old.st == o.st then s else announce s i psn

/-- Write an object; a change of GEN, COUNT or STATE is announced. -/
def setObj (s : State) (i : Nat) (o : SyncObj) : State := announceFrom (s.modObj i fun _ => o) i (s.obj i) false

/-- Slots that map an object, ascending. -/
def slotsOf (s : State) (i : Nat) : List Nat := (s.host.slots.filter fun e => e.2.soid == some i).map (·.1)

/-- A crossing or SIGNAL: trigger notices to Marver and the messages of the slots (R135, R136, R152). -/
def crossed (s : State) (i k : Nat) : State :=
  let t := { s with sync := { s.sync with trig := s.sync.trig ++ [(i, k, false)] } }
  (slotsOf t i).foldl msgEvent t

/-- Saturating addition to COUNT or HELD (R136): the sum and whether it saturated. -/
def satSum (a n : Nat) : Nat × Bool := if 0xFFFFFFFF < a + n then (0xFFFFFFFF, true) else (a + n, false)

/-- TBX: bits [31:0] of tb_count. -/
def tbx (s : State) : BitVec 32 := BitVec.ofNat 32 s.tb

/-- The crossing rule (R136): the object after it, and the number k of generations it advanced. -/
def crossRule (tb : BitVec 32) (o : SyncObj) : SyncObj × Nat :=
  if o.st = .armed ∧ 0 < o.thresh ∧ o.thresh ≤ o.count then
    let k := o.count / o.thresh
    ({ o with gen := o.gen + BitVec.ofNat 16 k, count := o.count - k * o.thresh, tbx := tb }, k)
  else (o, 0)

/-! ## Operations on one object (R133 to R138) -/

/-- The cross-tenant grant of an object to a tenant (Table 7-8). -/
def soGrantOf (s : State) (i tid : Nat) (f : SoGrant → Bool) : Bool :=
  s.grp.soGrant.any fun e => e.2.valid && e.2.soid == i && e.2.tid == tid && f e.2

/-- Rights of R134. -/
def soAllowed (s : State) (op : SoOp) : Bool :=
  let o := s.obj op.soid
  if op.kind = .reset then op.tid == o.tid && op.tag == some o.tag
  else op.tid == o.tid || soGrantOf s op.soid op.tid fun g =>
    match op.kind with | .arrive => g.arrive | .signal => g.signal | .read => g.read | .reset => false

/-- A core of another block, or a remote chip, names a block object (R131, R150). -/
def soOutside (op : SoOp) : Bool :=
  match op.caller, soBlock op.soid with
  | .core k, some b => blockOfCell (cellOf k) != b
  | .remote .., some _ => true
  | _, _ => false

/-- Status that Table 5-2 gives an operation on the object as it stands. -/
def soStatus (s : State) (op : SoOp) : St :=
  let o := s.obj op.soid
  if soOutside op then .range
  else if !o.al then .denied
  else if !soAllowed s op then .denied
  else match op.kind, o.st with
    | .read, _ => .ok
    | .arrive, .abandoned => .conflict
    | .arrive, _ => if op.opnd = 0 ∨ 65535 < op.opnd then .range else .ok
    | .signal, .abandoned => .conflict
    | .signal, .frozen => .busy
    | .signal, _ => .ok
    | .reset, .abandoned => .conflict
    | .reset, .frozen => .conflict
    | .reset, _ => if nwait s op.soid = 0 then .ok else .conflict

/-- RESET(t) (Table 5-2). -/
def applyReset (s : State) (i t : Nat) : State :=
  let o := s.obj i
  s.modObj i fun _ => { o with count := 0, thresh := t, sat := false, psn := false, st := if t = 0 then .idle else .armed }

/-- SIGNAL (Table 5-2). -/
def applySignal (s : State) (i : Nat) : State :=
  let o := s.obj i
  let c := if o.st = .armed then 0 else o.count
  crossed (s.modObj i fun _ => { o with gen := o.gen + 1, count := c, tbx := tbx s, psn := if c = o.count then o.psn else false }) i 1

/-- LASTK of a caller (Table 5-1). -/
def lastKind : Caller → Nat
  | .core _ => 0 | .marver _ => 1 | .host _ => 2 | .remote .. => 3 | .gaffer => 1

/-- The last arriver of one edge (R137): the lowest cell, then Marver, then the host, then the lowest remote chip. DESIGN CHOICE (log entry
113): LASTC reads 0 where the arriver is no cell, and LASTX 0 where it is no remote chip. -/
def lastArriver (ops : List SoOp) : Option (Nat × Nat × Nat) :=
  let cells := ops.filterMap fun o => match o.caller with | .core k => some (cellOf k) | _ => none
  let chips := ops.filterMap fun o => match o.caller with | .remote c .. => some c | _ => none
  if !cells.isEmpty then some (0, cells.foldl min (cells.headD 0), 0)
  else if ops.any fun o => lastKind o.caller == 1 then some (1, 0, 0)
  else if ops.any fun o => lastKind o.caller == 2 then some (2, 0, 0)
  else if !chips.isEmpty then some (3, 0, chips.foldl min (chips.headD 0))
  else none

/-- The accepted arrivals of one edge summed at an object, held while it is FROZEN, else counted with the HELD of a resume on that edge
(`thaw`), and the crossing rule (R136 to R138, R145): the object, the generations crossed, and whether a poisoned arrival made a crossing or
changed COUNT (R291). -/
def countArrivals (tb : BitVec 32) (o : SyncObj) (ops : List SoOp) (thaw : Bool) : SyncObj × Nat × Bool :=
  let n := (ops.map (·.opnd)).foldl (· + ·) 0
  let psn := ops.any (·.psn)
  let l := (lastArriver ops).getD (o.lastk, o.lastc, o.lastx)
  let o1 := { o with lastk := l.1, lastc := l.2.1, lastx := l.2.2 }
  if o.st = .frozen then
    let r := satSum o.held n
    ({ o1 with held := r.1, sat := o.sat || r.2, heldPsn := o.heldPsn || psn }, 0, false)
  else
    let r := satSum o.count (n + if thaw then o.held else 0)
    let o2 := { o1 with count := r.1, sat := o.sat || r.2, held := if thaw then 0 else o.held, heldPsn := !thaw && o.heldPsn }
    let c := crossRule tb o2
    let moved := decide (c.2 ≠ 0 ∨ c.1.count ≠ o.count)
    let bad := psn || (thaw && o.heldPsn)
    ({ c.1 with psn := if moved then bad else o.psn }, c.2, moved && bad)

/-- Steps 5 and 6 of R138 at object i, and whether a poisoned arrival changed it. -/
def applyArrivals (s : State) (i : Nat) (ops : List SoOp) (thaw : Bool) : State × Bool :=
  if ops.isEmpty && !thaw then (s, false)
  else
    let r := countArrivals (tbx s) (s.obj i) ops thaw
    let t := s.modObj i fun _ => r.1
    (if r.2.1 = 0 then t else crossed t i r.2.1, r.2.2)

/-- The status of an operation goes back to its caller (R150, R183, R405). -/
def soReply (s : State) (op : SoOp) (st : St) : State :=
  match op.caller with
  | .core k =>
    let r := soRecord s op.soid
    let t := s.modPort k fun p =>
      let p1 := { p with sync := none, syncSt := st, fSync := false }
      if op.kind = .read ∧ st = .ok then { p1 with sorec := r, rv := true } else p1
    judgeFence t k
  | .host n => s.modSlot n fun x => { x with next := some st }
  | .remote chip gid _ _ =>
    if st = .ok then s
    else sendCtrl s ckSoRefuse (s.group gid).gtag chip (s.group gid).tid
      [(128, 15, op.soid), (143, 2, if op.kind = .signal then 1 else 0), (145, 4, st.code)]
  | .marver _ => s
  | .gaffer => s

/-- One RESET or SIGNAL of an edge, with its reply. -/
def applyOne (s : State) (op : SoOp) : State :=
  let st := soStatus s op
  let t := if st = .ok then (if op.kind = .reset then applyReset s op.soid op.opnd else applySignal s op.soid) else s
  soReply t op st

/-- A FROZEN object returns to the state in FPRE (R145); HELD stays for the arrivals of the same edge. -/
def thawState (o : SyncObj) : SyncObj := { o with st := if o.fpre then .armed else .idle, fpre := false }

/-- What meets one object on one edge, in the order of R138: the owner's resume (`thaw`, of a FROZEN object), RESET, SIGNAL, ARRIVE with
HELD, the crossing, READ. One notice tells what the edge made of the object (R153). -/
def objectEdge (s : State) (i : Nat) (ops : List SoOp) (thaw : Bool) : State :=
  let s0 := if thaw then s.modObj i thawState else s
  let s1 := (ops.filter fun o => o.kind == .reset).foldl applyOne s0
  let s2 := (ops.filter fun o => o.kind == .signal).foldl applyOne s1
  let arr := (ops.filter fun o => o.kind == .arrive).map fun o => (o, soStatus s2 o)
  let s3 := applyArrivals s2 i ((arr.filter fun a => a.2 == .ok).map (·.1)) thaw
  let s4 := arr.foldl (fun t a => soReply t a.1 a.2) (announceFrom s3.1 i (s.obj i) s3.2)
  (ops.filter fun o => o.kind == .read).foldl (fun t o => soReply t o (soStatus t o)) s4

/-- The operations that meet one object on one edge (R138). -/
def applyEdge (s : State) (i : Nat) (ops : List SoOp) : State := objectEdge s i ops false

/-- The first `n` operations of an object taken out of those on their way. -/
def takeOps (soid : Nat) : Nat → List SoOp → List SoOp × List SoOp
  | _, [] => ([], [])
  | n, o :: r =>
    if o.soid == soid && n != 0 then let t := takeOps soid (n - 1) r; (o :: t.1, t.2)
    else let t := takeOps soid n r; (t.1, o :: t.2)

/-- Apply an operation of Gaffer's own at once: a SIGNAL to a notify object of its tenant (R200, R320). -/
def gafferSignal (s : State) (tid : Nat) (soid : Option Nat) : State :=
  match soid with
  | none => s
  | some i => applyEdge s i [{ soid := i, kind := .signal, opnd := 0, tid := tid, tag := none, caller := .gaffer }]

/-- Put an operation on its way to its object. -/
def sendOp (s : State) (op : SoOp) : State := { s with sync := { s.sync with ops := s.sync.ops ++ [op] } }

/-- The object becomes ABANDONED (R147). -/
def abandon (s : State) (i : Nat) : State :=
  let o := s.obj i
  if o.al && o.st != .abandoned then setObj s i { o with st := .abandoned, fpre := false } else s

/-- Numbers of the allocated objects that satisfy a condition. -/
def objsWhere (s : State) (p : SyncObj → Bool) : List Nat := (s.sync.objs.filter fun e => e.2.al && p e.2).map (·.1)

/-- The notice's effect on one waiter (Table 5-4): owner lost, or the condition now holds, poisoned or not. -/
def noticeCore (n : Notice) (s : State) (k : Nat) : State :=
  match (s.port k).wait with
  | none => s
  | some w =>
    if n.st = .abandoned then wake s k .ownerLost (BitVec.ofNat 32 n.count) n.gen n.st
    else if n.st = .frozen then s
    else if condHolds w.mode w.target n.count n.gen then
      wake s k (if n.psn then .poison else .ok) (BitVec.ofNat 32 n.count) n.gen n.st
    else s

/-! ## Cane (R155 to R165) -/

/-- CN63 serves as the boot barrier (R379). -/
def bootBarrier (s : State) (cn : Nat) : Bool := s.cane.bootBar && cn == 63

/-- Core k's leg on the channel is not masked: a present member (R155, R379). -/
def caneMember (s : State) (cn k : Nat) : Bool :=
  s.present k && (if bootBarrier s cn then true else (s.cchan cn).bound.isSome && (s.cchan cn).members.contains k)

/-- The host leg is a member (R404). -/
def hostMember (s : State) (cn : Nat) : Bool :=
  bootBarrier s cn || ((s.cchan cn).bound.isSome && (s.cchan cn).hostm)

/-- Target sense of the next release: (p + 1) mod 2 (R156). -/
def caneTarget (c : CaneChan) : Bool := c.phase.toNat % 2 == 0

/-- Level of core k's arrival leg. -/
def legOf (c : CaneChan) (k : Nat) : Bool := tabGet false c.legs k

/-- Target sense as core k's cell sees it: the release leg has last brought the other level (R156). -/
def cellTarget (c : CaneChan) (k : Nat) : Bool := !tabGet false c.relLeg (cellOf k)

/-- Core k has arrived and its release has not reached its cell (R157). -/
def hasArrived (c : CaneChan) (k : Nat) : Bool := legOf c k == cellTarget c k

/-- Drive core k's arrival leg to the target. -/
def driveLeg (s : State) (cn k : Nat) : State :=
  s.modCchan cn fun c => { c with legs := tabSet false c.legs k (cellTarget c k) }

/-- Member cores of a channel. -/
def caneMembers (s : State) (cn : Nat) : List Nat :=
  if bootBarrier s cn then (List.range 5120).filter s.present else (s.cchan cn).members.filter s.present

/-- Every unmasked leg of the chip stands at the target (R156). -/
def caneArrived (s : State) (cn : Nat) : Bool :=
  let c := s.cchan cn
  (caneMembers s cn).all (fun k => legOf c k == caneTarget c) && (!hostMember s cn || c.hostLeg == caneTarget c)

/-- The channel releases: the release leg goes to the target, p increments, the release starts down to every cell of the members
and the message of the channel is due (R152, R156). -/
def caneRelease (s : State) (cn : Nat) : State :=
  let c := s.cchan cn
  let t := caneTarget c
  let rels := (cellsOf (caneMembers s cn)).map fun x => (cn, x, t, c.phase + 1)
  let s1 := s.modCchan cn fun c =>
    { c with sense := t, phase := c.phase + 1, stage := 0, tokens := c.tokens.filter (fun k => k.parity != t) }
  msgEvent { s1 with cane := { s1.cane with rel := s1.cane.rel ++ rels } } (srcCane + cn)

/-- Clear a channel (R160). -/
def caneClear (s : State) (cn : Nat) : State :=
  let s1 := s.modCchan cn fun c =>
    { c with phase := 0, sense := false, hostLeg := false, stage := 0, tokens := [], legs := [], relLeg := [] }
  { s1 with cane := { s1.cane with rel := s1.cane.rel.filter (fun r => r.1 != cn) } }

/-- Channels bound to a group. -/
def caneOf (s : State) (g : Nat) : List Nat := (s.cane.chans.filter fun e => e.2.bound == some g).map (·.1)

/-- Tenant granted a Cane channel. -/
def caneTid (s : State) (cn : Nat) : Option Nat := tabGet none s.grp.caneGrant cn

/-- Channel record (Table 5-9). -/
def caneRecord (s : State) (cn : Nat) : BitVec 64 :=
  let c := s.cchan cn
  pack 64
    [(0, 32, c.phase.toNat), (32, 1, b2n c.sense), (33, 6, (caneTid s cn).getD 0), (39, 12, c.bound.getD 0),
     (51, 1, b2n c.bound.isSome), (52, 3, if bootBarrier s cn then 5 else c.apex), (55, 1, b2n (hostMember s cn)),
     (56, 1, b2n c.xchip), (57, 1, b2n c.lost), (58, 1, b2n c.inte)]

end Sys2Proof.Machine
end

