-- ==== Sys2Proof/Machine/Peers.lean ====
section
/-! DEFINITION. Epochs (R199) and the peer handshake (R201). -/
namespace Sys2Proof.Machine

/-- The group takes an epoch, and every node of the group holds it; handshakes of older epochs are forgotten (R199). -/
def setEpoch (s : State) (g : Nat) (n : BitVec 16) : State :=
  let t := s.modGroup g fun e =>
    { e with epoch := n, peers := false, hs := e.hs.filter fun h => decide ((h.epoch - n).toNat < 0x8000) }
  { t with fab := { t.fab with masks := tabMap none (fun k m =>
    if k % 4096 == g then m.map fun x => { x with epoch := n } else m) t.fab.masks } }

/-- The epoch increments (R199). -/
def epochStep (s : State) (g : Nat) : State := setEpoch s g ((s.group g).epoch + 1)

/-- The group's Cane waiters wake and its channels are cleared (R160). -/
def clearCane (s : State) (g : Nat) (code : WCode) : State :=
  (caneOf s g).foldl (fun t cn => caneClear (wakeAll t (caneWaiters t cn) code) cn) s

/-- Waiters on the group's objects wake with W_EPOCH, and its Cane channels are cleared (R142, R160, R199). -/
def epochWake (s : State) (g : Nat) : State :=
  clearCane ((objsWhere s fun o => o.gid == some g).foldl (fun t i => wakeAll t (objWaiters t i) .epoch) s) g .epoch

/-- The group's handshake to every other chip of CHIPS. -/
def sendHandshake (s : State) (g : Nat) : State :=
  let e := s.group g
  if isXchip e then
    sendCtrlAll (s.modGroup g fun e => { e with peerSince := s.tb }) ckHandshake e.gtag e.chips e.tid
      [(128, 16, e.epoch.toNat), (144, 32, e.listCrc.toNat), (176, 4, e.clog)]
  else s

/-- How much newer than the group's epoch a handshake is, 0 when it is not newer. -/
def newerBy (e : Group) (h : Handshake) : Nat := let d := (h.epoch - e.epoch).toNat; if d < 0x8000 then d else 0

/-- The newest epoch held that is newer than the group's. -/
def newestHs (e : Group) : Nat := (e.hs.map (newerBy e)).foldl max 0

/-- A newer epoch is adopted while the group is ENABLED with no collective in progress. -/
def adoptTry (s : State) (g : Nat) : State :=
  let e := s.group g
  if e.st == .enabled && e.colls.isEmpty && newestHs e != 0 then
    sendHandshake (epochWake (setEpoch s g (e.epoch + BitVec.ofNat 16 (newestHs e))) g) g
  else s

/-- Other chips of the group. -/
def otherChips (s : State) (g : Nat) : List Nat := (s.group g).chips.filter (· != s.self)

/-- A handshake of the current epoch agrees with the group in CRC and CLOG. -/
def hsGood (e : Group) (h : Handshake) : Bool := h.epoch == e.epoch && h.crc == e.listCrc && h.clog == e.clog

/-- Other chips from which no matching handshake of the current epoch is held. -/
def missingChips (s : State) (g : Nat) : List Nat :=
  let e := s.group g
  (otherChips s g).filter fun c => !e.hs.any fun h => h.chip == c && hsGood e h

/-- F_GROUP_MISMATCH for each handshake of the current epoch that differs, and PEERS once every other chip has sent a match. -/
def peersJudge (s : State) (g : Nat) : State :=
  let e := s.group g
  let bad := e.hs.filter fun h => h.epoch == e.epoch && !hsGood e h
  let t := s.modGroup g fun y => { y with
    hs := y.hs.filter fun h => !bad.contains h, peers := y.peers || (missingChips s g).isEmpty }
  raiseAll t (bad.map fun h => { (mkEv .groupMismatch 14 h.chip).onGroup s g with detail := BitVec.ofNat 16 h.chip })

/-- What the handshakes held allow now. -/
def peersTry (s : State) (g : Nat) : State :=
  let e := s.group g
  if isXchip e && (e.st == .enabled || e.st == .draining) then peersJudge (adoptTry s g) g else s

end Sys2Proof.Machine
end

