-- ==== Sys2Proof/Machine/PortOps.lean ====
section
/-! DEFINITION. Core port streams and scalars (06): checks against the posting, starts and ends. -/
namespace Sys2Proof.Machine

/-- Wait result with which a transfer's end wakes its waiter (R185). -/
def Reason.wait : Reason → WCode
  | .epoch => .epoch
  | .abort => .abort
  | .mem => .abort
  | _ => .ok

/-- One direction of a port. -/
def CorePort.dir (p : CorePort) (pull : Bool) : Stream := if pull then p.pull else p.push
/-- Change one direction of a port. -/
def CorePort.modDir (p : CorePort) (pull : Bool) (f : Stream → Stream) : CorePort :=
  if pull then { p with pull := f p.pull } else { p with push := f p.push }

/-- The wide class carries the collective (R205). -/
def isWideColl (d : Desc) : Bool :=
  dOp d == opISUM || ((dOp d == opMAX || dOp d == opMIN) && dTfmt d == fmtI80) ||
  ((dOp d == opSUM || dOp d == opWSUM) && dWide d)

/-- The channel by which Table 3-6 judges the contexts: narrow-class collectives count as narrow wherever they are carried (R206). -/
def pairCh (c : Coll) : Nat := if isWideColl c.desc then c.ch else 0

/-- What a pull clears when it starts (Tables 6-11, 6-12). -/
def clearStream (t : Stream) : Stream := { t with fchk := 0, fv := false, sw := 0 }

/-- A transfer takes the running place: the count is its own from 0 (R176); one whose posting is there starts. -/
def startStream (x : Xfer) (t : Stream) : Stream :=
  let t1 := { t with run := some x, que := none, cnt := 0, cid := x.cid }
  if x.waiting then t1 else clearStream t1

/-- The running place is left: CID and the count keep those of the last transfer that ran (Table 6-10). -/
def leaveStream (x : Xfer) (t : Stream) : Stream :=
  if x.waiting then { t with run := none, cid := t.lastCid, cnt := t.lastCnt }
  else { t with run := none, lastCid := t.cid, lastCnt := t.cnt }

/-- The queued transfer starts when the one before it ends (R173). -/
def startQueued (t : Stream) : Stream :=
  match t.run, t.que with
  | none, some x => startStream x t
  | _, _ => t

/-- Every transfer of a direction written before the one numbered `n` has ended. -/
def endedBefore (t : Stream) (n : Nat) : Bool := (t.run.toList ++ t.que.toList).all fun x => decide (n ≤ x.seq)

/-- The port's pushes written and not ended satisfy a pending PUSHHELD fence (R187). -/
def fencePush (p : CorePort) : CorePort :=
  match p.fPush with
  | some n => if endedBefore p.push n then { p with fPush := none } else p
  | none => p

/-! ## End of a chip's part in a collective (R198, R261, R270) -/

/-- A collective whose core parts have all ended and that no schedule carries any longer. -/
def collFinished (c : Coll) : Bool := c.coresLeft.isEmpty && c.sched.isNone

/-- This chip's part of a collective without a schedule ends: ARRIVE(1) at DSOID when DV is set (Table 9-1). -/
def doneArrive (s : State) (g : Nat) (c : Coll) (psn : Bool) : State :=
  if dDv c.desc then
    sendOp s { soid := dDsoid c.desc, kind := .arrive, opnd := 1, tid := (s.group g).tid, tag := none, caller := .gaffer, psn := psn }
  else s

/-- The ports forget that they joined a collective which has left. -/
def forgetPosted (s : State) (g : Nat) (cid : BitVec 32) : State :=
  { s with ports := tabMap {} (fun _ p => { p with posted := p.posted.filter fun e => e.1 != g || e.2.1 != cid }) s.ports }

/-- The collective of a CID changed. -/
def modColl (s : State) (g : Nat) (cid : BitVec 32) (f : Coll → Coll) : State :=
  s.modGroup g fun e => { e with colls := e.colls.map fun c => if c.cid == cid then f c else c }

/-- A SCALEPASS that completes leaves its CID, R and S with the group, the eight most recent (R248). -/
def noteScale (s : State) (g : Nat) (c : Coll) : State :=
  match dColl c.desc == cSCALEPASS, c.r with
  | true, some r => s.modGroup g fun e =>
    let l := (c.cid, r, scaleOf r) :: e.scales
    { e with scales := l.take 8, scaleGone := ((l.drop 8).map (·.1) ++ e.scaleGone.filter (· != c.cid)).eraseDups }
  | _, _ => s

/-- Finished collectives leave in issue order, each with its done ARRIVE unless its pass performed it (R270). -/
def sweepColls (g : Nat) : Nat → State → State
  | 0, s => s
  | n + 1, s =>
    match (s.group g).colls with
    | [] => s
    | c :: r =>
      if collFinished c then
        let t := noteScale (forgetPosted (s.modGroup g fun e => { e with colls := r }) g c.cid) g c
        sweepColls g n (if c.carried then t else doneArrive t g c false)
      else s

/-! ## Sending a posting to the cells (R173, R248) -/

/-- The unit exponent of a SCALEPASS that the group keeps (R248). -/
def scaleFor (g : Group) (cid : BitVec 32) : Option Int := (g.scales.find? fun x => x.1 == cid).map (·.2.2)

/-- The named SCALEPASS completed here and is no longer among the eight kept, nor in progress again: a later one has taken its place (R248).
One that has not yet completed here is waited for. -/
def scaleStale (g : Group) (cid : BitVec 32) : Bool :=
  (scaleFor g cid).isNone && (collOf g cid).isNone && g.scaleGone.contains cid

/-- F_SCALE_STALE on the group (R248). -/
def staleEvent (s : State) (g : Nat) (spcid : BitVec 32) : Event :=
  { (mkEv .scaleStale 6 16).onGroup s g with cseq := spcid }

/-- The group's postings are not held: its peers have shaken hands, and no POISON is being handled (R201, R286). -/
def postingsFree (e : Group) : Bool := (!isXchip e || e.peers) && e.pwork.isNone

/-- Put a posting on its way to the cells of the member cores. -/
def sendPosting (s : State) (g : Nat) (cid : BitVec 32) (sx : Option Int) : State :=
  let cells := cellsOf (memberCores (s.group g))
  let t := modColl s g cid fun c => { c with cellsTo := cells, posted := true, s := match sx with | some x => some x | none => c.s }
  { t with mrv := { t.mrv with postOut := t.mrv.postOut ++ cells.map fun c => (c, g, cid) } }

/-- A collective that no schedule carries is sent to the cells once its S is known and nothing holds it. -/
def postDie (g : Nat) (s : State) (c : Coll) : State :=
  let e := s.group g
  if c.carried || c.posted || !postingsFree e then s
  else if !dSpp c.desc then sendPosting s g c.cid none
  else match scaleFor e (dSpcid c.desc) with
    | some x => sendPosting s g c.cid (some x)
    | none =>
      if scaleStale e (dSpcid c.desc) then
        raise (modColl s g c.cid fun c => { c with posted := true }) (staleEvent s g (dSpcid c.desc))
      else s

/-- Every posting of a group that may now go to the cells goes. -/
def postHeld (s : State) (g : Nat) : State := (s.group g).colls.foldl (postDie g) s

/-- Collectives that have finished leave, a held handshake may be adopted (R201), and postings that waited go to the cells. -/
def sweep (s : State) (g : Nat) : State := postHeld (peersTry (sweepColls g (s.group g).colls.length s) g) g

/-- Core k's part in a direction has ended. -/
def partEnd (s : State) (k g : Nat) (cid : BitVec 32) (pull : Bool) : State :=
  sweep (modColl s g cid fun c => { c with coresLeft := c.coresLeft.filter fun x => x != 2 * k + b2n pull }) g

/-- End the running transfer of a direction with a reason (R173, R176, R177); its waiter sleeps on where `quiet` (R185). -/
def endRunWith (quiet : Bool) (s : State) (k : Nat) (pull : Bool) (r : Reason) : State :=
  let p := s.port k
  match (p.dir pull).run with
  | none => s
  | some x =>
    let cnt := BitVec.ofNat 32 (p.dir pull).cnt
    let t := s.modPort k fun p =>
      let p1 := p.modDir pull fun t =>
        startQueued { leaveStream x t with err := if r = .none then t.err else r, ev := t.ev || decide (r ≠ .none) }
      fencePush p1
    let t1 := match (t.port k).wait with
      | some w => if !quiet && w.mode == (if pull then .pull else .push) && w.cid == x.cid && w.gid == some x.gid then
          wakePlain t k r.wait cnt else t
      | none => t
    let t2 := if x.waiting then t1 else partEnd t1 k x.gid x.cid pull
    judgeFence t2 k

/-- End the running transfer of a direction with a reason. -/
def endRun (s : State) (k : Nat) (pull : Bool) (r : Reason) : State := endRunWith false s k pull r

/-- End the queued transfer of a direction with a reason. -/
def endQue (s : State) (k : Nat) (pull : Bool) (r : Reason) : State :=
  match ((s.port k).dir pull).que with
  | none => s
  | some x =>
    let t := s.modPort k fun p => fencePush (p.modDir pull fun t => { t with que := none, err := r, ev := true })
    judgeFence (if x.waiting then t else partEnd t k x.gid x.cid pull) k

/-- Refuse a transfer as it is written (R173). -/
def refuseXfer (s : State) (k : Nat) (pull : Bool) (r : Reason) : State :=
  s.modPort k fun p => p.modDir pull fun t => { t with err := r, ev := true }

/-- The transfer's collective is the oldest of its group on this chip (R270). -/
def isFirst (s : State) (g : Nat) (cid : BitVec 32) : Bool :=
  match (s.group g).colls with | c :: _ => c.cid == cid | [] => true

/-- The end of a pull and its W_OK may be signalled: every earlier collective has signalled its completions, and no rewrite is still to
be acknowledged (R185, R270). -/
def pullMay (s : State) (x : Xfer) : Bool := isFirst s x.gid x.cid && !x.ackNeed.any fun e => e.2.2.2

/-- A PUSH or PULL wait ends when its target is reached (R185, R270). -/
def judgeTarget (s : State) (k : Nat) (pull : Bool) : State :=
  let p := s.port k
  match p.wait with
  | some w =>
    if w.mode == (if pull then .pull else .push) && decide (w.target ≠ 0) && decide (w.target ≤ (p.dir pull).cnt)
        && (match (p.dir pull).run with | some x => x.cid == w.cid && w.gid == some x.gid && (!pull || pullMay s x) | none => false)
    then wakePlain s k .ok (BitVec.ofNat 32 (p.dir pull).cnt) else s
  | none => s

/-- A result or reason of a scalar is present: V rises and a SCALAR waiter wakes (R181, R185). -/
def endScalar (s : State) (k : Nat) (res : ScalRes) : State :=
  let t0 := s.modPort k fun p => { p with scal := none, scalRes := { res with v := true } }
  let t := match (s.port k).scal with
    | some x => if x.waiting then t0 else partEnd (partEnd t0 k x.gid x.cid false) k x.gid x.cid true
    | none => t0
  match (t.port k).wait with
  | some w => if w.mode = .scalar then wakePlain t k res.err.wait 0 else t
  | none => t

/-- End a scalar by a reason. -/
def endScalarBy (s : State) (k : Nat) (r : Reason) : State :=
  if (s.port k).scal.isSome then endScalar s k { err := r, ev := true } else s

/-! ## Checks against the posting (R173, Table 6-9) -/

/-- NOTMEMBER and EPOCH, the checks that need no posting. -/
def checkGroup (s : State) (k g : Nat) (cid : BitVec 32) : Option Reason :=
  let p := s.port k
  let e := s.group g
  if !p.tv || !bit e.cores k || e.tid != p.tid || e.st == .free then some .notmember
  else if e.st != .enabled && !(e.st == .draining && (collOf e cid).isSome) then some .epoch
  else none

/-- The port holds a transfer, or a scalar, of a posting that has not yet reached the cell. -/
def heldFor (p : CorePort) (g : Nat) (cid : BitVec 32) (pull : Bool) : Bool :=
  ((p.dir pull).run.toList ++ (p.dir pull).que.toList).any (fun x => x.waiting && x.gid == g && x.cid == cid)
  || p.scal.any fun x => x.waiting && x.gid == g && x.cid == cid

/-- ORDER: an earlier posting with a part for this core has no transfer of it yet, admitted or held for its posting. -/
def checkOrder (s : State) (k g : Nat) (c : Coll) (pull : Bool) : Bool :=
  (s.group g).colls.any fun e =>
    decide (e.order < c.order) && (if pull then (pullCount s (s.group g) e.desc k).isSome else (pushCount s (s.group g) e.desc k).isSome)
    && !(s.port k).posted.contains (g, e.cid, pull) && !heldFor (s.port k) g e.cid pull

/-- The weight is in the push source format (R113, R180). -/
def weightOk (ctx : BitVec 128) (w : BitVec 32) : Bool := ctxSfmt ctx == fmtFP32 || fld w 16 16 == 0

/-- ORDER, LENGTH, FORMAT and CONTEXT of a stream transfer. -/
def checkPosted (s : State) (k : Nat) (pull : Bool) (x : Xfer) (c : Coll) : Option Reason :=
  let g := s.group x.gid
  if checkOrder s k x.gid c pull then some .order
  else if (if pull then pullCount s g c.desc k else pushCount s g c.desc k).getD 0 != x.nelem then some .length
  else if pull then
    (if ctxSfmt x.ctx != wireFmt c.desc || !pullPair (pairCh c) (ctxSfmt x.ctx) (ctxDfmt x.ctx) then some .format
     else if !ctxFieldsOk x.ctx then some .context else none)
  else
    (if ctxDfmt x.ctx != wireFmt c.desc || !pushPair (pairCh c) (ctxSfmt x.ctx) (ctxDfmt x.ctx)
        || (c.dfltS && ctxSfmt x.ctx != fmtFP16) || (dOp c.desc == opWSUM && !weightOk x.ctx x.weight) then some .format
     else if !ctxFieldsOk x.ctx then some .context else none)

/-- The posting as the cell of core k holds it (R173, R201). -/
def postingAt (s : State) (k g : Nat) (cid : BitVec 32) : Option Coll :=
  match collOf (s.group g) cid with
  | some c => if c.cellsAt.contains (cellOf k) then some c else none
  | none => none

/-- The posting gives core k's scalar an element to send, or a result to convert: a BARRIER has neither (R181). -/
def scalarPushes (s : State) (k : Nat) (x : Scal) (c : Coll) : Bool :=
  dColl c.desc != cBARRIER && (pushCount s (s.group x.gid) c.desc k).isSome
def scalarPulls (s : State) (k : Nat) (x : Scal) (c : Coll) : Bool :=
  dColl c.desc != cBARRIER && (pullCount s (s.group x.gid) c.desc k).isSome

/-- A scalar against its posting, in the order of Table 6-9: ALIGN of an FP16 VALUE, NOTMEMBER and EPOCH, ORDER in each
direction it stands for, LENGTH, FORMAT, CONTEXT (R181). A context is judged where it converts (DEDUCED, log entry 15). -/
def checkScalar (s : State) (k : Nat) (x : Scal) (c : Coll) : Option Reason :=
  let g := s.group x.gid
  if scalarPushes s k x c && ctxSfmt x.ctxPush == fmtFP16 && fld x.value 16 16 != 0 then some .align
  else match checkGroup s k x.gid x.cid with
    | some r => some r
    | none =>
      if ((pushCount s g c.desc k).isSome && checkOrder s k x.gid c false)
          || ((pullCount s g c.desc k).isSome && checkOrder s k x.gid c true) then some .order
      else if !scalarOk c.desc || ((pushCount s g c.desc k).isNone && (pullCount s g c.desc k).isNone) then some .length
      else if scalarPushes s k x c && (!((ctxSfmt x.ctxPush == fmtFP32 || ctxSfmt x.ctxPush == fmtFP16)
          && ctxDfmt x.ctxPush == fmtFP32) || (dOp c.desc == opWSUM && !weightOk x.ctxPush x.weight)) then some .format
      else if scalarPulls s k x c && !(ctxSfmt x.ctxPull == fmtFP32 && (ctxDfmt x.ctxPull == fmtFP32 || ctxDfmt x.ctxPull == fmtFP16))
        then some .format
      else if (scalarPushes s k x c && !ctxFieldsOk x.ctxPush) || (scalarPulls s k x c && !ctxFieldsOk x.ctxPull) then some .context
      else none

/-- Record that core k has joined a part of a collective (ORDER). -/
def notePosted (s : State) (k g : Nat) (cid : BitVec 32) (pull : Bool) : State :=
  s.modPort k fun p => { p with posted := p.posted ++ [(g, cid, pull)] }

/-- Chunks that `n` elements of a collective take. -/
def chunksOf (c : Coll) (n : Nat) : Nat := ceilDiv n (chunkElems (frameFmt c))

/-- Take the checked transfer into the running or queued place. -/
def holdXfer (s : State) (k : Nat) (pull : Bool) (x : Xfer) : State :=
  s.modPort k fun p => p.modDir pull fun t => if t.run.isNone then startStream x t else { t with que := some x }

/-- Pulls and pushes held: running, queued and, for pulls, open (R173, R178). -/
def heldCount (t : Stream) : Nat := b2n t.run.isSome + b2n t.que.isSome + t.opened.length

/-- Post a push or pull: refused with the first failing reason, or held; a CID not yet posted waits (R173). The reasons that need no
posting, FULL, ALIGN, NOTMEMBER and EPOCH, are judged at the write of such a transfer too (log entry 110). -/
def postXfer (s : State) (k : Nat) (pull : Bool) (x : Xfer) (align : Bool) : State :=
  if 2 ≤ heldCount ((s.port k).dir pull) then refuseXfer s k pull .full
  else if align then refuseXfer s k pull .align
  else match checkGroup s k x.gid x.cid with
    | some r => refuseXfer s k pull r
    | none =>
      match postingAt s k x.gid x.cid with
      | none => holdXfer s k pull { x with waiting := true }
      | some c =>
        match checkPosted s k pull x c with
        | some r => refuseXfer s k pull r
        | none => holdXfer (notePosted s k x.gid x.cid pull) k pull { x with nchunk := chunksOf c x.nelem }

/-- A transfer that waited for its posting: refused, or no longer waiting. -/
def admitXfer (c : Coll) (s : State) (k : Nat) (pull inQue : Bool) (x : Xfer) : State :=
  if x.waiting && x.cid == c.cid && x.gid == dGid c.desc then
    match checkGroup s k x.gid x.cid with
    | some r => if inQue then endQue s k pull r else endRun s k pull r
    | none =>
      match checkPosted s k pull x c with
      | some r => if inQue then endQue s k pull r else endRun s k pull r
      | none =>
        (notePosted s k x.gid x.cid pull).modPort k fun p => p.modDir pull fun t =>
          let y := { x with waiting := false, nchunk := chunksOf c x.nelem }
          if inQue then { t with que := some y } else clearStream { t with run := some y }
  else s

/-- The posting reaches core k's cell: what waited for it is checked (R173). -/
def admitCore (c : Coll) (s : State) (k : Nat) : State :=
  let s1 := match (s.port k).push.que with | some x => admitXfer c s k false true x | none => s
  let s2 := match (s1.port k).push.run with | some x => admitXfer c s1 k false false x | none => s1
  let s3 := match (s2.port k).pull.que with | some x => admitXfer c s2 k true true x | none => s2
  let s4 := match (s3.port k).pull.run with | some x => admitXfer c s3 k true false x | none => s3
  match (s4.port k).scal with
  | some x =>
    if x.waiting && x.cid == c.cid && x.gid == dGid c.desc then
      match checkScalar s4 k x c with
      | some r => endScalarBy s4 k r
      | none =>
        let g := s4.group x.gid
        let t := if (pushCount s4 g c.desc k).isSome then notePosted s4 k x.gid x.cid false else s4
        let t1 := if (pullCount s4 g c.desc k).isSome then notePosted t k x.gid x.cid true else t
        t1.modPort k fun p => { p with scal := some { x with waiting := false } }
    else s4
  | none => s4

/-! ## Ends by the group -/

/-- End what satisfies a condition on group and CID at one port, by a reason. -/
def endPort (r : Reason) (q : Nat → BitVec 32 → Bool) (s : State) (k : Nat) : State :=
  let hit (x : Option Xfer) : Bool := match x with | some x => q x.gid x.cid | none => false
  let s1 := if hit (s.port k).push.que then endQue s k false r else s
  let s2 := if hit (s1.port k).push.run then endRun s1 k false r else s1
  let s3 := if hit (s2.port k).pull.que then endQue s2 k true r else s2
  let s4 := if hit (s3.port k).pull.run then endRun s3 k true r else s3
  let s5 := s4.modPort k fun p => { p with
    pull := { p.pull with opened := p.pull.opened.filter (fun x => !q x.gid x.cid) }
    posted := p.posted.filter (fun e => !q e.1 e.2.1) }
  match (s5.port k).scal with
  | some x => if q x.gid x.cid then endScalarBy s5 k r else s5
  | none => s5

/-- Numbers of the ports listed. -/
def portKeys (s : State) : List Nat := s.ports.map (·.1)

/-- End every transfer and scalar of a group with a reason (R305). -/
def endGroupXfers (s : State) (g : Nat) (r : Reason) : State :=
  (portKeys s).foldl (endPort r (fun x _ => x == g)) s

/-- At a GROUP_DISABLE, transfers waiting for a posting not accepted before it end with EPOCH (R173). -/
def endWaiting (s : State) (g : Nat) : State :=
  (portKeys s).foldl (fun t k =>
    let un (x : Option Xfer) : Bool := match x with
      | some x => x.waiting && x.gid == g && (collOf (t.group g) x.cid).isNone
      | none => false
    let t1 := if un (t.port k).push.que then endQue t k false .epoch else t
    let t2 := if un (t1.port k).push.run then endRun t1 k false .epoch else t1
    let t3 := if un (t2.port k).pull.que then endQue t2 k true .epoch else t2
    let t4 := if un (t3.port k).pull.run then endRun t3 k true .epoch else t3
    match (t4.port k).scal with
    | some x => if x.waiting && x.gid == g && (collOf (t4.group g) x.cid).isNone then endScalarBy t4 k .epoch else t4
    | none => t4) s

end Sys2Proof.Machine
end

