-- ==== Sys2Proof/Machine/PortData.lean ====
section
/-! DEFINITION. Core port data (06): reads of a pushed chunk and its conversion, the results handed to a pull, and their ends. -/
namespace Sys2Proof.Machine

/-! ## Pushed chunks (R174 to R176, R180) -/

/-- The unit exponent that the posting gives (R118). -/
def collS (c : Coll) : Int := c.s.getD 0

/-- The context with S taken from the posting (R118, R172). -/
def withS (x : BitVec 128) (c : Coll) : BitVec 128 := setFld x 8 9 (uns 9 (collS c))

/-- Elements of chunk `j` of a transfer of `n` elements in chunks of `e` (R174). -/
def chunkLen (e n j : Nat) : Nat := min e (n - j * e)

/-- The wire elements of a format as operands of a combine (R108). -/
def wireOperands (f n : Nat) (bytes : List Byte) : List Operand :=
  (List.range n).map fun i =>
    if f == fmtI80 then .int (sfld (BitVec.ofNat 80 (leAt bytes (16 * i) 10)) 0 80)
    else .part (decodeFp (if f == fmtFP16 then fp16 else fp32) (leAt bytes (elemBytes f * i) (elemBytes f)))

/-- What a core supplies for one chunk: operands, conversion flags, flags of terms, positions of encode_i80. -/
structure Supply where
  ops : List Operand
  cvf : BitVec 8 := 0
  afl : BitVec 7 := 0
  sw : BitVec 64 := 0
  deriving DecidableEq, Repr

/-- The elements of a source in a WSUM: exact products with the weight, no push conversion (R114, R180). -/
def supplyTerms (ctx : BitVec 128) (weight : BitVec 32) (n : Nat) (bytes : List Byte) : Supply :=
  let f := if ctxSfmt ctx == fmtFP16 then fp16 else fp32
  let b := elemBytes (ctxSfmt ctx)
  let w := decodeFp f (if ctxSfmt ctx == fmtFP16 then fld weight 0 16 else weight.toNat)
  let ts := (List.range n).map fun i => mulTerm w (decodeFp f (leAt bytes (b * i) b))
  { ops := ts.map fun t => .term t.1, afl := ts.foldl (fun a t => a ||| t.2) 0 }

/-- The scale bound of R120 in place of each element. -/
def boundOperands (l : List Operand) : List Operand := l.map fun o => .part (scaleBound (opdVal o))

/-- The elements of a source as the cell takes them (R96, R117, R120, R180). -/
def supplyOf (c : Coll) (ctx : BitVec 128) (weight : BitVec 32) (n : Nat) (bytes : List Byte) : Supply :=
  if dOp c.desc == opWSUM && dColl c.desc != cSCALEPASS then supplyTerms ctx weight n bytes
  else
    let r := convert (withS ctx c) n 0 0 bytes
    let os := wireOperands (wireFmt c.desc) n r.bytes
    { ops := if dColl c.desc == cSCALEPASS then boundOperands os else os, cvf := r.cvf, sw := r.sw }

/-- Put what a core supplies into its slot of the cell. -/
def fillSlot (s : State) (k ch : Nat) (y : Supply) : State :=
  s.modNchan (.cell (cellOf k)) ch false fun n =>
    { n with slots := tabMod {} n.slots (k % 4) fun x =>
        { x with ops := y.ops, cvf := y.cvf, afl := y.afl, sw := y.sw, ready := true } }

/-- The running push of core k and its posting, once admitted. -/
def pushOf (s : State) (k : Nat) : Option (Xfer × Coll) :=
  match (s.port k).push.run with
  | some x => if x.waiting then none else (collOf (s.group x.gid) x.cid).map fun c => (x, c)
  | none => none

/-- Elements of the chunk in progress of a push. -/
def pushLen (x : Xfer) (c : Coll) : Nat := chunkLen (chunkElems (frameFmt c)) x.nelem x.cur

/-- 16-byte beats of the chunk in progress of a push. -/
def pushBeats (x : Xfer) (c : Coll) : Nat := ceilDiv (pushLen x c * elemBytes (ctxSfmt x.ctx)) 16

/-- Local address of beat `i` of the chunk in progress of a push (R174); cp_rd_addr carries its bits [31:4] (R168). -/
def pushAddr (x : Xfer) (c : Coll) (i : Nat) : Nat :=
  (x.laddr + x.cur * chunkElems (frameFmt c) * elemBytes (ctxSfmt x.ctx) + 16 * i) % 2 ^ 32

/-- CSEQ of chunk `j` of core k's push. -/
def pushSeq (s : State) (k : Nat) (c : Coll) (j : Nat) : Nat :=
  if isCopyColl c.desc then pushChunk0 (s.group (dGid c.desc)) c k + j else j

/-- The cell forms the chunk in progress of core k's push, and its slot still waits for the elements. -/
def pushOpen (s : State) (k : Nat) (x : Xfer) (c : Coll) : Bool :=
  let n := s.nchan (.cell (cellOf k)) c.ch false
  match n.out with
  | some o => o.hdr.gid == x.gid && o.hdr.cid == x.cid && o.hdr.cseq == BitVec.ofNat 32 (pushSeq s k c x.cur)
      && !(tabGet {} n.slots (k % 4)).ready
  | none => false

/-- Change the running transfer of a direction. -/
def modRun (s : State) (k : Nat) (pull : Bool) (f : Xfer → Xfer) : State :=
  s.modPort k fun p => p.modDir pull fun t => { t with run := t.run.map f }

/-- Request the beats of the chunk in progress, up to 8 outstanding (R175). -/
def issueReads (s : State) (k : Nat) : State :=
  match pushOf s k with
  | none => s
  | some (x, c) =>
    if !pushOpen s k x c then s
    else
      let n := min (pushBeats x c - x.issued) (8 - (s.port k).rdReq.length)
      let t := s.modPort k fun p => { p with rdReq := p.rdReq ++ (List.range n).map fun i =>
        { seq := x.seq, addr := pushAddr x c (x.issued + i), gid := x.gid, cid := x.cid, chunk := pushSeq s k c x.cur } }
      modRun t k false fun y => { y with issued := y.issued + n }

/-- F_CORE_MEM: the core, the CID and the chunk, read or write (R179). -/
def coreMemEvent (s : State) (k g : Nat) (cid : BitVec 32) (chunk : Nat) (wr : Bool) : Event :=
  { ((mkEv .coreMem 0 k).onGroup s g).onChunk cid (BitVec.ofNat 32 chunk) with detail := BitVec.ofNat 16 (b2n wr) }

/-- A beat of the running push arrives; the last of the chunk completes the slot (R96, R175). -/
def takeBeat (s : State) (k : Nat) (data : BitVec 128) : State :=
  match pushOf s k with
  | none => s
  | some (x, c) =>
    let buf := x.buf ++ leBytes 16 data.toNat
    if pushBeats x c * 16 ≤ buf.length then
      let t := fillSlot s k c.ch (supplyOf c x.ctx x.weight (pushLen x c) buf)
      modRun t k false fun y => { y with buf := [], issued := 0, cur := y.cur + 1 }
    else issueReads (modRun s k false fun y => { y with buf := buf }) k

/-- A read in error: RDERR and F_CORE_MEM, and the push that it belongs to, if it still runs, ends with MEM (R179). -/
def readError (s : State) (k : Nat) (q : RdReq) : State :=
  let t := s.modPort k fun p => { p with errRd := true }
  let mine : Bool := match (t.port k).push.run with | some x => x.seq == q.seq | none => false
  raise (if mine then endRun t k false .mem else t) (coreMemEvent s k q.gid q.cid q.chunk false)

/-- cp_rd_valid: the oldest read outstanding returns (R175, R179). The beats of a push that has ended, and those that a recomputation
has made stale, are discarded, and make room for others. -/
def rdData (s : State) (k : Nat) (data : BitVec 128) (err : Bool) : State :=
  match (s.port k).rdReq with
  | [] => s
  | q :: r =>
    let t := s.modPort k fun p => { p with rdReq := r }
    if err then readError t k q
    else match (t.port k).push.run with
      | some x => if x.seq = q.seq ∧ q.stale = false then takeBeat t k data else issueReads t k
      | none => t

/-! ## Ends of pushed chunks (R176) -/

/-- Core k's running push, once admitted, belongs to a collective. -/
def pushIs (s : State) (k g : Nat) (cid : BitVec 32) : Bool :=
  match (s.port k).push.run with | some x => !x.waiting && x.gid == g && x.cid == cid | none => false

/-- A chunk of core k's running push has reached HELD at the cell: HELDN rises, and the push ends with its last chunk. -/
def pushHeld (s : State) (k : Nat) : State :=
  match (s.port k).push.run with
  | none => s
  | some x =>
    let t := s.modPort k fun p => { p with push := { p.push with cnt := p.push.cnt + 1, run := p.push.run.map fun y => { y with prog := y.prog + 1 } } }
    if x.nchunk ≤ x.prog + 1 then endRun t k false .none else judgeTarget t k false

/-! ## Results handed to a pull (R174, R177, R178) -/

/-- The bytes of a result chunk cut into beats at an address, with the bytes outside it left out (R174); cp_wr_addr carries bits [31:4]
of each (R168). -/
def pullBeats (seq addr : Nat) (bytes : List Byte) : List (Nat × Nat × List Byte) :=
  (List.range (ceilDiv bytes.length 16)).map fun i => (seq, (addr + 16 * i) % 2 ^ 32, (bytes.drop (16 * i)).take 16)

/-- Status word of a pulled chunk: the chunk's own with the conversion flags of the pull (R100). -/
def pullStatus (sw : BitVec 64) (cvf : BitVec 8) : BitVec 64 := addFlags sw cvf 0

/-- Convert a result chunk for a pull: bytes in core memory and the status word (R97, R126). -/
def pullConvert (c : Coll) (ctx : BitVec 128) (n : Nat) (f : Frame) : List Byte × BitVec 64 :=
  let widened := frameFmt c != wireFmt c.desc && f.fmt == fmtFP32
  let ctx1 := if widened then setFld ctx 0 4 fmtFP32 else ctx
  let r := convert (withS ctx1 c) n f.status 0 f.payload
  (r.bytes.take (n * elemBytes (ctxDfmt ctx)), pullStatus f.status r.cvf)

/-- Chunk `j` of a pull is handed to the port: its beats go out on cp_wr. -/
def handChunk (s : State) (k : Nat) (c : Coll) (x : Xfer) (j : Nat) (f : Frame) (again : Bool) : State :=
  let e := chunkElems (if isPacked f.fmt then f.fmt else frameFmt c)
  let n := chunkLen e x.nelem j
  let r := pullConvert c x.ctx n f
  let bs := pullBeats x.seq (x.laddr + j * e * elemBytes (ctxDfmt x.ctx)) r.1
  let upd (y : Xfer) : Xfer := if y.seq = x.seq then { y with ackNeed := y.ackNeed ++ [(bs.length, r.2, j, again)], cur := if again then y.cur else j + 1 } else y
  s.modPort k fun p =>
    { p with wrOut := p.wrOut ++ bs,
             pull := { p.pull with run := p.pull.run.map upd, opened := p.pull.opened.map upd } }

/-- A chunk of the running pull completes: DONEN, FCHK, CP_PULL_SW (R177, Tables 6-11, 6-12). -/
def pullCount1 (sw : BitVec 64) (j : Nat) (t : Stream) : Stream :=
  let first := !t.fv && (bit sw 21 || bit sw 45)
  let sw1 : BitVec 64 := t.sw ||| pack 64 [(48, 8, fld sw 48 8), (56, 8, fld sw 56 8)]
  { t with cnt := t.cnt + 1, fv := t.fv || first, fchk := if first then j else t.fchk,
           sw := if first then sw1 ||| pack 64 [(0, 48, fld sw 0 48)] else sw1 }

/-- The pull's last chunk has completed: it ends once every earlier collective has signalled its own completions (R270), and stays open
until the commit in EARLY delivery (R177, R178). A waiter that a rewrite is still to wake sleeps on (R185). -/
def pullEnd (s : State) (k : Nat) (x : Xfer) : State :=
  if !isFirst s x.gid x.cid then s
  else
    let early := match collOf (s.group x.gid) x.cid with | some c => c.early && !x.committed | none => false
    let t := endRunWith (x.ackNeed.any fun e => e.2.2.2) s k true .none
    if early then t.modPort k fun p => { p with pull := { p.pull with opened := p.pull.opened ++ [x] } } else t

/-- What the completions of core k's running pull allow now. -/
def settlePull (g : Nat) (s : State) (k : Nat) : State :=
  match (s.port k).pull.run with
  | some x =>
    if x.waiting || x.gid != g then s
    else if x.nchunk ≤ x.prog then pullEnd s k x
    else judgeTarget s k true
  | none => s

/-- Pulls of a group that waited for an earlier collective end when it has left, in issue order (R270). -/
def settlePulls (g : Nat) : Nat → State → State
  | 0, s => s
  | n + 1, s => settlePulls g n ((portKeys s).foldl (settlePull g) s)

/-- What follows when collectives of a group may have left. -/
def settle (s : State) (g : Nat) : State := settlePulls g ((s.group g).colls.length + 1) s

/-- A rewritten chunk is acknowledged: PSN, and W_POISON to the PULL-mode waiter (R178). -/
def rewriteDone (s : State) (k : Nat) (x : Xfer) (j : Nat) : State :=
  let t := s.modPort k fun p => { p with pull := { p.pull with psn := true } }
  match (t.port k).wait with
  | some w => if w.mode == .pull && w.cid == x.cid && w.gid == some x.gid then wakePlain t k .poison (BitVec.ofNat 32 j) else t
  | none => t

/-- The oldest chunk handed to a pull has had its last acknowledgement. -/
def chunkDone (s : State) (k : Nat) (x : Xfer) : State :=
  match x.ackNeed with
  | (0, sw, j, again) :: r =>
    let drop (y : Xfer) : Xfer := if y.seq = x.seq then { y with ackNeed := r } else y
    let t := s.modPort k fun p => { p with pull := { p.pull with run := p.pull.run.map drop, opened := p.pull.opened.map drop } }
    if again then rewriteDone t k x j
    else
      let y := { x with ackNeed := r, prog := x.prog + 1 }
      let t1 := t.modPort k fun p => { p with pull := pullCount1 sw j { p.pull with run := some y } }
      if x.nchunk ≤ x.prog + 1 then pullEnd t1 k y else judgeTarget t1 k true
  | _ => s

/-- One beat of a pull is acknowledged. -/
def ackBeat (s : State) (k seq : Nat) : State :=
  let dec (y : Xfer) : Xfer :=
    if y.seq = seq then { y with ackNeed := match y.ackNeed with | (n, e) :: r => (n - 1, e) :: r | [] => [] } else y
  let t := s.modPort k fun p => { p with pull := { p.pull with run := p.pull.run.map dec, opened := p.pull.opened.map dec } }
  match (((t.port k).pull.run.toList ++ (t.port k).pull.opened).find? fun y => y.seq == seq) with
  | some x => chunkDone t k x
  | none => t

/-- A write in error ends the pull with MEM (R179). -/
def writeError (s : State) (k seq : Nat) : State :=
  let t := s.modPort k fun p => { p with errWr := true }
  match (((t.port k).pull.run.toList ++ (t.port k).pull.opened).find? fun y => y.seq == seq) with
  | none => t
  | some x =>
    let c0 := match collOf (s.group x.gid) x.cid with | some c => pullChunk0 (s.group x.gid) c k | none => 0
    let j := match x.ackNeed with | (_, _, j, _) :: _ => j | [] => x.prog
    let e := coreMemEvent t k x.gid x.cid (c0 + j) true
    let t1 := if (t.port k).pull.run == some x then endRun t k true .mem
      else t.modPort k fun p => { p with pull := { p.pull with err := .mem, ev := true, opened := p.pull.opened.filter fun y => y.seq != seq } }
    raise t1 e

/-- The PULLVIS fence counts an acknowledgement (R187). -/
def fenceAck (p : CorePort) : CorePort :=
  { p with wrAcc := p.wrAcc - 1, fPullvis := match p.fPullvis with | some n => if n ≤ 1 then none else some (n - 1) | none => none }

/-- cp_wr_ack: the oldest write accepted is visible, or failed (R177, R179, R187). -/
def wrAck (s : State) (k : Nat) (err : Bool) : State :=
  match (s.port k).wrOut with
  | [] => s
  | q :: r =>
    let t := s.modPort k fun p => fenceAck { p with wrOut := r }
    let g := match (((t.port k).pull.run.toList ++ (t.port k).pull.opened).find? fun y => y.seq == q.1) with | some x => x.gid | none => 0
    settle (judgeFence (if err then writeError t k q.1 else ackBeat t k q.1) k) g

/-! ## Scalars (R181) -/

/-- The result of a scalar: VALUE in the pull format, S for a SCALEPASS, the status word of the chunk (R181, R253). -/
def scalarResult (c : Coll) (x : Scal) (f : Frame) : ScalRes :=
  if dColl c.desc == cBARRIER then { sw := f.status }
  else
    let r := convert x.ctxPull 1 f.status 0 f.payload
    let v := BitVec.ofNat 32 (leAt r.bytes 0 (elemBytes (ctxDfmt x.ctxPull)))
    let sp := dColl c.desc == cSCALEPASS
    { value := v, sv := sp, s := if sp then BitVec.ofNat 9 (uns 9 (scaleOf (BitVec.ofNat 32 (leAt f.payload 0 4)))) else 0,
      sw := pullStatus f.status r.cvf }

/-- The element that a scalar sends: FP32 +0 for a BARRIER (R181, R253). -/
def scalarSupply (c : Coll) (x : Scal) : Supply :=
  if dColl c.desc == cBARRIER then { ops := [.part (.zero false)] }
  else supplyOf c x.ctxPush x.weight 1 (leBytes 4 x.value.toNat)

end Sys2Proof.Machine
end

