-- ==== Sys2Proof/Machine/CoreCmds.lean ====
section
/-! DEFINITION. Commands of the core ports (R168 to R188), CP_ registers, transfers, operations and waits. -/
namespace Sys2Proof.Machine

/-- Core k's port takes accesses: the core is present and no reset is in progress (R168, R169). -/
def portLive (s : State) (k : Nat) : Bool := s.present k && s.boot.rst.isNone

/-! ## The register window (Tables 6-2 to 6-24) -/

/-- CP_PUSH_STAT and the common part of CP_PULL_STAT. -/
def streamStat (t : Stream) (opened : Bool) : List (Nat × Nat × Nat) :=
  [(0, 1, b2n (t.run.isSome || opened)), (1, 1, b2n t.que.isSome), (2, 4, t.err.code), (6, 1, b2n t.ev), (8, 21, t.cnt)]

/-- CP_FENCE. -/
def fenceWord (p : CorePort) : BitVec 64 :=
  pack 64 [(0, 1, b2n p.fPullvis.isSome), (1, 1, b2n p.fSync), (2, 1, b2n p.fPush.isSome)]

/-- The word at 0x090 of CP_SCALAR_RES. -/
def scalWord (r : ScalRes) : BitVec 64 :=
  pack 64 [(0, 32, r.value.toNat), (32, 9, r.s.toNat), (41, 1, b2n r.sv), (42, 4, r.err.code), (46, 1, b2n r.ev), (63, 1, b2n r.v)]

/-- CP_WRES. -/
def wresWord (w : WRes) : BitVec 64 :=
  pack 64 [(0, 3, w.code.code), (3, 1, b2n w.v), (4, 3, w.mode.code), (7, 2, w.st.code), (16, 16, w.gen.toNat), (32, 32, w.val.toNat)]

/-- CP_CMD_STAT. -/
def cmdStat (p : CorePort) : BitVec 64 :=
  pack 64 [(0, 4, p.syncSt.code), (4, 1, b2n p.sync.isSome), (5, 1, b2n p.rv), (8, 4, p.caneSt.code), (12, 4, p.waitSt.code)]

/-- The word read at an offset; write-only and reserved offsets read 0 (Table 6-2, R9). -/
def cpRead (p : CorePort) (k off : Nat) : BitVec 64 :=
  if off = 0x000 then pack 64 [(0, 13, k), (16, 16, 0x0A02), (32, 6, p.tid), (38, 1, b2n p.tv), (40, 16, p.tag)]
  else if off = 0x010 then BitVec.ofNat 64 (fld p.ctxPush 0 64)
  else if off = 0x018 then BitVec.ofNat 64 (fld p.ctxPush 64 64)
  else if off = 0x020 then BitVec.ofNat 64 (fld p.ctxPull 0 64)
  else if off = 0x028 then BitVec.ofNat 64 (fld p.ctxPull 64 64)
  else if off = 0x030 then p.weight
  else if off = 0x050 then pack 64 (streamStat p.push false ++ [(32, 32, p.push.cid.toNat)])
  else if off = 0x070 then pack 64 (streamStat p.pull (!p.pull.opened.isEmpty)
    ++ [(7, 1, b2n p.pull.psn), (29, 21, p.pull.fchk), (50, 1, b2n p.pull.fv)])
  else if off = 0x078 then p.pull.sw
  else if off = 0x090 then scalWord p.scalRes
  else if off = 0x098 then p.scalRes.sw
  else if off = 0x0B0 then cmdStat p
  else if 0x0C0 ≤ off && off < 0x0E0 then BitVec.ofNat 64 (fld p.sorec (8 * (off - 0x0C0)) 64)
  else if off = 0x100 then wresWord p.wres
  else if off = 0x108 then fenceWord p
  else if off = 0x110 then
    pack 64 [(0, 1, b2n p.errAddr), (1, 1, b2n p.errWro), (2, 1, b2n p.errRd), (3, 1, b2n p.errWr), (4, 1, b2n p.errSc)]
  else 0

/-- Offsets of Table 6-2 at which a register stands. -/
def cpDefined (off : Nat) : Bool :=
  off < 0x008 || (0x010 ≤ off && off < 0x038) || (0x040 ≤ off && off < 0x058) || (0x060 ≤ off && off < 0x0B8) || (0x0C0 ≤ off && off < 0x0E8) ||
  (0x0F0 ≤ off && off < 0x118)

/-- Registers whose fields are all RO (R170). -/
def cpReadOnly (off : Nat) : Bool := off < 0x008 || off = 0x078 || off = 0x0B0 || (0x0C0 ≤ off && off < 0x0E0)

/-- Offsets whose write has an action of its own, and reads that clear: commands of their own. -/
def cpAction (we : Bool) (off : Nat) : Bool :=
  if we then off = 0x048 || off = 0x068 || off = 0x088 || off = 0x0A8 || off = 0x0E0 || off = 0x0F8 || off = 0x108
  else off = 0x090 || off = 0x100

/-- Write one half of a 16-byte register. -/
def setHalf (x : BitVec 128) (hi : Bool) (d : BitVec 64) : BitVec 128 := setFld x (if hi then 64 else 0) 64 d.toNat

/-- A write to a register without an action (R9, R169, R170). -/
def cpWrite (p : CorePort) (off : Nat) (d : BitVec 64) : CorePort :=
  if !cpDefined off then { p with errAddr := true }
  else if cpReadOnly off then { p with errWro := true }
  else if off = 0x010 || off = 0x018 then { p with ctxPush := setHalf p.ctxPush (off = 0x018) d }
  else if off = 0x020 || off = 0x028 then { p with ctxPull := setHalf p.ctxPull (off = 0x028) d }
  else if off = 0x030 then { p with weight := BitVec.ofNat 64 (fld d 0 32) }
  else if off = 0x040 then { p with pushLo := d }
  else if off = 0x050 then { p with push := { p.push with ev := p.push.ev && !bit d 6 } }
  else if off = 0x060 then { p with pullLo := d }
  else if off = 0x070 then { p with pull := { p.pull with ev := p.pull.ev && !bit d 6, psn := p.pull.psn && !bit d 7 } }
  else if off = 0x080 then { p with scalLo := d }
  else if off = 0x0A0 then { p with syncLo := d }
  else if off = 0x0F0 then { p with waitLo := d }
  else if off = 0x110 then
    { p with errAddr := p.errAddr && !bit d 0, errWro := p.errWro && !bit d 1, errRd := p.errRd && !bit d 2,
             errWr := p.errWr && !bit d 3, errSc := p.errSc && !bit d 4 }
  else p

/-- An access to a register with no action of its own (R169, R170). -/
def regAccess (s : State) (k : Nat) (we : Bool) (off : Nat) (d : BitVec 64) : State :=
  let o := off / 8 % 128 * 8
  if !portLive s k || cpAction we o then s
  else if we then s.modPort k fun p => cpWrite p o d
  else s.modPort k fun p => { p with rdata := cpRead p k o, errAddr := p.errAddr || !cpDefined o }

/-- CP_REG_WRITE (R169, R170). -/
def execCpRegWrite (core : Nat) (we : Bool) (off : Nat) (data : BitVec 64) (s : State) : Host.Outcome State Fault Refusal :=
  answer (.cpRegWrite core we off data) (regAccess s core we off data)

/-! ## Transfers -/

/-- The transfer that the words written describe (Tables 6-7, 6-8). -/
def xferOf (s : State) (k : Nat) (pull : Bool) (hi : BitVec 64) : Xfer :=
  let p := s.port k
  let lo := if pull then p.pullLo else p.pushLo
  { gid := fld lo 0 12, cid := BitVec.ofNat 32 (fld lo 16 32), laddr := fld hi 0 32, nelem := fld hi 32 28,
    ctx := if pull then p.ctxPull else p.ctxPush, weight := BitVec.ofNat 32 (fld p.weight 0 32), since := s.tb, seq := p.nseq }

/-- ALIGN: an address that is no multiple of 16, no elements, or a reserved bit at 1 (Table 6-9, R172). -/
def xferAlign (s : State) (k : Nat) (pull : Bool) (hi : BitVec 64) : Bool :=
  let x := xferOf s k pull hi
  let lo := if pull then (s.port k).pullLo else (s.port k).pushLo
  x.laddr % 16 != 0 || x.nelem == 0 || !zeros lo [(12, 4), (48, 16)] || !zeros hi [(60, 4)]

/-- Post a stream transfer from the words written (R172, R173). -/
def postStream (s : State) (k : Nat) (pull : Bool) (hi : BitVec 64) : State :=
  if !portLive s k then s
  else postXfer (s.modPort k fun q => { q with nseq := q.nseq + 1 }) k pull (xferOf s k pull hi) (xferAlign s k pull hi)

/-- CP_PUSH (R173): the highest word is accepted. -/
def execCpPush (core : Nat) (hi : BitVec 64) (s : State) : Host.Outcome State Fault Refusal :=
  answer (.cpPush core hi) (postStream s core false hi)

/-- CP_PULL (R173): the highest word is accepted. -/
def execCpPull (core : Nat) (hi : BitVec 64) (s : State) : Host.Outcome State Fault Refusal :=
  answer (.cpPull core hi) (postStream s core true hi)

/-- A scalar admitted against its posting joins it in the directions in which the posting gives a part (R181). -/
def admitScalar (s : State) (k : Nat) (x : Scal) (c : Coll) : State :=
  let g := s.group x.gid
  let t := if (pushCount s g c.desc k).isSome then notePosted s k x.gid x.cid false else s
  let t1 := if (pullCount s g c.desc k).isSome then notePosted t k x.gid x.cid true else t
  t1.modPort k fun p => { p with scal := some { x with waiting := false } }

/-- A scalar refused: the result register takes the reason (R181). -/
def refuseScalar (s : State) (k : Nat) (r : Reason) : State := endScalar s k { err := r, ev := true }

/-- The scalar that the words written describe (R181). -/
def scalOf (s : State) (k : Nat) (hi : BitVec 64) : Scal :=
  let p := s.port k
  { value := BitVec.ofNat 32 (fld p.scalLo 0 32), gid := fld p.scalLo 32 12,
    cid := BitVec.ofNat 32 (fld p.scalLo 48 16 + fld hi 0 16 * 65536), ctxPush := p.ctxPush, ctxPull := p.ctxPull,
    weight := BitVec.ofNat 32 (fld p.weight 0 32), waiting := true, since := s.tb }

/-- A reserved bit of CP_SCALAR is 1. -/
def scalAlign (s : State) (k : Nat) (hi : BitVec 64) : Bool := !zeros (s.port k).scalLo [(44, 4)] || !zeros hi [(16, 48)]

/-- Post a scalar (R181). -/
def postScalar (s : State) (k : Nat) (hi : BitVec 64) : State :=
  if !portLive s k then s
  else if (s.port k).scal.isSome then s.modPort k fun q => { q with errSc := true }
  else
    let x := scalOf s k hi
    if scalAlign s k hi then refuseScalar s k .align
    else match postingAt s k x.gid x.cid with
      | some c =>
        match checkScalar s k x c with
        | some r => refuseScalar s k r
        | none => admitScalar s k x c
      | none =>
        match checkGroup s k x.gid x.cid with
        | some r => refuseScalar s k r
        | none => s.modPort k fun q => { q with scal := some x }

/-- CP_SCALAR (R181): the highest word is accepted. -/
def execCpScalar (core : Nat) (hi : BitVec 64) (s : State) : Host.Outcome State Fault Refusal :=
  answer (.cpScalar core hi) (postScalar s core hi)

/-- A read of the low word of CP_SCALAR_RES: V is cleared (R9, R181). -/
def execScalarResRead (core : Nat) (s : State) : Host.Outcome State Fault Refusal :=
  answer (.scalarResRead core) (if portLive s core then
    s.modPort core fun p => { p with rdata := scalWord p.scalRes, scalRes := { p.scalRes with v := false } } else s)

/-- A read of CP_WRES: V is cleared (R9, R185). -/
def execWresRead (core : Nat) (s : State) : Host.Outcome State Fault Refusal :=
  answer (.wresRead core) (if portLive s core then
    s.modPort core fun p => { p with rdata := wresWord p.wres, wres := { p.wres with v := false } } else s)

/-- The oldest posting on its way to a cell arrives, and what waited for it is checked (R173). -/
def postingReach (s : State) (cell : Nat) : State :=
  match takeFirst (fun e => e.1 == cell) s.mrv.postOut with
  | none => s
  | some y =>
    let g := y.1.2.1
    let t : State := { s with mrv := { s.mrv with postOut := y.2 } }
    let t1 := modColl t g y.1.2.2 fun c =>
      { c with cellsTo := c.cellsTo.filter (· != cell), cellsAt := c.cellsAt ++ [cell] }
    match collOf (t1.group g) y.1.2.2 with
    | some c => [0, 1, 2, 3].foldl (fun u q => admitCore c u (4 * cell + q)) t1
    | none => t1

/-- POSTING_ARRIVE (R173). -/
def execPostingArrive (cell : Nat) (s : State) : Host.Outcome State Fault Refusal := answer (.postingArrive cell) (postingReach s cell)

/-- The posting of a transfer written at `since` on group `g` has not arrived within STALL (R173). -/
def nopostDue (s : State) (g since : Nat) : Bool := decide (since + (s.group g).stall * 1024 ≤ s.tb)

/-- Refuse the transfers of a direction whose posting is overdue with NOPOST (R173). -/
def nopostStream (s : State) (k : Nat) (pull : Bool) : State :=
  let due (x : Option Xfer) : Bool := match x with | some x => x.waiting && nopostDue s x.gid x.since | none => false
  let t := if due ((s.port k).dir pull).que then endQue s k pull .nopost else s
  if due ((t.port k).dir pull).run then endRun t k pull .nopost else t

/-- NOPOST_TIMEOUT (R173): kind 0 push, 1 pull, 2 scalar. -/
def execNopostTimeout (core kind : Nat) (s : State) : Host.Outcome State Fault Refusal :=
  answer (.nopostTimeout core kind)
    (if kind = 0 then nopostStream s core false
     else if kind = 1 then nopostStream s core true
     else match (s.port core).scal with
       | some x => if x.waiting && nopostDue s x.gid x.since then refuseScalar s core .nopost else s
       | none => s)

/-- CP_RD_DATA (R175, R179). -/
def execCpRdData (core : Nat) (data : BitVec 128) (err : Bool) (s : State) : Host.Outcome State Fault Refusal :=
  answer (.cpRdData core data err) (rdData s core data err)

/-- CP_WR_ACK (R177, R179). -/
def execCpWrAck (core : Nat) (err : Bool) (s : State) : Host.Outcome State Fault Refusal :=
  answer (.cpWrAck core err) (wrAck s core err)

/-! ## Sync operations (R183) -/

/-- Code of OP in CP_SYNC and UW_SLOT_OP. -/
def soOpCode : SoOpKind → Nat
  | .arrive => 0 | .signal => 1 | .reset => 2 | .read => 3

/-- Before LIMP every sync object operation returns ST_BUSY (R154). -/
def soReady (s : State) : Bool := 2 ≤ s.boot.level.code

/-- The highest word of CP_SYNC is accepted: the operation is held until its ORD condition holds (R183). -/
def syncWrite (s : State) (k : Nat) (kind : SoOpKind) (hi : BitVec 64) : State :=
  let p := s.port k
  let lo := p.syncLo
  if !portLive s k || fld lo 16 2 != soOpCode kind then s
  else if p.sync.isSome || !soReady s then s.modPort k fun q => { q with syncSt := .busy }
  else if !p.tv then s.modPort k fun q => { q with syncSt := .denied }
  else
    let h : SyncHold :=
      { kind := kind, soid := fld lo 0 15, rmt := bit lo 15, ord := fld lo 18 2, gid := fld lo 20 12, chip := fld lo 32 12,
        opnd := fld hi 0 32, before := p.nseq }
    s.modPort k fun q => { q with sync := some h, rv := if kind = .read then false else q.rv }

/-- CP_SYNC_ARRIVE (R183). -/
def execCpSyncArrive (core : Nat) (hi : BitVec 64) (s : State) : Host.Outcome State Fault Refusal :=
  answer (.cpSyncArrive core hi) (syncWrite s core .arrive hi)

/-- CP_SYNC_SIGNAL (R183). -/
def execCpSyncSignal (core : Nat) (hi : BitVec 64) (s : State) : Host.Outcome State Fault Refusal :=
  answer (.cpSyncSignal core hi) (syncWrite s core .signal hi)

/-- CP_SYNC_RESET (R183). -/
def execCpSyncReset (core : Nat) (hi : BitVec 64) (s : State) : Host.Outcome State Fault Refusal :=
  answer (.cpSyncReset core hi) (syncWrite s core .reset hi)

/-- CP_SYNC_READ (R183). -/
def execCpSyncRead (core : Nat) (hi : BitVec 64) (s : State) : Host.Outcome State Fault Refusal :=
  answer (.cpSyncRead core hi) (syncWrite s core .read hi)

/-- The ORD condition of a held operation (R183). -/
def ordHolds (p : CorePort) (h : SyncHold) : Bool :=
  (h.ord % 2 == 0 || endedBefore p.push h.before) && (h.ord < 2 || endedBefore p.pull h.before)

/-- Status with which a remote operation leaves the chip, or is refused before it does (R149, R150, R154; log entry 17). -/
def remoteStatus (s : State) (tid gid chip : Nat) (kind : SoOpKind) (n : Nat) : St :=
  let g := s.group gid
  if kind = .reset || kind = .read then .range
  else if !(s.boot.level == .full && s.boot.placed) then .busy
  else if g.st == .free || g.tid != tid then .denied
  else if chip == s.self || !g.chips.contains chip || !g.chips.contains s.self then .range
  else if kind = .arrive && (n == 0 || 65535 < n) then .range
  else .ok

/-- Send an operation to an object on another chip, and tell core `tell` when it has left (R149, R150, Table 8-7). -/
def remoteSend (s : State) (gid chip soid : Nat) (kind : SoOpKind) (n : Nat) (tell : Option Nat) : State :=
  sendCtrlTell s ckSoOp (s.group gid).gtag chip (s.group gid).tid
    [(128, 15, soid), (143, 2, soOpCode kind), (145, 16, if kind = .arrive then n else 0)] tell

/-- The held operation goes to its node or off the chip (R183); a remote one ends when its flit has left (R150). -/
def syncSend (s : State) (k : Nat) : State :=
  let p := s.port k
  match p.sync with
  | none => s
  | some h =>
    if h.sent || !ordHolds p h || s.stopped then s
    else if h.rmt then
      let st := remoteStatus s p.tid h.gid h.chip h.kind h.opnd
      let st1 := if st = .ok && !bit (s.group h.gid).cores k then .denied else st
      if st1 = .ok then remoteSend (s.modPort k fun q => { q with sync := some { h with sent := true } }) h.gid h.chip h.soid h.kind h.opnd (some k)
      else syncEnd s k st1
    else
      sendOp (s.modPort k fun q => { q with sync := some { h with sent := true } })
        { soid := h.soid, kind := h.kind, opnd := h.opnd, tid := p.tid, tag := some p.tag, caller := .core k }

/-- SYNC_ORD_MET (R183). -/
def execSyncOrdMet (core : Nat) (s : State) : Host.Outcome State Fault Refusal := answer (.syncOrdMet core) (syncSend s core)

/-! ## Cane operations (R184) -/

/-- The core may name the channel: granted to its tenant, or the boot barrier (R184, R379). -/
def caneGranted (s : State) (k cn : Nat) : Bool :=
  bootBarrier s cn || ((s.port k).tv && caneTid s cn == some (s.port k).tid)

/-- The checks of an arrival that R184 gives, in order. -/
def caneStatus (s : State) (k cn : Nat) : St :=
  let c := s.cchan cn
  if !caneGranted s k cn || !caneMember s cn k || c.lost then .denied
  else if !bootBarrier s cn && !(match c.bound with | some g => (s.group g).st == .enabled | none => false) then .conflict
  else if hasArrived c k then .conflict
  else .ok

/-- Group of a channel's wait. -/
def caneGroup (s : State) (cn : Nat) : Option Nat := if bootBarrier s cn then none else (s.cchan cn).bound

/-- ARRIVE on a Cane channel (R156, R184). -/
def caneArrive (s : State) (k : Nat) (w : BitVec 64) : State :=
  let cn := fld w 0 6
  if !portLive s k || fld w 6 2 != 0 then s
  else
    let st := caneStatus s k cn
    let t := s.modPort k fun p => { p with caneSt := st }
    if st = .ok then driveLeg t cn k else t

/-- CP_CANE_ARRIVE (R184). -/
def execCpCaneArrive (core : Nat) (w : BitVec 64) (s : State) : Host.Outcome State Fault Refusal :=
  answer (.cpCaneArrive core w) (caneArrive s core w)

/-- ARRIVE_WAIT: the arrival and a CANE-mode wait together, or neither (R184). -/
def caneArriveWait (s : State) (k : Nat) (w : BitVec 64) : State :=
  let cn := fld w 0 6
  if !portLive s k || fld w 6 2 != 1 then s
  else
    let st0 := caneStatus s k cn
    let st := if st0 = .ok && (s.port k).wait.isSome then .busy else st0
    let t := s.modPort k fun p => { p with caneSt := st }
    if st = .ok then
      let g := caneGroup s cn
      let u := driveLeg t cn k
      let v := waitSleep u k
        { mode := .cane, id := cn, target := 0, deadline := s.tb + waitUnits s g (fld w 8 20) * 1024, gate := !bit w 28,
          phase := (s.cchan cn).phase, gid := g }
      v.modPort k fun p => { p with waitSt := (s.port k).waitSt }
    else t

/-- CP_CANE_ARRIVE_WAIT (R184). -/
def execCpCaneArriveWait (core : Nat) (w : BitVec 64) (s : State) : Host.Outcome State Fault Refusal :=
  answer (.cpCaneArriveWait core w) (caneArriveWait s core w)

/-- READ of a Cane channel (R184, Table 6-18). -/
def caneRead (s : State) (k : Nat) (w : BitVec 64) : State :=
  let cn := fld w 0 6
  if !portLive s k || fld w 6 2 != 2 then s
  else if caneGranted s k cn then
    s.modPort k fun p => { p with caneSt := .ok, rv := true, sorec := BitVec.ofNat 256 (caneRecord s cn).toNat }
  else s.modPort k fun p => { p with caneSt := .denied }

/-- CP_CANE_READ (R184). -/
def execCpCaneRead (core : Nat) (w : BitVec 64) (s : State) : Host.Outcome State Fault Refusal :=
  answer (.cpCaneRead core w) (caneRead s core w)

/-! ## Waits (R139 to R141, R185, R186) -/

/-- A CP_WAIT is refused. -/
def waitRefuse (s : State) (k : Nat) (st : St) : State := s.modPort k fun p => { p with waitSt := st }

/-- The wait that the words of CP_WAIT describe. -/
def waitOf (s : State) (k : Nat) (mode : WaitMode) (hi : BitVec 64) (g : Option Nat) : Wait :=
  let lo := (s.port k).waitLo
  { mode := mode, id := if mode = .cane then fld lo 0 6 else fld lo 0 15, target := fld hi 0 32,
    deadline := s.tb + waitUnits s g (fld lo 20 20) * 1024, gate := !bit lo 19, gid := g }

/-- The wait accepted names the mode of this command, and the core has no wait in progress. -/
def waitTaken (s : State) (k : Nat) (mode : WaitMode) : Bool := portLive s k && fld (s.port k).waitLo 16 3 == mode.code

/-- A tenant may wait on an object: its own, or with the READ right (R134). -/
def mayObserve (s : State) (i tid : Nat) : Bool := tid == (s.obj i).tid || soGrantOf s i tid fun g => g.read

/-- GEN and COUNT waits (R134, R135, R139, R145). -/
def waitObject (s : State) (k : Nat) (mode : WaitMode) (hi : BitVec 64) : State :=
  let p := s.port k
  let i := fld p.waitLo 0 15
  let o := s.obj i
  if !waitTaken s k mode then s
  else if !soReady s || p.wait.isSome then waitRefuse s k .busy
  else if !p.tv then waitRefuse s k .denied
  else if (match soBlock i with | some b => blockOfCell (cellOf k) != b | none => false) || (mode = .gen && 65536 ≤ fld hi 0 32) then
    waitRefuse s k .range
  else if !o.al || !mayObserve s i p.tid then waitRefuse s k .denied
  else
    let w := waitOf s k mode hi o.gid
    if o.st = .abandoned then
      s.modPort k fun q => { q with waitSt := .ok, wres := { code := .ownerLost, v := true, mode := mode, st := o.st, gen := o.gen, val := BitVec.ofNat 32 o.count } }
    else if o.st = .frozen then waitSleep s k { w with remain := some (w.deadline - s.tb) }
    else if condHolds mode w.target o.count o.gen then waitDone s k mode (BitVec.ofNat 32 o.count) o.gen o.st
    else waitSleep s k w

/-- CP_WAIT_GEN (R139). -/
def execCpWaitGen (core : Nat) (hi : BitVec 64) (s : State) : Host.Outcome State Fault Refusal :=
  answer (.cpWaitGen core hi) (waitObject s core .gen hi)

/-- CP_WAIT_COUNT (R139). -/
def execCpWaitCount (core : Nat) (hi : BitVec 64) (s : State) : Host.Outcome State Fault Refusal :=
  answer (.cpWaitCount core hi) (waitObject s core .count hi)

/-- CANE wait: a core that has not arrived in the current phase is refused (R185). -/
def waitCane (s : State) (k : Nat) (hi : BitVec 64) : State :=
  let p := s.port k
  let cn := fld p.waitLo 0 6
  let c := s.cchan cn
  if !waitTaken s k .cane then s
  else if p.wait.isSome then waitRefuse s k .busy
  else if !p.tv || !caneGranted s k cn || !caneMember s cn k || c.lost then waitRefuse s k .denied
  else if !hasArrived c k then waitRefuse s k .conflict
  else waitSleep s k { waitOf s k .cane hi (caneGroup s cn) with phase := c.phase }

/-- CP_WAIT_CANE (R185). -/
def execCpWaitCane (core : Nat) (hi : BitVec 64) (s : State) : Host.Outcome State Fault Refusal :=
  answer (.cpWaitCane core hi) (waitCane s core hi)

/-- PUSH and PULL waits on the running transfer (R185). -/
def waitStream (s : State) (k : Nat) (pull : Bool) (hi : BitVec 64) : State :=
  let p := s.port k
  let mode : WaitMode := if pull then .pull else .push
  let d := p.dir pull
  let val := BitVec.ofNat 32 d.cnt
  if !waitTaken s k mode then s
  else if p.wait.isSome then waitRefuse s k .busy
  else match d.run with
    | none => waitDone s k mode val 0 .idle
    | some x =>
      let w := waitOf s k mode hi (some x.gid)
      if w.target ≠ 0 ∧ w.target ≤ d.cnt ∧ (!pull || pullMay s x) then waitDone s k mode val 0 .idle
      else waitSleep s k { w with cid := x.cid }

/-- CP_WAIT_PUSH (R185). -/
def execCpWaitPush (core : Nat) (hi : BitVec 64) (s : State) : Host.Outcome State Fault Refusal :=
  answer (.cpWaitPush core hi) (waitStream s core false hi)

/-- CP_WAIT_PULL (R185). -/
def execCpWaitPull (core : Nat) (hi : BitVec 64) (s : State) : Host.Outcome State Fault Refusal :=
  answer (.cpWaitPull core hi) (waitStream s core true hi)

/-- SCALAR wait (R185). -/
def waitScalar (s : State) (k : Nat) (hi : BitVec 64) : State :=
  let p := s.port k
  if !waitTaken s k .scalar then s
  else if p.wait.isSome then waitRefuse s k .busy
  else if p.scalRes.v then waitDone s k .scalar 0 0 .idle
  else waitSleep s k (waitOf s k .scalar hi (p.scal.map (·.gid)))

/-- CP_WAIT_SCALAR (R185). -/
def execCpWaitScalar (core : Nat) (hi : BitVec 64) (s : State) : Host.Outcome State Fault Refusal :=
  answer (.cpWaitScalar core hi) (waitScalar s core hi)

/-- FENCE wait (R185). -/
def waitFence (s : State) (k : Nat) (hi : BitVec 64) : State :=
  let p := s.port k
  if !waitTaken s k .fence then s
  else if p.wait.isSome then waitRefuse s k .busy
  else if fenceWord p = 0 then waitDone s k .fence 0 0 .idle
  else waitSleep s k (waitOf s k .fence hi none)

/-- CP_WAIT_FENCE (R185). -/
def execCpWaitFence (core : Nat) (hi : BitVec 64) (s : State) : Host.Outcome State Fault Refusal :=
  answer (.cpWaitFence core hi) (waitFence s core hi)

/-- CP_CG_ACK (R186): the core raises cp_cg_ack while cp_cg_req is 1, or lowers it, after which cp_wake falls. -/
def execCpCgAck (core : Nat) (level : Bool) (s : State) : Host.Outcome State Fault Refusal :=
  answer (.cpCgAck core level) (s.modPort core fun p =>
    if level then (if p.cgReq then { p with cgAck := true } else p) else { p with cgAck := false, wake := false })

/-! ## Fences (R187) -/

/-- PULLVIS is set: it covers the beats that the core has accepted. Those known to be accepted stay so; how many more cp_wr_rdy has let
pass is a free number, for no command shows it (R168, R187; log entry 111). -/
def fenceWrites (s : State) (k : Nat) : State :=
  let y := takeFree s
  y.2.modPort k fun p =>
    let n := p.wrAcc + y.1 % (p.wrOut.length + 1 - p.wrAcc)
    { p with wrAcc := n, fPullvis := if n = 0 then none else some n }

/-- FENCE_PULLVIS (R187): pending until every write accepted before it is acknowledged. -/
def execFencePullvis (core : Nat) (s : State) : Host.Outcome State Fault Refusal :=
  answer (.fencePullvis core) (if portLive s core then fenceWrites s core else s)

/-- FENCE_SYNC (R187): pending until every earlier CP_SYNC operation has reached SPEND = 0. -/
def execFenceSync (core : Nat) (s : State) : Host.Outcome State Fault Refusal :=
  answer (.fenceSync core) (if portLive s core then s.modPort core fun p => { p with fSync := p.sync.isSome } else s)

/-- FENCE_PUSHHELD (R187): pending until every push written before it has ended. -/
def execFencePushheld (core : Nat) (s : State) : Host.Outcome State Fault Refusal :=
  answer (.fencePushheld core) (if portLive s core then
    s.modPort core fun p => { p with fPush := if endedBefore p.push p.nseq then none else some p.nseq } else s)

/-- A commit notice reaches a cell: the collective's open pulls close (R178, R282). -/
def commitReach (s : State) (cell : Nat) : State :=
  match takeFirst (fun e => e.1 == cell) s.mrv.commits with
  | none => s
  | some y =>
    let hit (x : Xfer) : Bool := x.gid == y.1.2.1 && x.cid == y.1.2.2
    let mark (x : Xfer) : Xfer := if hit x then { x with committed := true } else x
    [0, 1, 2, 3].foldl (fun t q => t.modPort (4 * cell + q) fun p =>
        { p with pull := { p.pull with opened := p.pull.opened.filter (fun x => !hit x), run := p.pull.run.map mark, que := p.pull.que.map mark } })
      { s with mrv := { s.mrv with commits := y.2 } }

/-- COMMIT_NOTICE (R282). -/
def execCommitNotice (cell : Nat) (s : State) : Host.Outcome State Fault Refusal := answer (.commitNotice cell) (commitReach s cell)

end Sys2Proof.Machine
end

