-- ==== Sys2Proof/Machine/TreeOps.lean ====
section
/-! DEFINITION. The tree fabric (02): where links lead, frames, returns, buffers and their discard. -/
namespace Sys2Proof.Machine

/-! ## Where links lead (Table 2-1, R56, R58) -/

/-- The opposite direction of the same link. -/
def revDir (d : LinkDir) : LinkDir := { d with down := !d.down }

/-- Width W of a link in bytes (Table 2-1). -/
def linkW : LinkId → Nat
  | .cell _ => 32 | .standby _ => 32 | .block _ => 128 | .region _ => 256 | .half _ => 512

/-- Cells of block b are switched to their standby links (Table 2-9, step 4). -/
def switched (s : State) (c : Nat) : Bool := (s.rehome (blockOfCell c)).cells.contains c

/-- The uplink of a node and the context its frames carry; the foreign context of a hub leaves by the hub's own uplink (R58). -/
def upLink (s : State) (n : NodeId) (ctx : Bool) : Option (LinkId × Bool) :=
  match n with
  | .cell c => some (if switched s c then (.standby c, true) else (.cell c, false))
  | .block b => some (.block b, ctx)
  | .region r => some (.region r, false)
  | .half h => some (.half h, false)
  | .spine => none

/-- The node, its context and the child slot that frames going up a link reach. -/
def upTarget (l : LinkId) (ctx : Bool) : NodeId × Bool × Nat :=
  match l with
  | .cell c => (.block (blockOfCell c), false, c % 20)
  | .standby c => (.block (buddy (blockOfCell c)), true, c % 20)
  | .block b => (.region (regionOfBlock b), false, (if ctx then buddy b else b) % 8)
  | .region r => (.half (halfOfRegion r), false, r % 4)
  | .half h => (.spine, false, h)

/-- The node and context that frames going down a link reach. -/
def downTarget (l : LinkId) (ctx : Bool) : NodeId × Bool :=
  match l with
  | .cell c => (.cell c, false)
  | .standby c => (.cell c, false)
  | .block b => (.block b, ctx)
  | .region r => (.region r, false)
  | .half h => (.half h, false)

/-- The link and context that lead from a node to child slot i; the slots of a cell are cores. -/
def childLink (s : State) (n : NodeId) (ctx : Bool) (i : Nat) : Option (LinkId × Bool) :=
  match n with
  | .cell _ => none
  | .block b => some (if ctx then (.standby (20 * buddy b + i), true) else (.cell (20 * b + i), false))
  | .region r => let b := 8 * r + i; some (if 2 ≤ (s.rehome b).step then (.block (buddy b), true) else (.block b, false))
  | .half h => some (.region (4 * h + i), false)
  | .spine => some (.half i, false)

/-- Child slots of a node, and the levels of the pairwise tree they fill (Table 4-5). -/
def nslots : NodeId → Nat
  | .cell _ => 4 | .block _ => 20 | .region _ => 8 | .half _ => 4 | .spine => 2
def treeLevels : NodeId → Nat
  | .cell _ => 2 | .block _ => 5 | .region _ => 3 | .half _ => 2 | .spine => 1

/-- The node whose mask and slots a hub applies in a context: its buddy's in the foreign one (R58). -/
def maskNode (n : NodeId) (ctx : Bool) : NodeId :=
  match n with
  | .block b => .block (if ctx then buddy b else b)
  | m => m

/-- The node and context that send on the up direction of a link, for a context of its frames. -/
def upSender (l : LinkId) (ctx : Bool) : NodeId × Bool :=
  match l with
  | .cell c => (.cell c, false)
  | .standby c => (.cell c, false)
  | .block b => (.block b, ctx)
  | .region r => (.region r, false)
  | .half h => (.half h, false)

/-- Mask of a group at a node and context. -/
def nodeMask (s : State) (n : NodeId) (ctx : Bool) (g : Nat) : Nat :=
  match s.maskOf (maskNode n ctx) g with | some m => m.mask | none => 0

/-- Non-empty child slots of a group, ascending (R52). -/
def memberSlots (s : State) (n : NodeId) (ctx : Bool) (g : Nat) : List Nat :=
  (List.range (nslots n)).filter fun i => (nodeMask s n ctx g).testBit i

/-- Current epoch of a group as the node's mask holds it (R195). -/
def nodeEpoch (s : State) (n : NodeId) (ctx : Bool) (g : Nat) : Option (BitVec 16) :=
  (s.maskOf (maskNode n ctx) g).map (·.epoch)

/-- The node is the apex of a collective: the spine root where Marver carries it, else the group's at its posting (R51). -/
def isApex (s : State) (n : NodeId) (g : Nat) (cid : BitVec 32) : Bool :=
  n.lvl == match collOf (s.group g) cid with
    | some c => c.apex
    | none => (s.group g).apex

/-- Cores below a node, first and number. -/
def coreSpan : NodeId → Nat × Nat
  | .cell c => (4 * c, 4)
  | .block b => (80 * b, 80)
  | .region r => (640 * r, 640)
  | .half h => (2560 * h, 2560)
  | .spine => (0, 5120)

/-- Cores below child slot i of a node. -/
def slotSpan (n : NodeId) (i : Nat) : Nat × Nat :=
  match n with
  | .cell c => (4 * c + i, 1)
  | .block b => (80 * b + 4 * i, 4)
  | .region r => (640 * r + 80 * i, 80)
  | .half h => (2560 * h + 640 * i, 640)
  | .spine => (2560 * i, 2560)

/-! ## Frames (R34) -/

/-- Header of a frame (Table 2-3). -/
def frameHeader (f : Frame) : BitVec 256 :=
  pack 256
    [(0, 4, f.ch), (4, 4, f.kind), (8, 12, f.gid), (20, 16, f.epoch.toNat), (36, 32, f.cid.toNat), (68, 32, f.cseq.toNat),
     (100, 10, f.payload.length / 4 - 1), (112, 4, f.fmt), (116, 4, f.op), (120, 3, f.slvl), (123, 13, f.sidx)]

/-- Trailer of a frame (Table 2-4). -/
def frameTrailer (f : Frame) : BitVec 256 := pack 256 [(0, 64, f.status.toNat), (64, 16, f.vanish), (80, 13, f.nslot)]

/-- The bytes of a frame. -/
def frameBytes (f : Frame) : List Byte := leBytes 32 (frameHeader f).toNat ++ f.payload ++ leBytes 32 (frameTrailer f).toNat

/-- A frame cut into units of `u` bytes, the last beat of width `w` filled with zeros (R34, R46). At reduced width SOF goes with the
first slice of the first beat alone and EOF with the last slice of the last (log entry 107). -/
def frameBeats (w u gid : Nat) (bytes : List Byte) : List Beat :=
  let n := ceilDiv bytes.length w * w
  let m := n / u
  (List.range m).map fun i => ⟨i == 0, i + 1 == m, slice (padTo bytes n) (u * i) u, gid⟩

/-- The frame that received bytes spell, by its header's LENW. -/
def parseFrame (l : List Byte) : Frame :=
  let h : BitVec 256 := BitVec.ofNat 256 (leAt l 0 32)
  let n := 4 * (fld h 100 10 + 1)
  let t : BitVec 256 := BitVec.ofNat 256 (leAt l (32 + n) 32)
  { ch := fld h 0 4, kind := fld h 4 4, gid := fld h 8 12, epoch := BitVec.ofNat 16 (fld h 20 16), cid := BitVec.ofNat 32 (fld h 36 32),
    cseq := BitVec.ofNat 32 (fld h 68 32), fmt := fld h 112 4, op := fld h 116 4, slvl := fld h 120 3, sidx := fld h 123 13,
    payload := slice l 32 n, status := BitVec.ofNat 64 (fld t 0 64), vanish := fld t 64 16, nslot := fld t 80 13 }

/-- Reserved fields of a received frame are 0 and its padding holds zeros (R34, R36); those of the trailer count as the header's
(log entry 108). -/
def frameReservedOk (l : List Byte) : Bool :=
  let h : BitVec 256 := BitVec.ofNat 256 (leAt l 0 32)
  let n := 4 * (fld h 100 10 + 1)
  let t : BitVec 256 := BitVec.ofNat 256 (leAt l (32 + n) 32)
  zeros h [(110, 2), (136, 120)] && zeros t [(93, 163)] && fld h 120 3 < 6

/-- The bits [127:80] of every I80 slot are 0 (R37). -/
def i80Clean (l : List Byte) : Bool := (List.range (l.length / 16)).all fun i => leAt l (16 * i + 10) 6 == 0

/-- FMT, OP, KIND and the whole number of elements permitted on the channel (R36, R37, R47, R68, R103, R105). -/
def frameFieldsOk (f : Frame) : Bool :=
  let wideOk := isWide f.ch
  match f.kind with
  | 1 => (f.op ≤ 4 && 1 ≤ f.op && (f.fmt == fmtFP32 || (f.fmt == fmtFP16 && !wideOk)))
         || (f.fmt == fmtI80 && wideOk && (f.op == opISUM || f.op == opMAX || f.op == opMIN) && i80Clean f.payload && f.payload.length % 16 == 0)
  | 2 => f.op == 0 && (f.fmt == fmtFP32 || (f.fmt == fmtFP16 && !wideOk) || (f.fmt == fmtI80 && wideOk && i80Clean f.payload))
  | 3 => f.op == 0 && (f.fmt == fmtFP32 || (f.fmt == fmtFP16 && !wideOk) || (f.fmt == fmtI80 && wideOk && i80Clean f.payload) || isPacked f.fmt)
  | _ => false

/-! ## Returns (R38 to R42) -/

/-- Add a return due for the data direction `d`. -/
def dueRet (s : State) (d : LinkDir) (ch : Nat) (ctx : Bool) (f : RetDue → RetDue) : State :=
  s.modLink d fun l => { l with rets := tabMod {} l.rets (chCtx ch ctx) f }

def retNak (r : RetDue) : RetDue := { r with nak := true }
def retRewind (r : RetDue) : RetDue := { r with rewind := true }
def retHeld (r : RetDue) : RetDue := { r with held := r.held + 1 }
def retRelease (r : RetDue) : RetDue := { r with release := r.release + 1 }
def retBeat (r : RetDue) : RetDue := { r with beat := satAdd 63 r.beat 1 }

/-- A return to each of the child slots of a node, on the data direction up of its link. -/
def retSlots (s : State) (n : NodeId) (ch : Nat) (ctx : Bool) (is : List Nat) (f : RetDue → RetDue) : State :=
  is.foldl (fun t i => match childLink t n ctx i with
    | some l => dueRet t ⟨l.1, false⟩ ch l.2 f
    | none => t) s

/-! ## Sending frames -/

/-- Bytes of one unit at the width in use: a beat, a half beat or an eighth (R45, R46). -/
def unitBytes (l : LinkId) (w : Width) : Nat :=
  match w with
  | .full => linkW l | .lower => linkW l / 2 | .upper => linkW l / 2 | .eighth => linkW l / 8

/-- Units of one beat. -/
def unitsPerBeat (w : Width) : Nat := match w with | .full => 1 | .lower => 2 | .upper => 2 | .eighth => 8

/-- Queue a frame on a link direction, channel and context. -/
def queueFrame (s : State) (d : LinkDir) (ch : Nat) (ctx : Bool) (f : Frame) : State :=
  s.modLink d fun l => { l with
    tx := tabMod {} l.tx (chCtx ch ctx) (fun t =>
      { t with ready := t.ready ++ frameBeats (linkW d.link) (unitBytes d.link l.width) f.gid (frameBytes f) }) }

/-- Send a node's whole output chunk up, and mark it as handed to the link (R49). -/
def sendUp (s : State) (n : NodeId) (ch : Nat) (ctx : Bool) (f : Frame) : State :=
  match upLink s n ctx with
  | some l => queueFrame s ⟨l.1, false⟩ ch l.2 f
  | none => s

/-! ## Stage buffers (Tables 2-8, 8-2, R50) -/

/-- Shared chunk buffers of a node, and the most that one channel holds. -/
def sharedCap : NodeId → Nat
  | .cell _ => 4 | .block _ => 16 | .region _ => 208 | .half _ => 464 | .spine => 976
def chanCap : NodeId → Nat
  | .cell _ => 4 | .block _ => 8 | .region _ => 32 | .half _ => 64 | .spine => 128

/-- Up buffers in use by a channel: whole chunks and the one being formed. -/
def upUse (c : NodeChan) : Nat := c.up.length + b2n c.out.isSome
/-- Down buffers in use: held chunks and frames on their way to reserved buffers. -/
def downUse (c : NodeChan) : Nat := c.down.length + c.downComing.length

/-- The channel entries of a node. -/
def nodeChans (s : State) (n : NodeId) : List (Nat × NodeChan) :=
  (s.fab.chans.filter fun e => e.1 / 32 == n.key).map fun e => (e.1 % 32, e.2)

/-- Shared buffers in use at a node: what channels hold beyond one reserved buffer each way. -/
def sharedUse (s : State) (n : NodeId) : Nat :=
  ((nodeChans s n).map fun e => (upUse e.2 - 1) + (downUse e.2 - 1)).foldl (· + ·) 0

/-- Up or down buffers in use at a cell over every channel. -/
def cellUse (s : State) (n : NodeId) (down : Bool) : Nat :=
  ((nodeChans s n).map fun e => if down then downUse e.2 else upUse e.2).foldl (· + ·) 0

/-- The turn of channel `ch` among the channels that wait for one of `free` buffers of a cell, `holds` telling which hold one:
those that hold none go first, the lowest first, and a second buffer is held only while no other channel waits (R50). -/
def cellTurn (free : Nat) (holds : Nat → Bool) (waiting : List Nat) (ch : Nat) : Bool :=
  if holds ch then decide (0 < free) && waiting.all (· == ch)
  else decide ((waiting.filter fun c => !holds c && decide (c < ch)).length < free)

/-- An up buffer of a hub or root is free for a channel and context (R50). -/
def upFree (s : State) (n : NodeId) (ch : Nat) (ctx : Bool) : Bool :=
  let c := s.nchan n ch ctx
  upUse c + downUse c < chanCap n && (upUse c == 0 || sharedUse s n < sharedCap n)

/-! ## Where down chunks go (R52 to R54) -/

/-- A REDSCAT on one chip delivers each down chunk only towards the rank whose shard it is (R250). -/
def shardCore (g : Group) (c : Coll) (cseq : Nat) : Option Nat :=
  if dColl c.desc == cREDSCAT && !isXchip g then
    (memberCores g)[cseq / ceilDiv (dNelem c.desc / nranks g c.desc) (chunkElems (frameFmt c))]?
  else none

/-- Child slots to which the down chunk of a group, collective and CSEQ goes (R52, R53, R250). -/
def destSlots (s : State) (n : NodeId) (ctx : Bool) (k : Nat × BitVec 32 × BitVec 32) : List Nat :=
  let ms := memberSlots s n ctx k.1
  match (collOf (s.group k.1) k.2.1).bind fun c => shardCore (s.group k.1) c k.2.2.toNat with
  | some j => ms.filter fun i => let sp := slotSpan (maskNode n ctx) i; sp.1 ≤ j && j < sp.1 + sp.2
  | none => ms

/-- Group, collective and CSEQ of a frame. -/
def frameKey (f : Frame) : Nat × BitVec 32 × BitVec 32 := (f.gid, f.cid, f.cseq)

/-- Child slots to which a down chunk goes. -/
def downSlots (s : State) (n : NodeId) (ctx : Bool) (f : Frame) : List Nat := destSlots s n ctx (frameKey f)

/-- Down chunks of a channel, held or on their way to it, that child slot `i` has not yet taken (R54). -/
def untaken (s : State) (n : NodeId) (ch : Nat) (ctx : Bool) (i : Nat) : Nat :=
  let c := s.nchan n ch ctx
  (c.down.filter fun d => !d.taken.contains i && (downSlots s n ctx d.frame).contains i).length
    + (c.downComing.filter fun k => (destSlots s n ctx k).contains i).length

/-- A down buffer of a hub or root is free for a channel and context, and the window of 4 chunks is not full (R53, R54). -/
def downFree (s : State) (n : NodeId) (ch : Nat) (ctx : Bool) : Bool :=
  let c := s.nchan n ch ctx
  upUse c + downUse c < chanCap n && (downUse c == 0 || sharedUse s n < sharedCap n)
    && (List.range (nslots n)).all fun i => decide (untaken s n ch ctx i < 4)

/-- The next chunk of a channel that waits for child slot `i` (R53). -/
def slotWaits (s : State) (n : NodeId) (ch : Nat) (ctx : Bool) (i : Nat) : Option DownChunk :=
  (s.nchan n ch ctx).down.find? fun x => !x.taken.contains i && (downSlots s n ctx x.frame).contains i

/-- Child `m` behind slot `i` has a free down buffer for a channel: at a cell by the turns of R50 (R53). -/
def childFree (s : State) (n : NodeId) (ch : Nat) (ctx : Bool) (i : Nat) (m : NodeId × Bool) : Bool :=
  match m.1 with
  | .cell _ => cellTurn (2 - cellUse s m.1 true) (fun c => decide (0 < downUse (s.nchan m.1 c m.2)))
      ((List.range 16).filter fun c => (slotWaits s n c ctx i).isSome) ch
  | _ => downFree s m.1 ch m.2

/-! ## Discard of a group's chunks (R204, R305) -/

/-- A frame of another group. -/
def notOf (g : Nat) (f : Frame) : Bool := f.gid != g

/-- Remove a group from a child slot of a node, and count the FIFO entries freed. -/
def dropSlot (g : Nat) (x : SlotIn) : SlotIn × Nat :=
  let keep := x.fifo.filter fun b => b.gid != g
  let hit := match x.fifo with | b :: _ => b.gid == g | [] => x.frames.any fun f => f.gid == g
  ({ x with fifo := keep, taken := if hit then 0 else x.taken, frames := x.frames.filter (notOf g),
            ops := if hit then [] else x.ops }, x.fifo.length - keep.length)

/-- Returns of a kind for a channel and context on their way to the sender of a direction. -/
def retTransit (l : LinkState) (key : Nat) (k : RetKind) : Nat :=
  let r := tabGet {} l.rets key
  (match k with | .held => r.held | .release => r.release | _ => 0) + (l.retIn.filter fun e => e.1 == k && e.2 == key).length

/-- Up chunks without those of a group; a chunk of which one of the `r` RELEASE or `h` HELD on their way speaks stays until it comes. -/
def dropUps (g : Nat) : Nat → Nat → List UpChunk → List UpChunk
  | _, _, [] => []
  | r, h, u :: us =>
    let t := dropUps g (r - 1) (if u.heldUp then h else h - 1) us
    if notOf g u.frame then u :: t
    else if 0 < r || (!u.heldUp && 0 < h) then { u with gone := true } :: t
    else t

/-- Up chunks without the discarded ones of which no return on its way speaks any more. -/
def purgeGone : Nat → Nat → List UpChunk → List UpChunk
  | _, _, [] => []
  | r, h, u :: us =>
    let t := purgeGone (r - 1) (if u.heldUp then h else h - 1) us
    if !u.gone || 0 < r || (!u.heldUp && 0 < h) then u :: t else t

/-- Child slots whose RELEASE of a down chunk is on its way. -/
def spokenBy (s : State) (n : NodeId) (ch : Nat) (ctx : Bool) (ds : List DownChunk) (x : DownChunk) : List Nat :=
  (List.range (nslots n)).filter fun i => match childLink s n ctx i with
    | some l => ((ds.filter fun d => d.taken.contains i && !d.released.contains i).take
        (retTransit (s.link ⟨l.1, true⟩) (chCtx ch l.2) .release)).contains x
    | none => false

/-- Down chunks of a channel without those of a group; one whose RELEASE is on its way stays until it comes. -/
def dropDowns (s : State) (n : NodeId) (ch : Nat) (ctx : Bool) (g : Nat) (ds : List DownChunk) : List DownChunk :=
  ds.filterMap fun x =>
    if notOf g x.frame then some x
    else match spokenBy s n ch ctx ds x with
      | [] => none
      | is =>
        let all := List.range (nslots n)
        some { x with gone := true, taken := all, released := all.filter fun i => !is.contains i }

/-- Remove a group from the slots and the chunk being formed of a channel. -/
def dropForming (g : Nat) (c : NodeChan) : NodeChan :=
  let mine := match c.out with | some o => o.hdr.gid == g | none => false
  { c with
    slots := tabMap {} (fun _ x => if mine then { (dropSlot g x).1 with ops := [], cvf := 0, afl := 0, sw := 0, ready := false, taken := 0 } else (dropSlot g x).1) c.slots
    out := if mine then none else c.out
    copyNext := c.copyNext.filter fun k => k.1 != g }

/-- The link with a number, and the direction with a number. -/
def linkOf (k : Nat) : LinkId :=
  if k < 1280 then .cell k else if k < 2560 then .standby (k - 1280) else if k < 2624 then .block (k - 2560)
  else if k < 2632 then .region (k - 2624) else .half (k - 2632)
def dirOf (k : Nat) : LinkDir := ⟨linkOf (k / 2), k % 2 == 1⟩

/-- Beats waiting on a link without the whole frames of a group, and how many frames went; a frame begun goes on, and is discarded
where it arrives (R36). -/
def dropReady (g : Nat) : Bool → List Beat → List Beat × Nat
  | _, [] => ([], 0)
  | cut, b :: r =>
    let c := if b.sof then b.gid == g else cut
    let t := dropReady g c r
    if c then (t.1, t.2 + b2n b.sof) else (b :: t.1, t.2)

/-- The last `n` frames of a group leave those on their way. -/
def dropComing (g n : Nat) (l : List (Nat × BitVec 32 × BitVec 32)) : List (Nat × BitVec 32 × BitVec 32) :=
  (l.reverse.foldl (fun (a : Nat × List (Nat × BitVec 32 × BitVec 32)) k =>
    if k.1 == g && a.1 != 0 then (a.1 - 1, a.2) else (a.1, k :: a.2)) (n, [])).2

/-- The frames of a group that wait whole on one channel and context of a link direction are withdrawn, with the buffers reserved
for them at the child of a down link. -/
def dropQueued (g : Nat) (d : LinkDir) (s : State) (key : Nat) : State :=
  let t := tabGet {} (s.link d).tx key
  let k := t.acc - t.sent.length
  let y := dropReady g false (t.ready.drop k)
  if y.2 = 0 then s
  else
    let s1 := s.modLink d fun l => { l with tx := tabMod {} l.tx key fun t => { t with ready := t.ready.take k ++ y.1 } }
    if d.down && key != 32 then
      let m := downTarget d.link (key % 2 == 1)
      s1.modNchan m.1 (key / 2) m.2 fun c => { c with downComing := dropComing g y.2 c.downComing }
    else s1

/-- The same over every link direction of a kind. -/
def dropLinks (s : State) (g : Nat) (p : LinkDir → Bool) : State :=
  s.fab.links.foldl (fun t e => if p (dirOf e.1) then e.2.tx.foldl (fun y x => dropQueued g (dirOf e.1) y x.1) t else t) s

/-- The node with a number. -/
def nodeOf (k : Nat) : NodeId :=
  if k < 1280 then .cell k else if k < 1344 then .block (k - 1280) else if k < 1352 then .region (k - 1344)
  else if k < 1354 then .half (k - 1352) else .spine

/-- BEAT credits of the FIFO entries that a discard of the group frees go back to the senders (R36). -/
def dropCredits (s : State) (g : Nat) : State :=
  s.fab.chans.foldl (fun t e =>
    e.2.slots.foldl (fun t x =>
      let n := (dropSlot g x.2).2
      if n = 0 then t
      else match childLink t (nodeOf (e.1 / 32)) (e.1 % 2 == 1) x.1 with
        | some l => dueRet t ⟨l.1, false⟩ (e.1 % 32 / 2) l.2 fun r => { r with beat := satAdd 63 r.beat n }
        | none => t) t) s

/-- The down chunks of a group leave every node (R286, R305). -/
def discardDown (s : State) (g : Nat) : State :=
  let t := dropLinks s g fun d => d.down
  { t with fab := { t.fab with chans := tabMap {} (fun k c =>
      { c with down := dropDowns t (nodeOf (k / 32)) (k % 32 / 2) (k % 2 == 1) g c.down }) t.fab.chans } }

/-- The up chunks of a channel without those of a group. -/
def dropUpChan (s : State) (g k : Nat) (c : NodeChan) : NodeChan :=
  let b := dropForming g c
  match upLink s (nodeOf (k / 32)) (k % 2 == 1) with
  | some l =>
    let x := s.link ⟨l.1, false⟩
    let key := chCtx (k % 32 / 2) l.2
    { b with up := dropUps g (retTransit x key .release) (retTransit x key .held) c.up }
  | none => { b with up := c.up.filter fun u => notOf g u.frame }

/-- Every node discards the group's chunks and frees their buffers (R204, R305). -/
def discardGroup (s : State) (g : Nat) : State :=
  let t := dropLinks (dropCredits (discardDown s g) g) g fun d => !d.down
  { t with fab := { t.fab with chans := tabMap {} (fun k c => dropUpChan t g k c) t.fab.chans } }

/-- A chunk of the group on its way up is held by a node below the spine root's stage area (R286). -/
def dieHoldsUp (s : State) (g : Nat) : Bool :=
  s.fab.chans.any fun e =>
    (match e.2.out with | some o => o.hdr.gid == g | none => false)
    || (e.1 / 32 != 1354 && e.2.up.any fun u => u.frame.gid == g)
    || e.2.slots.any fun x => x.2.fifo.any (fun b => b.gid == g) || x.2.frames.any fun f => f.gid == g

/-- A node holds a chunk of the group (R198, R305). -/
def dieHolds (s : State) (g : Nat) : Bool :=
  dieHoldsUp s g || s.fab.chans.any fun e => e.2.up.any (fun u => u.frame.gid == g) || e.2.down.any fun d => d.frame.gid == g

/-! ## LINKCTL (R67) -/

/-- Control block of a LINKCTL frame: fields given as in Table 2-14, entries of Table 2-15 after it. -/
def linkCtl (n : NodeId) (fs : List (Nat × Nat × Nat)) (entries : List Nat) : LinkCtl :=
  let p := leBytes 16 (pack 128 fs : BitVec 128).toNat ++ entries.flatMap (leBytes 2)
  { slvl := n.lvl, sidx := n.idx, payload := padTo p (4 * ceilDiv p.length 4) }

/-- Key of LINKCTL frames beside the channels and contexts of a link direction, and the number that stands for the group
in their beats. -/
def ctlKey : Nat := 32
def noGid : Nat := 4096

/-- Queue a LINKCTL frame on a link direction (R67). -/
def queueCtl (s : State) (d : LinkDir) (f : LinkCtl) : State :=
  let b := frameBytes { kind := 15, slvl := f.slvl, sidx := f.sidx, payload := f.payload }
  s.modLink d fun l => { l with
    tx := tabMod {} l.tx ctlKey (fun t =>
      { t with ready := t.ready ++ frameBeats (linkW d.link) (unitBytes d.link l.width) noGid b }) }

/-- The sending and the receiving node of a link direction. -/
def lowerNode : LinkId → NodeId
  | .cell c => .cell c | .standby c => .cell c | .block b => .block b | .region r => .region r | .half h => .half h
def upperNode : LinkId → NodeId
  | .cell c => .block (blockOfCell c) | .standby c => .block (buddy (blockOfCell c)) | .block b => .region (regionOfBlock b)
  | .region r => .half (halfOfRegion r) | .half _ => .spine
def txNode (d : LinkDir) : NodeId := if d.down then upperNode d.link else lowerNode d.link
def rxNode (d : LinkDir) : NodeId := if d.down then lowerNode d.link else upperNode d.link

/-- Child slot of a link at its upper node. A cell's standby link has at the buddy the number of its cell link at the home hub
(log entry 109). -/
def linkSlot : LinkId → Nat
  | .cell c => c % 20 | .standby c => c % 20 | .block b => b % 8 | .region r => r % 4 | .half h => h

/-- An event of form L (Table 11-8): raised at the link's upper node, with slot, direction and channel. -/
def linkEv (c : FCode) (d : LinkDir) (ch lane : Nat) : Event :=
  let n := upperNode d.link
  { mkEv c n.skind n.idx with
    cseq := BitVec.ofNat 32 lane
    detail := pack 16 [(0, 6, linkSlot d.link), (6, 1, b2n d.down), (7, 4, ch)] }

/-! ## Re-homing (R56 to R60) -/

/-- A configuration change becomes due for Lehr (R360): kinds 1 lane map, 2 re-home, 3 fence, 4 slices. -/
def confDue (s : State) (kind : Nat) : State :=
  { s with lehr := { s.lehr with due := tabMod none s.lehr.due kind (fun x => match x with | some t => some t | none => some s.tb) } }

/-- The buddy of block b carries b's cells. -/
def rehomed (s : State) (b : Nat) : Bool := (s.rehome b).step != 0

/-- Child FIFOs of a channel emptied, with their credits (Table 2-9, R62). -/
def clearSlots (s : State) (n : NodeId) (ch : Nat) (ctx : Bool) (is : List Nat) : State :=
  is.foldl (fun t i =>
    let k := (tabGet {} (t.nchan n ch ctx).slots i).fifo.length
    let t1 := t.modNchan n ch ctx fun c => { c with slots := tabMod {} c.slots i fun y => { y with fifo := [], taken := 0, frames := [] } }
    let t2 := match childLink t n ctx i with
      | some l => t1.modLink ⟨l.1, false⟩ fun x =>
          { x with rx := tabMod {} x.rx (chCtx ch l.2) fun r => { r with part := [], cur := [], nbeat := 0, whole := [] } }
      | none => t1
    if k = 0 then t2 else retSlots t2 n ch ctx [i] fun r => { r with beat := satAdd 63 r.beat k }) s

/-- The output chunk of a channel of the region into which beats of slot i were combined is discarded, and REWIND goes to the
other hubs; what slot i had sent is discarded with it (Table 2-9, step 3). -/
def rewindRegion (s : State) (r i ch : Nat) : State :=
  let n := NodeId.region r
  let c := s.nchan n ch false
  let drop (t : State) : State := t.modNchan n ch false fun c => { c with slots := tabDel i c.slots }
  match c.out with
  | some o =>
    let fs := match o.src with | some j => [j] | none => memberSlots s n false o.hdr.gid
    if fs.contains i then
      let others := fs.filter (· != i)
      drop (retSlots (clearSlots (s.modNchan n ch false fun c => { c with out := none }) n ch false others) n ch false others retRewind)
    else drop s
  | none => drop s

/-- The down chunks of slot i that it has not released are sent again, into buffers that the child reserves (Table 2-9, R41). -/
def resendDown (s : State) (n : NodeId) (ch : Nat) (ctx : Bool) (i : Nat) : State :=
  match childLink s n ctx i with
  | none => s
  | some l =>
    let m := downTarget l.1 l.2
    let fs := ((s.nchan n ch ctx).down.filter fun d => !d.gone && d.taken.contains i && !d.released.contains i).map (·.frame)
    let w := (tabGet {} (s.link ⟨l.1, true⟩).rx (chCtx ch l.2)).whole.map fun x => frameKey (parseFrame x.1)
    fs.foldl (fun t f => queueFrame t ⟨l.1, true⟩ ch l.2 f) (s.modNchan m.1 ch m.2 fun c => { c with downComing := w ++ fs.map frameKey })

/-- Hub b leaves service: what its channels and the links it drove held is gone (Table 2-9, step 1). -/
def dropHub (s : State) (b : Nat) : State :=
  let s1 := (List.range 16).foldl (fun t ch => t.modNchan (.block b) ch false fun _ => {}) s
  let s2 := (List.range 20).foldl (fun t i => t.modLink ⟨.cell (20 * b + i), true⟩ fun l => { l with tx := [], rx := [] }) s1
  let s3 := s2.modLink ⟨.block b, true⟩ fun l => { l with tx := l.tx.filter fun e => e.1 == ctlKey, rx := [] }
  s3.modLink ⟨.block b, false⟩ fun l => { l with tx := [], rx := [] }

/-- F_REHOME_LOST: the cells of block b have no path left (R60, log entry 18). -/
def pathLost (s : State) (b : Nat) : State := raise s { mkEv .rehomeLost 2 (buddy b) with detail := BitVec.ofNat 16 b }

/-- Block b can re-home: its buddy has its uplink, and every standby link of its 20 cells is usable (R32, R45, R60). -/
def canRehome (s : State) (b : Nat) : Bool :=
  !(s.link ⟨.block (buddy b), false⟩).lost && (List.range 20).all fun i =>
    !(s.link ⟨.standby (20 * b + i), false⟩).unusable && !(s.link ⟨.standby (20 * b + i), true⟩).unusable

/-- The region hub directs the re-home of block b: REHOME_GO to the buddy, steps 1 to 3 of Table 2-9, F_REHOME. -/
def rehomeStart (s : State) (b : Nat) : State :=
  if 2 ≤ (s.rehome b).step then s
  else if 2 ≤ (s.rehome (buddy b)).step then pathLost s (buddy b)
  else if !canRehome s b then pathLost s b
  else
    let r := regionOfBlock b
    let s1 := s.modRehome b fun x => { x with step := 2 }
    let s2 := queueCtl s1 ⟨.block (buddy b), true⟩ (linkCtl (.region r) [(0, 8, 4), (55, 6, b)] [])
    let s3 := (List.range 16).foldl (fun t ch => resendDown (rewindRegion t r (b % 8) ch) (.region r) ch false (b % 8)) (dropHub s2 b)
    let s4 := [false, true].foldl (fun t dn => t.modLink ⟨.block (buddy b), dn⟩ fun l => { l with lastForeign := true }) s3
    let s5 : State := { s4 with lehr := { s4.lehr with rehomeB := setBit s4.lehr.rehomeB b true } }
    confDue (raise s5 { mkEv .rehome 3 r with detail := BitVec.ofNat 16 b }) 2

/-- The HOME_LOST frame of cell c (Table 2-14). -/
def homeLostFrame (c why : Nat) : LinkCtl :=
  linkCtl (.cell c) [(0, 8, 3), (55, 6, blockOfCell c), (61, 2, why), (64, 11, c)] []

/-- Cell c detects the loss of its hub: HOME_LOST to the buddy over its standby link (R57), if that link is usable (R45). -/
def homeLostBy (s : State) (c why : Nat) : State :=
  if 2 ≤ (s.rehome (blockOfCell c)).step || (s.link ⟨.standby c, false⟩).unusable || (s.link ⟨.standby c, true⟩).homeAsk.isSome then s
  else
    let s1 := s.modRehome (blockOfCell c) fun x => { x with step := 1 }
    let s2 := s1.modLink ⟨.standby c, true⟩ fun l => { l with homeAsk := some (why, l.cyc) }
    queueCtl s2 ⟨.standby c, false⟩ (homeLostFrame c why)

end Sys2Proof.Machine
end

