-- ==== Sys2Proof/Machine/MarverOps.lean ====
section
/-! DEFINITION. Marver (08, 09): the working pool, the order of a pass's steps, memory requests and the conversion of chunks. -/
namespace Sys2Proof.Machine

/-! ## Access -/

/-- Pass p of schedule n. -/
def State.pass (s : State) (n p : Nat) : Option Pass := (s.sched n).bind fun x => x.passes.find? fun q => q.p == p

/-- Change pass p of schedule n. -/
def modPass (s : State) (n p : Nat) (f : Pass → Pass) : State :=
  s.modSched n fun x => { x with passes := x.passes.map fun q => if q.p == p then f q else q }

/-- Change the progress of a step. -/
def modStep (s : State) (n p i : Nat) (f : StepRun → StepRun) : State :=
  modPass s n p fun q => { q with steps := q.steps.modify i f }

/-- A step of a pass with its schedule, descriptor and progress. -/
def stepAt (s : State) (n p i : Nat) : Option (Sched × Pass × Step × StepRun) :=
  match s.sched n, s.pass n p with
  | some x, some q => match q.desc[i]?, q.steps[i]? with
    | some t, some r => some (x, q, t, r)
    | _, _ => none
  | _, _ => none

/-! ## Kinds (Table 9-8) -/

def kLOAD : Nat := 1
def kSTORE : Nat := 2
def kDIEIN : Nat := 3
def kDIEOUT : Nat := 4
def kSEND : Nat := 5
def kRECV : Nat := 6
def kCOMB : Nat := 7
def kCOPY : Nat := 8
def kNOTE : Nat := 9
def kCOUNTX : Nat := 10
def kCELLPOST : Nat := 11
/-- Steps of the model's own in schedules built from postings: a chunk whose partner is EMPTY is rounded, weighted or quantised alone
(`lone` of R108 where R256 has one position), and the terms that the first chip of a ring sends on (R256, log entry 23). -/
def kLONE : Nat := 12
def kTERM : Nat := 13

/-- A slice step of one data operand. -/
def isAlone (k : Nat) : Bool := k == kLONE || k == kTERM

/-- Steps whose work goes to the slices in pieces (R232). -/
def isSliceKind (k : Nat) : Bool := k == kCOMB || isAlone k

/-! ## Inter-chip chunks and footprints (R264) -/

/-- Bytes of an inter-chip chunk: CLOG of the group (Table 7-1). -/
def chunkBytes (e : Group) : Nat := 4096 * 2 ^ e.clog

/-- Elements of a full inter-chip chunk of `c` bytes in a wire format (R82). -/
def wireElems (w c : Nat) : Nat := if isPacked w then c / 4096 * pageElems w else c / elemBytes w

/-- Units of one chunk in a pool format (R264). -/
def footprint (w c f : Nat) : Nat :=
  if elemBits f ≤ elemBits w then c / 4096 else ceilDiv (ceilDiv (wireElems w c * elemBits f) 8) 4096

/-- The pool units that a step writes begin here. -/
def writesPool (t : Step) : Bool :=
  t.kind == kLOAD || t.kind == kDIEIN || t.kind == kRECV || t.kind == kCOMB || t.kind == kCOPY || isAlone t.kind

/-- First units that a step reads: its operands, and its weights when it has any. -/
def readsPool (t : Step) : List Nat :=
  if t.kind == kSTORE || t.kind == kDIEOUT || t.kind == kSEND || t.kind == kCOPY then [t.ua]
  else if t.kind == kCOMB then t.ua :: t.ub :: (if t.wa || t.wb then [t.uw] else [])
  else if isAlone t.kind then t.ua :: (if t.wa then [t.uw] else [])
  else []

/-- Pool format of unit `u` as the last step below `i` that writes it leaves it (R264). -/
def poolFmt (w c tf : Nat) (desc : List Step) : Nat → Nat → Nat
  | 0, _ => w
  | i + 1, u =>
    match desc[i]? with
    | none => w
    | some t =>
      let f := if t.kind == kDIEIN then tf else if t.kind == kCOPY then poolFmt w c tf desc i t.ua else t.fmt
      if writesPool t && t.uc ≤ u && u < t.uc + t.nchk * footprint w c f then f else poolFmt w c tf desc i u

/-- The chunk size, wire format and on-die format of a schedule. -/
def schedC (s : State) (x : Sched) : Nat := chunkBytes (s.group x.hdr.gid)

/-- Format of the chunks at unit `u` as step `i` meets them. -/
def fmtAt (s : State) (x : Sched) (q : Pass) (i u : Nat) : Nat := poolFmt x.wfmt (schedC s x) x.tfmt q.desc i u

/-- Format of the chunks that step `i` writes. -/
def outFmt (s : State) (x : Sched) (q : Pass) (i : Nat) (t : Step) : Nat :=
  if t.kind == kDIEIN then x.tfmt else if t.kind == kCOPY then fmtAt s x q i t.ua else t.fmt

/-- Units of chunk `j` at first unit `u`, in format `f`: first and number. -/
def unitsAt (s : State) (x : Sched) (f u j : Nat) : Nat × Nat :=
  let n := footprint x.wfmt (schedC s x) f
  (u + j * n, n)

/-- Two runs of units meet. -/
def meets (a b : Nat × Nat) : Bool := a.1 < b.1 + b.2 && b.1 < a.1 + a.2

/-- The units that chunk `j` of step `i` reads. A weight tensor is read chunk by chunk, one weight from its unit alone. -/
def readRuns (s : State) (x : Sched) (q : Pass) (i : Nat) (t : Step) (j : Nat) : List (Nat × Nat) :=
  (readsPool t).map fun u =>
    unitsAt s x (fmtAt s x q i u) u (if (t.wa || t.wb) && u == t.uw && u != t.ua && u != t.ub && t.ws then 0 else j)

/-- The units that chunk `j` of step `i` writes. -/
def writeRun (s : State) (x : Sched) (q : Pass) (i : Nat) (t : Step) (j : Nat) : List (Nat × Nat) :=
  if writesPool t then [unitsAt s x (outFmt s x q i t) t.uc j] else []

/-- Work that reads `rs` and writes `ws` need not wait for step `k` (R265). -/
def clearOf (s : State) (x : Sched) (q : Pass) (rs ws : List (Nat × Nat)) (k : Nat) : Bool :=
  match q.desc[k]?, q.steps[k]? with
  | some t, some r =>
    (List.range t.nchk).all fun j =>
      r.written.contains j ||
        !((writeRun s x q k t j).any (fun a => rs.any (meets a)) || (readRuns s x q k t j).any (fun a => ws.any (meets a)))
  | _, _ => true

/-- Chunk `j` of step `i` may be worked on: every lower-numbered step that writes what it reads has written it, and every
lower-numbered step that reads what it writes has finished with it (R265). -/
def ready (s : State) (x : Sched) (q : Pass) (i : Nat) (t : Step) (j : Nat) : Bool :=
  (List.range i).all (clearOf s x q (readRuns s x q i t j) (writeRun s x q i t j))

/-! ## The pool -/

/-- The chunk that begins at a unit. -/
def poolGet (q : Pass) (u : Nat) : Option PChunk := tabGet none q.units u

/-- Write a chunk into `n` units from `u`: what began inside them is gone. -/
def poolPut (u n : Nat) (v : PChunk) (q : Pass) : Pass :=
  { q with units := tabPut u (some v) (q.units.filter fun e => e.1 < u || u + n ≤ e.1) }

/-- Chunk `j` at first unit `u` as step `i` meets it. -/
def chunkAt (s : State) (x : Sched) (q : Pass) (i u j : Nat) : Option PChunk := poolGet q (unitsAt s x (fmtAt s x q i u) u j).1

/-- Elements of a full inter-chip chunk of a schedule. -/
def fullElems (s : State) (x : Sched) : Nat := wireElems x.wfmt (schedC s x)

/-- Elements of chunk `j` of a step. -/
def stepLen (s : State) (x : Sched) (t : Step) (j : Nat) : Nat :=
  if t.nel = 0 then fullElems s x else chunkLen (fullElems s x) t.nel j

/-- First element of chunk `j` of a step within its tensor. -/
def stepElem0 (s : State) (x : Sched) (t : Step) (j : Nat) : Nat := t.eoff + j * fullElems s x

/-- CSEQ of chunk `j` of a step. -/
def stepSeq (t : Step) (j : Nat) : Nat := t.cseq0 + j

/-- The work of a schedule runs under the S of its pass: an ISUM, or I80 on its wire (R117, R248; DEDUCED, log entry 104). -/
def usesPassS (x : Sched) : Bool :=
  match x.coll with
  | some d => dOp d == opISUM || x.wfmt == fmtI80 || (x.tfmt == fmtI80 && !(dMems d && dMemd d))
  | none => x.wfmt == fmtI80 || x.tfmt == fmtI80 || x.steps.any fun t => t.op == opISUM || t.fmt == fmtI80

/-- The context of a step: its S is that of the pass where the schedule has one (R118, R248), else its own (Table 3-4). -/
def stepCtx (x : Sched) (q : Pass) (t : Step) : BitVec 128 :=
  let c := x.hdr.ctx.getD t.ctx 0
  if usesPassS x then setFld c 8 9 (uns 9 (q.s.getD 0)) else c

/-- The collective that a schedule was built from is a SCALEPASS (R253). -/
def isScaleSched (x : Sched) : Bool := match x.coll with | some d => dColl d == cSCALEPASS | none => false

/-! ## Elements of chunks (R86, R124 to R127) -/

/-- Exact values of a chunk's elements; an I80 chunk's by R126. -/
def chunkVals (g : BitVec 32) (sx : Int) (c : PChunk) : List Exact :=
  let xs := match c.held with
    | none => decodeElems c.fmt sx g c.n c.data
    | some m => ((decodeElems c.fmt sx g m c.data).drop c.skip).take c.n
  if c.fmt == fmtI80 then i80Elems c.status 0 xs else xs

/-- Status word of a chunk from its own elements, with flags (R124); an I80 chunk's positions are given (R125). -/
def chunkStatus (f n : Nat) (data : List Byte) (i80 flags : BitVec 64) : BitVec 64 :=
  if f == fmtI80 then i80 ||| flags else posStatus 0 (decodeElems f 0 one32 n data) ||| flags

/-- A chunk made by a conversion. -/
def convChunk (f n : Nat) (r : Conv) : PChunk :=
  { fmt := f, n := n, data := r.bytes, status := chunkStatus f n r.bytes r.sw (addFlags 0 r.cvf 0), vanish := min 0xFFFF r.vanish }

/-! ## Memory requests (R217 to R221) -/

/-- Port of an address (R218). -/
def portOf (a : Nat) : Nat := a / 4096 % 16

/-- Bytes from `a` cut at 4 KiB boundaries; `k` bounds the blocks. -/
def spans : Nat → Nat → Nat → List (Nat × Nat)
  | 0, _, _ => []
  | k + 1, a, n =>
    if n = 0 then []
    else
      let m := min n (4096 - a % 4096)
      (a, m) :: spans k (a + m) (n - m)

/-- The requests that `n` bytes from `a` take (R218). -/
def spansOf (a n : Nat) : List (Nat × Nat) := spans (n / 4096 + 2) a n

/-- Beats of 128 bytes that a request covers. -/
def reqBeats (a n : Nat) : Nat := (a + n - 1) / 128 - a / 128 + 1

/-- Issue queued requests of a port while a tag is free: the lowest one (R218). -/
def issueTags : Nat → MemPort → MemPort
  | 0, m => m
  | k + 1, m =>
    match m.queue, lowest 256 (fun i => (tabGet none m.tags i).isNone) with
    | r :: rest, some i => issueTags k { m with queue := rest, tags := tabSet none m.tags i (some { r with data := if r.op = 1 then r.data else [] }), out := (i, r) :: m.out }
    | _, _ => m

/-- Marver issues nothing in block stop or reset (R309, R373). -/
def pumpMem (s : State) (port : Nat) : State :=
  if s.stopped then s else s.modMport port fun m => issueTags m.queue.length m

/-- Queue a request on its port. -/
def askMem (s : State) (port : Nat) (r : MemReq) : State := pumpMem (s.modMport port fun m => { m with queue := m.queue ++ [r] }) port

/-- Read `n` bytes from `a` for chunk `j` of a step; answers the number of requests. -/
def askRead (s : State) (n p i j gid a len : Nat) : State × Nat :=
  let ps := spansOf a len
  (ps.foldl (fun t e => askMem t (portOf e.1)
    { op := 0, addr := e.1, nb := reqBeats e.1 e.2, sched := n, pass := p, step := i, chunk := j, gid := gid, len := e.2, off := e.1 - a }) s, ps.length)

/-- Bytes of a write laid out in its beats, with the byte enables. -/
def beatsOfWrite (a : Nat) (bytes : List Byte) : List Byte × List Bool :=
  let pre := a % 128
  let tot := 128 * reqBeats a bytes.length
  let post := tot - pre - bytes.length
  (List.replicate pre 0 ++ bytes ++ List.replicate post 0,
   List.replicate pre false ++ List.replicate bytes.length true ++ List.replicate post false)

/-- Write bytes at `a` for chunk `j` of a step; answers the number of requests and the ports that carry them. -/
def askWrite (s : State) (n p i j gid a : Nat) (bytes : List Byte) : State × Nat × List Nat :=
  let ps := spansOf a bytes.length
  (ps.foldl (fun t e =>
    let b := beatsOfWrite e.1 ((bytes.drop (e.1 - a)).take e.2)
    askMem t (portOf e.1)
      { op := 1, addr := e.1, nb := reqBeats e.1 e.2, data := b.1, strb := b.2, sched := n, pass := p, step := i, chunk := j, gid := gid,
        len := e.2, off := e.1 - a }) s,
   ps.length, ps.map fun e => portOf e.1)

/-- A FENCE on each of the ports (R220); `step` names what waits for them: a NOTE step, or `finStep` for the end of the pass. -/
def askFences (s : State) (n p i gid : Nat) (ports : List Nat) : State :=
  ports.foldl (fun t m => askMem t m { op := 2, sched := n, pass := p, step := i, gid := gid }) s

/-- The number that stands for the end of a pass in place of a step. -/
def finStep : Nat := 1000000

/-! ## Loads (R222, R98, R127) -/

/-- Address and bytes in memory of elements `e0` to `e0 + n` of a tensor of format `f` at `base`, and the elements to skip before
them: a packed tensor moves whole page slots (R82, R222; log entry 21). -/
def tensorRange (f base e0 n : Nat) : Nat × Nat × Nat :=
  if isPacked f then
    let p := pageElems f
    let p0 := e0 / p
    (base + 4096 * p0, 4096 * (ceilDiv (e0 + n) p - p0), e0 - p * p0)
  else (base + e0 * elemBytes f, n * elemBytes f, 0)

/-- Base address of a step. -/
def stepBase (x : Sched) (t : Step) : Nat := x.hdr.base.getD t.buf 0 + t.off

/-- Elements of a step in all. -/
def stepTotal (s : State) (x : Sched) (t : Step) : Nat := if t.nel = 0 then t.nchk * fullElems s x else t.nel

/-- Put a step where its first element belongs. -/
def putByElem (e : Nat × Step) : List (Nat × Step) → List (Nat × Step)
  | [] => [e]
  | y :: r => if e.2.eoff ≤ y.2.eoff then e :: y :: r else y :: putByElem e r

/-- The steps of a pass that load from, or store into, the tensor of step `i`, by their first elements: those that firmware built
for one buffer of a posting, else the step alone (log entry 103). -/
def tensorSteps (x : Sched) (q : Pass) (i : Nat) (t : Step) : List (Nat × Step) :=
  if x.coll.isNone then [(i, t)]
  else
    let ts := (q.desc.zipIdx.map fun e => (e.2, e.1)).filter fun e => e.2.kind == t.kind && e.2.buf == t.buf && e.2.off == t.off && e.2.ctx == t.ctx
    ts.foldr putByElem []

/-- Elements of the tensor of step `i`. -/
def tensorEnd (s : State) (x : Sched) (q : Pass) (i : Nat) (t : Step) : Nat :=
  (tensorSteps x q i t).foldl (fun a e => max a (e.2.eoff + stepTotal s x e.2)) 0

/-- A chunk of `n` elements, `skip` of them before it in its page slots, is no run of whole pages. -/
def cutsPage (f n skip held : Nat) : Bool := isPacked f && !(skip == 0 && (n == held || n % pageElems f == 0))

/-- Convert `n` elements of a load from page slots that hold `held` of the tensor's, `skip` of them before the chunk: a page is read
by its own number of blocks (R81), and whole pages are copied (R98). A part of a page of INT8, INT4 or LUT4 has no copy, and nothing is
encoded into those (R78): its bytes are a free value, the `fr`-th (log entry 121). -/
def loadConv (fr : Nat) (c : BitVec 128) (n skip held : Nat) (bytes : List Byte) : Conv :=
  let cut := cutsPage (ctxSfmt c) n skip held
  if !isPacked (ctxSfmt c) || (isCopy c && !cut) then convert c n 0 0 bytes
  else if isIntIn (ctxDfmt c) then ⟨freeBytes fr (bytesOf (ctxDfmt c) n), 0, 0, 0⟩
  else
    let xs := ((decodeElems (ctxSfmt c) (ctxS c) (ctxG c) held bytes).drop skip).take n
    let r := encodeElems (ctxDfmt c) (ctxS c) (ctxGinv c) xs
    ⟨r.1, r.2.1, r.2.2, if ctxDfmt c == fmtI80 then posStatus 0 xs else 0⟩

/-- The bound of R120 in place of each FP32 element. -/
def boundBytes (n : Nat) (bytes : List Byte) : List Byte :=
  (List.range n).flatMap fun i => leBytes 4 (encodeFp fp32 (scaleBound (decodeFp fp32 (leAt bytes (4 * i) 4)))).1

/-- The chunk that a LOAD forms from the bytes read. A copy of packed weights whose chunk begins or ends inside a page keeps the page
slots as they are (R247), with the status word of its elements as R86 decodes them (R124). -/
def loadChunk (s : State) (x : Sched) (q : Pass) (i : Nat) (t : Step) (j : Nat) (bytes : List Byte) : PChunk × BitVec 8 :=
  let c := stepCtx x q t
  let f := ctxSfmt c
  let n := stepLen s x t j
  let a := tensorRange f 0 (stepElem0 s x t j) n
  let held := if isPacked f then min (a.2.1 / 4096 * pageElems f) (tensorEnd s x q i t - a.1 / 4096 * pageElems f) else n
  if isPacked f && isCopy c && f != x.wfmt then
    let ck : PChunk := { fmt := f, n := n, data := bytes, skip := a.2.2, held := some held }
    ({ ck with status := posStatus 0 (chunkVals one32 0 ck) }, 0)
  else
    let r := loadConv s.freeCtr c n a.2.2 held bytes
    let r1 := if isScaleSched x then { r with bytes := boundBytes n r.bytes } else r
    (convChunk (ctxDfmt c) n r1, r.cvf)

/-! ## Stores -/

/-- What a STORE of chunk `j` writes: address, bytes, flags, vanished elements, and the status words of the elements written, by the CSEQ
of the chunks that hold them (R222). -/
structure StoreOut where
  addr : Nat
  bytes : List Byte
  cvf : BitVec 8
  vanish : Nat
  sws : List (Nat × BitVec 64)
  deriving DecidableEq, Repr

/-- A STORE encodes pages, from the elements of the tensor that its chunks and those of its neighbours hold (R98, R222): into an MX
format, but for copied pages that no block's border cuts. -/
def encodesPages (x : Sched) (q : Pass) (i : Nat) (t : Step) : Bool :=
  let c := stepCtx x q t
  isPacked (ctxDfmt c) && (!isCopy c || (isMX (ctxDfmt c) && (tensorSteps x q i t).any fun e => e.2.eoff % pageElems (ctxDfmt c) != 0))

/-- Pages that chunk `j` of a STORE writes: first and past the last. They are those whose last element it holds. -/
def storePages (s : State) (x : Sched) (q : Pass) (i : Nat) (t : Step) (j : Nat) : Nat × Nat :=
  let p := pageElems (ctxDfmt (stepCtx x q t))
  let e0 := stepElem0 s x t j
  let e1 := e0 + stepLen s x t j
  let m := tensorEnd s x q i t
  (e0 / p, if m ≤ e1 then ceilDiv m p else e1 / p)

/-- Chunks of the tensor's STORE steps that hold elements `a` to `b` - 1, in the order of their elements. -/
def chunksOver (s : State) (x : Sched) (q : Pass) (i : Nat) (t : Step) (a b : Nat) : List (Nat × Step × Nat) :=
  (tensorSteps x q i t).flatMap fun e =>
    ((List.range e.2.nchk).filter fun k =>
      let e0 := stepElem0 s x e.2 k
      e0 < b && a < e0 + stepLen s x e.2 k).map fun k => (e.1, e.2, k)

/-- What a STORE of chunk `j` needs in the pool: the chunk, and the chunks of the pages that it writes. -/
def storeNeeds (s : State) (x : Sched) (q : Pass) (i : Nat) (t : Step) (j : Nat) : List (Nat × Step × Nat) :=
  if encodesPages x q i t then
    let p := pageElems (ctxDfmt (stepCtx x q t))
    let g := storePages s x q i t j
    (i, t, j) :: chunksOver s x q i t (g.1 * p) (g.2 * p)
  else [(i, t, j)]

/-- A SCALEPASS result in memory: R, and S in bits [40:32] (R246). -/
def scaleBytes (r : BitVec 32) : List Byte := leBytes 8 (pack 64 [(0, 32, r.toNat), (32, 9, uns 9 (scaleOf r))] : BitVec 64).toNat

/-- The bytes that chunk `j` of a STORE writes, from the chunks in the pool. -/
def storeOut (s : State) (x : Sched) (q : Pass) (i : Nat) (t : Step) (j : Nat) : Option StoreOut :=
  match chunkAt s x q i t.ua j with
  | none => none
  | some ck =>
    let c := stepCtx x q t
    let df := ctxDfmt c
    let base := stepBase x t
    let e0 := stepElem0 s x t j
    if isScaleSched x then some ⟨base, scaleBytes (BitVec.ofNat 32 (leAt ck.data 0 4)), 0, 0, []⟩
    else if encodesPages x q i t then
      let p := pageElems df
      let g := storePages s x q i t j
      let p0 := g.1
      let cs := chunksOver s x q i t (p0 * p) (g.2 * p)
      let v0 := match cs with | e :: _ => stepElem0 s x e.2.1 e.2.2 | [] => 0
      let vals := cs.flatMap fun e => match chunkAt s x q e.1 e.2.1.ua e.2.2 with | some y => chunkVals (ctxG c) (ctxS c) y | none => []
      let m := tensorEnd s x q i t
      let ps := (List.range (g.2 - p0)).map fun k =>
        let b := (p0 + k) * p
        encodePage df ((vals.drop (b - v0)).take (min p (m - b))) (ctxGinv c)
      let back := ps.zipIdx.flatMap fun y => decodeElems df 0 one32 (min p (m - (p0 + y.2) * p)) (padTo y.1.1 4096)
      let sws := cs.map fun e =>
        let f0 := stepElem0 s x e.2.1 e.2.2
        let lo := max f0 (p0 * p)
        (stepSeq e.2.1 e.2.2, posStatus (lo - f0) ((back.drop (lo - p0 * p)).take (f0 + stepLen s x e.2.1 e.2.2 - lo)))
      some ⟨base + 4096 * p0, ps.flatMap (fun y => padTo y.1 4096), ps.foldl (fun a y => a ||| y.2.1) 0, ps.foldl (fun a y => a + y.2.2) 0, sws⟩
    else
      let r := convert c ck.n ck.status 0 ck.data
      some ⟨(tensorRange df base e0 ck.n).1, r.bytes, r.cvf, r.vanish, [(stepSeq t j, chunkStatus df ck.n r.bytes r.sw 0)]⟩

/-! ## The completion record (R240, R241) -/

/-- Merge conversion flags and vanished elements. -/
def recConv (cvf : BitVec 8) (van : Nat) (r : PassRec) : PassRec := { r with cvf := r.cvf ||| cvf, vanish := satAdd 0xFFFFFFFF r.vanish van }

/-- The earlier of two first NaNs. -/
def firstNan (a b : Option (BitVec 32 × Nat)) : Option (BitVec 32 × Nat) :=
  match a, b with
  | some v, some w => if w.1.toNat < v.1.toNat || (w.1 == v.1 && w.2 < v.2) then b else a
  | none, _ => b
  | _, none => a

/-- Merge of what two steps contribute. -/
def mergeRec (a b : PassRec) : PassRec :=
  { cvf := a.cvf ||| b.cvf, afl := a.afl ||| b.afl, nv := firstNan a.nv b.nv, vanish := satAdd 0xFFFFFFFF a.vanish b.vanish }

/-- Merge the status word of a result chunk; the first NaN is that of the lowest CSEQ, then the lowest position (R240). -/
def recResult (cseq : Nat) (sw : BitVec 64) (r : PassRec) : PassRec :=
  mergeRec r { afl := BitVec.ofNat 7 (fld sw 48 7), cvf := BitVec.ofNat 8 (fld sw 56 8),
               nv := if bit sw 21 then some (BitVec.ofNat 32 cseq, fld sw 0 21) else none }

/-- Slices in service. -/
def liveSlices (s : State) : Nat := ((List.range 16).filter fun i => !(s.sliceOf i).retired).length

/-- The 32-byte record of Table 8-9; TBEND and LIVE are those of the pass's end, at which its last step completed (R265). -/
def passRecord (s : State) (x : Sched) (q : Pass) : List Byte :=
  let at' := q.closed.getD (s.tb, liveSlices s)
  let r := q.steps.foldl (fun a t => mergeRec a t.crec) {}
  let nv := r.nv.getD (0, 0)
  leBytes 32 (pack 256
    [(0, 32, q.cid.toNat), (32, 12, x.hdr.gid), (44, 3, q.res.code), (48, 16, q.epoch.toNat), (64, 8, r.cvf.toNat), (72, 7, r.afl.toNat),
     (79, 1, b2n r.nv.isSome), (80, 32, nv.1.toNat), (112, 21, nv.2), (136, 32, r.vanish),
     (168, 5, at'.2), (192, 64, at'.1)] : BitVec 256).toNat

/-! ## Reservations (R216) -/

/-- Give the waiting passes their reservations in order; a later pass overtakes only one that has waited less than 100 us. -/
def reserve : List (Nat × Nat) → State → State
  | [], s => s
  | (n, p) :: r, s =>
    match s.sched n, s.pass n p with
    | some x, some q =>
      if x.hdr.units ≤ s.mrv.freeUnits then
        let t := modPass s n p fun q => { q with reserved := true }
        reserve r { t with mrv := { t.mrv with freeUnits := t.mrv.freeUnits - x.hdr.units, order := t.mrv.order.filter (· != (n, p)) } }
      else if q.aged || q.since + 100000 ≤ s.tb then s
      else reserve r s
    | _, _ => reserve r { s with mrv := { s.mrv with order := s.mrv.order.filter (· != (n, p)) } }

/-- Passes that wait are tried again. -/
def reserveAll (s : State) : State := reserve s.mrv.order s

/-- The last step of a pass has completed: the count and the live slices are those of its record, and its whole reservation is free (R216,
R241, R265). -/
def closePass (s : State) (n p : Nat) : State :=
  match s.sched n, s.pass n p with
  | some x, some q =>
    if q.closed.isNone && q.steps.all (fun r => r.completed) then
      let t := modPass s n p fun q => { q with closed := some (s.tb, liveSlices s) }
      { t with mrv := { t.mrv with freeUnits := t.mrv.freeUnits + (if q.reserved then x.hdr.units else 0) } }
    else s
  | _, _ => s

/-- A pass leaves its schedule: its reservation is free if its end has not freed it, its slices drop its pieces, a one-shot schedule's number returns to the
pool (R216, R239, R261). -/
def dropPass (s : State) (n p : Nat) : State :=
  match s.sched n, s.pass n p with
  | some x, some q =>
    let s1 := s.modSched n fun y => { y with passes := y.passes.filter fun z => z.p != p }
    let s2 : State := { s1 with mrv := { s1.mrv with
      freeUnits := s1.mrv.freeUnits + (if q.reserved && q.closed.isNone then x.hdr.units else 0)
      order := s1.mrv.order.filter (· != (n, p))
      redo := s1.mrv.redo.filter fun e => e.1.sched != n || e.1.pass != p
      slices := tabMap {} (fun _ y => match y.piece with
        | some c => if c.sched == n && c.pass == p then { y with piece := none } else y
        | none => y) s1.mrv.slices } }
    let s3 := if x.oneShot then s2.setSched n none else s2
    reserveAll s3
  | _, _ => s

end Sys2Proof.Machine
end

