-- ==== Sys2Proof/Machine/HostCmds.lean ====
section
/-! DEFINITION. Commands of the host window (R394 to R406): registers, mailbox command areas, messages, the Cane host leg, slots. -/
namespace Sys2Proof.Machine

/-- The port accepts accesses: not from the assertion of a cold reset to the end of step 1 of its boot (R394). -/
def hostLive (s : State) : Bool := s.boot.rst != some .cold && !s.boot.testMode

/-- The anchor in force: the valid one with the higher ASEQ (R356). -/
def anchorOf (s : State) : Option Anchor :=
  match tabGet none s.lehr.anchors 0, tabGet none s.lehr.anchors 1 with
  | some a, some b => if b.aseq.toNat < a.aseq.toNat then some a else some b
  | some a, none => some a
  | none, b => b

/-- Number of the other anchor sector: the one that does not hold the anchor in force (R356). -/
def otherAnchor (s : State) : Nat :=
  match tabGet none s.lehr.anchors 0, tabGet none s.lehr.anchors 1 with
  | some a, some b => if b.aseq.toNat < a.aseq.toNat then 1 else 0
  | some _, none => 1
  | none, _ => 0

/-- The running image is that of slot B; from its ROM Gaffer runs none (Table 16-4). -/
def runsB (s : State) : Bool := s.gaf.fwRun && s.gaf.run

/-- The slot that is not running, which FW_UPDATE writes; from the ROM, the one that SEL does not name (R347, log entry 43). -/
def idleSlot (s : State) : Bool := if s.gaf.fwRun then !s.gaf.run else !((anchorOf s).map (·.sel)).getD false

/-- Lehr's anchors have been read at this boot. -/
def anchorsRead (s : State) : Bool := 2 ≤ s.boot.stage && !s.lehr.absent

/-- Bits of a word whose number satisfies a condition. -/
def bitsOf (n : Nat) (f : Nat → Bool) : BitVec n := pack n ((List.range n).map fun i => (i, 1, b2n (f i)))

/-- A Cullet entry (Table 11-4). -/
def entryWord (e : Entry) : BitVec 256 :=
  let v := e.ev
  pack 256
    [(0, 64, e.tb), (64, 16, v.code.num), (80, 3, v.cls), (83, 1, b2n v.gid.isSome), (84, 1, b2n v.soid.isSome), (85, 1, b2n v.waiter.isSome),
     (86, 1, b2n v.chunk), (88, 4, v.skind), (92, 16, v.sidx), (108, 12, v.gid.getD 0), (120, 8, v.rep), (128, 16, v.epoch.toNat),
     (144, 15, v.soid.getD 0), (160, 16, v.waiter.getD 0), (176, 32, v.cseq.toNat), (208, 32, v.cid.toNat), (240, 16, v.detail.toNat)]

/-- Present cores (R24). -/
def presentCores (s : State) : Nat := 5120 - ((List.range 5120).filter fun k => bit s.boot.absent k).length

/-- The response header as it reads, with FULL, DONE and OVR (Table 12-2). -/
def rspWord (m : Mailbox) (o : Nat) : BitVec 64 :=
  let w := BitVec.ofNat 64 (fld m.rsp (8 * o) 64)
  if o = 8 then w ||| pack 64 [(32, 1, b2n m.full), (33, 1, b2n m.done), (34, 1, b2n m.ovr)] else w

/-- A mailbox that the host can reach (R326). -/
def mbReached (n : Nat) : Bool := n != 1 && n < 66

/-- Word at an offset of the mailbox area. -/
def mbRead (s : State) (off : Nat) : BitVec 64 :=
  let n := (off - 0x1000) / 0x200
  let o := (off - 0x1000) % 0x200
  if !mbReached n then 0
  else if o < 0x100 then BitVec.ofNat 64 (fld (s.mbox n).cmd (8 * o) 64)
  else rspWord (s.mbox n) (o - 0x100)

/-- UW_STATUS (Table 16-6). -/
def statusWord (s : State) : BitVec 64 :=
  pack 64
    [(0, 2, s.boot.level.code), (2, 1, b2n s.flt.bstop), (3, 1, b2n s.flt.c4), (4, 1, b2n s.boot.lehrLimp), (5, 1, b2n s.boot.placed),
     (6, 1, b2n s.boot.brake), (7, 1, b2n (s.boot.b < 64)), (8, 7, s.boot.b), (15, 1, b2n s.boot.h0slow), (16, 1, b2n s.boot.h1slow),
     (17, 4, s.boot.wave), (21, 1, b2n s.boot.tbsub), (22, 1, b2n s.gaf.restart)]

/-- UW_FSUM (Table 16-18). -/
def fsumWord (s : State) : BitVec 64 :=
  pack 64
    [(0, 1, b2n s.flt.c2pend), (1, 1, b2n (!s.flt.timers.isEmpty)), (2, 1, b2n s.flt.bstop), (3, 1, b2n s.flt.c4), (4, 1, b2n s.flt.fatal),
     (5, 1, b2n (!s.faultLow)), (6, 1, b2n s.flt.frozen), (7, 1, b2n (s.flt.fcount.isSome && !s.flt.frozen)), (8, 16, s.flt.lastf.toNat)]

/-- UW_SLOT_STAT (Table 16-33). -/
def slotStat (x : Slot) : BitVec 64 :=
  pack 64
    [(0, 32, x.count), (32, 16, x.gen.toNat), (48, 2, x.st.code), (50, 1, b2n x.soid.isSome), (51, 1, b2n x.busy), (52, 4, x.res.code),
     (56, 1, b2n x.inte), (57, 1, b2n x.ip)]

/-- The host leg of a channel has arrived and awaits its release (Table 16-27). -/
def hostArrived (s : State) (cn : Nat) : Bool := hostMember s cn && (s.cchan cn).hostLeg == caneTarget (s.cchan cn)

/-- Words at the identity, global, fault and Cane offsets (Tables 16-3 to 16-31). -/
def hostRead (s : State) (off : Nat) : BitVec 64 :=
  let a := anchorOf s
  if off = 0x000 then pack 64 [(0, 16, 0x47D1), (16, 16, 0x5502), (32, 16, 0x0A02), (48, 8, s.gaf.vmin), (56, 8, s.gaf.vmaj)]
  else if off = 0x008 then
    pack 64 [(0, 32, s.gaf.build.toNat), (32, 1, b2n (runsB s)), (33, 1, if anchorsRead s then b2n ((a.map (·.sel)).getD false) else 0),
             (34, 1, b2n s.gaf.fwRun), (35, 2, if anchorsRead s then ((a.map fun x => x.val.toNat)).getD 0 else 0)]
  else if off = 0x010 then
    pack 64 [(0, 13, if 2 ≤ s.boot.stage then presentCores s else 0), (13, 5, liveSlices s), (21, 5, if anchorsRead s then s.lehr.dlog else 0)]
  else if off = 0x100 then statusWord s
  else if off = 0x108 then
    (if s.boot.placed then
      pack 64 [(0, 8, s.boot.x), (8, 8, s.boot.y), (16, 8, s.boot.z), (24, 8, s.boot.nx), (32, 8, s.boot.ny), (40, 8, s.boot.nz), (48, 12, s.self)]
     else 0)
  else if off = 0x110 then BitVec.ofNat 64 s.tb
  else if off = 0x118 then pack 64 [(0, 8, s.boot.cap), (8, 16, s.boot.est), (24, 20, s.flt.tesc)]
  else if off = 0x120 then pack 64 [(0, 1, b2n s.host.msgen)]
  else if off = 0x128 then s.host.msgAddr
  else if off = 0x130 then pack 64 [(16, 16, s.host.dbase.toNat)]
  else if off = 0x140 then BitVec.ofNat 64 (fld s.host.mbie 0 64)
  else if off = 0x148 then BitVec.ofNat 64 (fld s.host.mbie 64 8)
  else if off = 0x150 then BitVec.ofNat 64 (fld s.host.mbip 0 64)
  else if off = 0x158 then BitVec.ofNat 64 (fld s.host.mbip 64 8)
  else if off = 0x160 then bitsOf 64 fun i => (s.mbox i).done
  else if off = 0x168 then bitsOf 64 fun i => decide (i < 8) && (s.mbox (64 + i)).done
  else if off = 0x170 then
    pack 64 [(0, 1, b2n s.host.herrAddr), (1, 1, b2n s.host.herrSize), (2, 1, b2n s.host.herrWro), (3, 1, b2n s.host.herrMbx),
             (32, 17, s.host.lastoff.toNat)]
  else if off = 0x400 then fsumWord s
  else if off = 0x408 then pack 64 [(0, 5, s.host.fie.toNat)]
  else if off = 0x410 then pack 64 [(0, 5, s.host.fip.toNat)]
  else if off = 0x418 then pack 64 [(0, 32, s.flt.total), (32, 16, s.flt.drop)]
  else if off = 0x420 then pack 64 [(0, 7, s.flt.ring.length), (8, 32, s.flt.wseq.toNat)]
  else if off = 0x428 then pack 64 [(0, 6, s.host.csel.toNat), (16, 32, s.host.cselSeq.toNat)]
  else if 0x440 ≤ off && off < 0x460 then BitVec.ofNat 64 (fld s.host.cent (8 * (off - 0x440)) 64)
  else if off = 0x808 then pack 64 [(0, 4, s.host.caneSt.code), (4, 6, s.host.caneStCn)]
  else if off = 0x810 then bitsOf 64 (hostArrived s)
  else if off = 0x818 then bitsOf 64 fun i => (s.cchan i).inte
  else if off = 0x820 then s.host.caneIp
  else if off = 0x828 then pack 64 [(0, 6, s.host.caneSel.toNat)]
  else if off = 0x830 then caneRecord s s.host.caneSel.toNat
  else if 0x1000 ≤ off && off < 0xA000 then mbRead s off
  else if 0x10000 ≤ off && off % 16 == 8 then slotStat (s.slot ((off - 0x10000) / 16))
  else 0

/-- Offsets at which a register stands (Table 16-2). -/
def hostDefined (off : Nat) : Bool :=
  off < 0x018 || (0x100 ≤ off && off < 0x138) || (0x140 ≤ off && off < 0x178) || (0x400 ≤ off && off < 0x430) ||
  (0x440 ≤ off && off < 0x460) || (0x800 ≤ off && off < 0x838) || (0x1000 ≤ off && off < 0xA000) || (0x10000 ≤ off && off < 0x20000)

/-- Registers whose fields are all RO (R397, R402). -/
def hostReadOnly (off : Nat) : Bool :=
  off < 0x018 || off = 0x100 || off = 0x108 || off = 0x110 || off = 0x118 || off = 0x160 || off = 0x168 || off = 0x418 || off = 0x420 ||
  (0x440 ≤ off && off < 0x460) || off = 0x808 || off = 0x810 || off = 0x818 || off = 0x830 ||
  (0x1000 ≤ off && off < 0xA000 && 0x110 ≤ (off - 0x1000) % 0x200)

/-- Accesses that are commands of their own: actions of a write that includes byte 7, clears of pending bits, halves of UW_TB. -/
def hostAction (we : Bool) (off : Nat) (be : BitVec 8) : Bool :=
  if we then
    off = 0x120 || off = 0x150 || off = 0x158 || off = 0x400 || off = 0x410 || off = 0x428 || off = 0x820 ||
    ((off = 0x800 || (0x10000 ≤ off && off % 16 == 0)) && be != 0x0F) || (0x10000 ≤ off && off % 16 == 8)
  else off = 0x110 && ((fld be 0 4 == 0) != (fld be 4 4 == 0))

/-- An address in the command area of a mailbox. -/
def inCmdArea (off : Nat) : Bool := 0x1000 ≤ off && off < 0xA000 && (off - 0x1000) % 0x200 < 0x100

/-- Byte enables as a mask of bits. -/
def beMask (be : BitVec 8) : BitVec 64 := pack 64 ((List.range 8).map fun i => (8 * i, 8, if bit be i then 255 else 0))

/-- A word with the enabled bytes replaced. -/
def mergeBytes (old new : BitVec 64) (be : BitVec 8) : BitVec 64 := (old &&& ~~~beMask be) ||| (new &&& beMask be)

/-- Bits of UW_MBIE that are not reserved. -/
def mbieMask : BitVec 72 := BitVec.ofNat 72 (2 ^ 66 - 1 - 2)

/-- A write stored in a register with no action of its own (R9, R395 to R397, R402). -/
def hostStore (s : State) (off : Nat) (be : BitVec 8) (d : BitVec 64) : State :=
  let h := s.host
  let w := d &&& beMask be
  let v := mergeBytes (hostRead s off) d be
  if off = 0x128 then { s with host := { h with msgAddr := setFld v 0 2 0 } }
  else if off = 0x130 then { s with host := { h with dbase := BitVec.ofNat 16 (fld v 16 16) } }
  else if off = 0x140 then { s with host := { h with mbie := setFld h.mbie 0 64 v.toNat &&& mbieMask } }
  else if off = 0x148 then { s with host := { h with mbie := setFld h.mbie 64 8 (fld v 0 8) &&& mbieMask } }
  else if off = 0x170 then
    { s with host := { h with herrAddr := h.herrAddr && !bit w 0, herrSize := h.herrSize && !bit w 1,
                              herrWro := h.herrWro && !bit w 2, herrMbx := h.herrMbx && !bit w 3 } }
  else if off = 0x408 then { s with host := { h with fie := BitVec.ofNat 5 (fld v 0 5) } }
  else if off = 0x800 then { s with host := { h with caneLo := BitVec.ofNat 32 (fld d 0 32) } }
  else if off = 0x828 then { s with host := { h with caneSel := BitVec.ofNat 6 (fld v 0 6) } }
  else if 0x1000 ≤ off && off < 0xA000 then
    (if (off - 0x1000) % 0x200 == 0x108 then
      s.modMbox ((off - 0x1000) / 0x200) fun m => { m with done := m.done && !bit w 33, ovr := m.ovr && !bit w 34 }
     else s)
  else if 0x10000 ≤ off && off % 16 == 0 then s.modSlot ((off - 0x10000) / 16) fun x => { x with opLo := BitVec.ofNat 32 (fld d 0 32) }
  else s

/-- A bit of UW_HERR, with the offset (Table 16-10). -/
def hostErr (s : State) (off : Nat) (f : HostWin → HostWin) : State := { s with host := { f s.host with lastoff := BitVec.ofNat 17 off } }

/-- Enables accepted at every offset (R395). -/
def beWhole (be : BitVec 8) : Bool := be == 0x0F || be == 0xF0 || be == 0xFF

/-- One access to a register with no action of its own (R395 to R397); in test mode UW_ID alone answers (R416). -/
def hostAccess (s : State) (we : Bool) (off0 : Nat) (be : BitVec 8) (d : BitVec 64) : State :=
  let off := off0 / 8 % 0x4000 * 8
  if s.boot.testMode && s.boot.rst != some .cold && !we && off = 0 then { s with host := { s.host with rdata := hostRead s 0 } }
  else if !hostLive s then s
  else if !we then
    (if hostAction false off be then s
     else
      let t : State := { s with host := { s.host with rdata := hostRead s off } }
      if hostDefined off then t else hostErr t off fun h => { h with herrAddr := true })
  else if inCmdArea off then s
  else if !beWhole be then hostErr s off fun h => { h with herrSize := true }
  else if !hostDefined off then hostErr s off fun h => { h with herrAddr := true }
  else if 0x1000 ≤ off && off < 0xA000 && !mbReached ((off - 0x1000) / 0x200) then hostErr s off fun h => { h with herrMbx := true }
  else if hostReadOnly off then hostErr s off fun h => { h with herrWro := true }
  else if hostAction true off be then s
  else hostStore s off be d

/-- HOST_REG_WRITE (R395 to R397, R402). -/
def execHostRegWrite (we : Bool) (off : Nat) (be : BitVec 8) (data : BitVec 64) (s : State) : Host.Outcome State Fault Refusal :=
  answer (.hostRegWrite we off be data) (hostAccess s we off be data)

/-- A write in a command area: stored byte by byte; header byte 12 sets FULL and clears DONE; while FULL it sets OVR (R326, R328). -/
def mbWrite (s : State) (mb off0 : Nat) (be : BitVec 8) (d : BitVec 64) : State :=
  let off := off0 / 8 * 8
  if !hostLive s then s
  else if !mbReached mb then hostErr s (0x1000 + 0x200 * mb + off) fun h => { h with herrMbx := true }
  else if (s.mbox mb).full then s.modMbox mb fun m => { m with ovr := true }
  else s.modMbox mb fun m =>
    let v := mergeBytes (BitVec.ofNat 64 (fld m.cmd (8 * off) 64)) d be
    let m1 := { m with cmd := setFld m.cmd (8 * off) 64 v.toNat }
    if off = 8 && bit be 4 then { m1 with full := true, done := false } else m1

/-- MB_CMD_WRITE (R328, R395). -/
def execMbCmdWrite (mb off : Nat) (be : BitVec 8) (data : BitVec 64) (s : State) : Host.Outcome State Fault Refusal :=
  answer (.mbCmdWrite mb off be data) (mbWrite s mb off be data)

/-- TB_READ_LOW (R396): a read of UW_TB with bytes 0-3 latches bytes 4-7. -/
def execTbReadLow (s : State) : Host.Outcome State Fault Refusal :=
  answer .tbReadLow (if hostLive s then
    { s with host := { s.host with rdata := BitVec.ofNat 64 s.tb, tbLatch := some (BitVec.ofNat 32 (s.tb / 2 ^ 32)) } } else s)

/-- TB_READ_HIGH (R396): a read of bytes 4-7 alone returns the latched value and clears the latch. -/
def execTbReadHigh (s : State) : Host.Outcome State Fault Refusal :=
  answer .tbReadHigh (if hostLive s then
    let v : BitVec 64 := BitVec.ofNat 64 s.tb
    { s with host := { s.host with
        rdata := match s.host.tbLatch with | some x => setFld v 32 32 x.toNat | none => v
        tbLatch := none } } else s)

/-- MSGCTL_WRITE (R401): MSGEN takes bit 0; held messages leave at the edges that follow. -/
def execMsgctlWrite (data : BitVec 64) (s : State) : Host.Outcome State Fault Refusal :=
  answer (.msgctlWrite data) (if hostLive s then { s with host := { s.host with msgen := bit data 0 } } else s)

/-- Clear the pending bits of the sources written 1 (R152, R401). -/
def clearSrcs (s : State) (srcs : List Nat) : State := srcs.foldl msgClear s

/-- Numbers of the bits that are 1. -/
def onesOf {n : Nat} (x : BitVec n) : List Nat := (List.range n).filter fun i => bit x i

/-- MBIP_CLEAR (R152): half `hi` of UW_MBIP. -/
def execMbipClear (hi : Bool) (data : BitVec 64) (s : State) : Host.Outcome State Fault Refusal :=
  answer (.mbipClear hi data) (if hostLive s then
    clearSrcs s (((onesOf data).filter fun i => !hi || decide (i < 8)).map fun i => srcMb + i + (if hi then 64 else 0)) else s)

/-- FIP_CLEAR (R152). -/
def execFipClear (data : BitVec 64) (s : State) : Host.Outcome State Fault Refusal :=
  answer (.fipClear data) (if hostLive s then clearSrcs s (((onesOf data).filter (· < 5)).map (srcFault + ·)) else s)

/-- CANE_IP_CLEAR (R152). -/
def execCaneIpClear (data : BitVec 64) (s : State) : Host.Outcome State Fault Refusal :=
  answer (.caneIpClear data) (if hostLive s then clearSrcs s ((onesOf data).map (srcCane + ·)) else s)

/-- SLOT_IP_CLEAR (R152). -/
def execSlotIpClear (slot : Nat) (s : State) : Host.Outcome State Fault Refusal :=
  answer (.slotIpClear slot) (if hostLive s then msgClear s slot else s)

/-- C2PEND_CLEAR (R316). -/
def execC2pendClear (s : State) : Host.Outcome State Fault Refusal :=
  answer .c2pendClear (if hostLive s then { s with flt := { s.flt with c2pend := false } } else s)

/-- CSEL_WRITE (R403): the entry of that age is copied into UW_CENT, with its SEQ. -/
def execCselWrite (data : BitVec 64) (s : State) : Host.Outcome State Fault Refusal :=
  answer (.cselWrite data) (if hostLive s then
    let e := s.flt.ring[fld data 0 6]?
    { s with host := { s.host with
        csel := BitVec.ofNat 6 (fld data 0 6)
        cent := match e with | some x => entryWord x | none => 0
        cselSeq := match e with | some x => x.wseq | none => 0 } } else s)

/-- Status of a host arrival (R404). -/
def hostCaneStatus (s : State) (cn : Nat) : St :=
  let c := s.cchan cn
  if !hostMember s cn || c.lost then .denied
  else if !bootBarrier s cn && !(match c.bound with | some g => (s.group g).st == .enabled | none => false) then .conflict
  else if c.hostLeg == caneTarget c then .conflict
  else .ok

/-- The host leg arrives (R161, R404). -/
def hostCaneArrive (s : State) (w : BitVec 64) : State :=
  let cn := fld w 0 6
  let st := hostCaneStatus s cn
  let t : State := { s with host := { s.host with caneLo := BitVec.ofNat 32 (fld w 0 32), caneSt := st, caneStCn := cn } }
  if st = .ok then t.modCchan cn fun c => { c with hostLeg := caneTarget c } else t

/-- UW_CANE_ARRIVE (R404): a write that includes byte 7. -/
def execUwCaneArrive (data : BitVec 64) (s : State) : Host.Outcome State Fault Refusal :=
  answer (.uwCaneArrive data) (if hostLive s then hostCaneArrive s data else s)

/-! ## Sync host slots (R151, R405) -/

/-- An operation written to a slot (R405). DESIGN CHOICE (log entry 115): the host may operate on an object of another chip (R149), but no
field of a slot or of the host window names a chip and a group, so the operation is on this chip's object. -/
def slotOp (s : State) (n : Nat) (kind : SoOpKind) (w : BitVec 64) : State :=
  let x := s.slot n
  let opnd := fld w 32 32
  if !hostLive s || fld w 0 2 != soOpCode kind then s
  else
    let t := s.modSlot n fun y => { y with opLo := BitVec.ofNat 32 (fld w 0 32) }
    match x.soid with
    | none => t.modSlot n fun y => { y with res := .denied }
    | some i =>
      if x.busy || !soReady s then t.modSlot n fun y => { y with res := .busy }
      else if kind = .arrive && (opnd == 0 || 65535 < opnd) then t.modSlot n fun y => { y with res := .range }
      else
        sendOp (t.modSlot n fun y => { y with busy := true, next := none })
          { soid := i, kind := kind, opnd := opnd, tid := x.tid, tag := some x.tag, caller := .host n }

/-- SLOT_ARRIVE (R405). -/
def execSlotArrive (slot : Nat) (w : BitVec 64) (s : State) : Host.Outcome State Fault Refusal :=
  answer (.slotArrive slot w) (slotOp s slot .arrive w)

/-- SLOT_SIGNAL (R405). -/
def execSlotSignal (slot : Nat) (w : BitVec 64) (s : State) : Host.Outcome State Fault Refusal :=
  answer (.slotSignal slot w) (slotOp s slot .signal w)

/-- SLOT_RESET (R405). -/
def execSlotReset (slot : Nat) (w : BitVec 64) (s : State) : Host.Outcome State Fault Refusal :=
  answer (.slotReset slot w) (slotOp s slot .reset w)

/-- SLOT_READ (R405). -/
def execSlotRead (slot : Nat) (w : BitVec 64) (s : State) : Host.Outcome State Fault Refusal :=
  answer (.slotRead slot w) (slotOp s slot .read w)

/-- Unmap a slot: every field to its reset value, its held message discarded (R406). -/
def slotUnmap (s : State) (n : Nat) : State := (msgDiscard s n).modSlot n fun _ => {}

/-- A slot operation has taken effect at its object: BUSY falls and ST is set; a deferred unmap takes effect (R405, R406). -/
def slotDone (s : State) (n : Nat) : State :=
  let x := s.slot n
  match x.next, x.soid with
  | some st, some i =>
    if !x.busy then s
    else if x.unmap then slotUnmap s n
    else
      let o := s.obj i
      s.modSlot n fun y => { y with busy := false, next := none, res := st, count := o.count, gen := o.gen, st := o.st }
  | _, _ => s

/-- SLOT_OP_DONE (R405, R406). -/
def execSlotOpDone (slot : Nat) (s : State) : Host.Outcome State Fault Refusal := answer (.slotOpDone slot) (slotDone s slot)

end Sys2Proof.Machine
end

