-- ==== Sys2Proof/Machine/LehrOps.lean ====
section
/-! DEFINITION. Lehr, the persistent store (13): frames, records, the log, the flash operations and their order. -/
namespace Sys2Proof.Machine

/-! ## Frames and records (R353, R354) -/

/-- Frames of a record: 491 bytes of record data each, the 16-byte record header included. -/
def recFrames (r : Record) : Nat := ceilDiv (16 + r.payload.length) 491

/-- The data of a record: header of Table 13-4, payload, zeros to the end of its last frame. -/
def recData (r : Record) : List Byte :=
  padTo (leBytes 4 (r.kind + 256) ++ leBytes 4 r.payload.length ++ leBytes 4 (crc32c r.payload).toNat ++ leBytes 4 0 ++ r.payload) (491 * recFrames r)

/-- Frame `i` of a record (Table 13-3). -/
def recFrame (r : Record) (i : Nat) : List Byte :=
  let d := [0xB5, BitVec.ofNat 8 i, BitVec.ofNat 8 (recFrames r)] ++ leBytes 5 r.rsn ++ slice (recData r) (491 * i) 491
  d ++ bchParity d

/-- The bytes of a record. -/
def recBytes (r : Record) : List Byte := (List.range (recFrames r)).flatMap (recFrame r)

/-! ## Layout of the log (R352, R357) -/

/-- Number of log sectors, and the offset of one. -/
def logSectors (dlog : Nat) : Nat := (2 ^ dlog - 0x220000) / 65536
def sectorBase (i : Nat) : Nat := 0x220000 + 65536 * i

/-- Log sector i. -/
def sectorOf (l : Lehr) (i : Nat) : Sector := tabGet {} l.sectors i

/-- Change log sector i. -/
def modSector (i : Nat) (f : Sector → Sector) (l : Lehr) : Lehr := { l with sectors := tabMod {} l.sectors i f }

/-- Records with their offsets, the first at frame `f` of a sector. -/
def placeRecs (base : Nat) : Nat → List Record → List (Nat × Record)
  | _, [] => []
  | f, r :: rs => (base + 512 * f, r) :: placeRecs base (f + recFrames r) rs

/-- The valid records of the log with their offsets, SECTOR records included; records of a retired sector stay readable
(log entry 60). -/
def logRecs (l : Lehr) : List (Nat × Record) :=
  (l.sectors.filter fun e => e.2.opened).flatMap fun e =>
    (placeRecs (sectorBase e.1) 0 e.2.recs).filter fun x => !x.2.torn

/-- The newest record of a kind: the one in force (R355). -/
def newestRec (kind : Nat) (rs : List (Nat × Record)) : Option (Nat × Record) :=
  rs.foldl (fun a x => if x.2.kind != kind then a
    else match a with | some y => if y.2.rsn < x.2.rsn then some x else a | none => some x) none

/-- Payload of the record in force of a kind, empty when there is none (R366). -/
def inForce (l : Lehr) (kind : Nat) : List Byte := match newestRec kind (logRecs l) with | some x => x.2.payload | none => []

/-- FSEQ of a FAULT or SNAPSHOT record (Table 13-5). -/
def recFseq (r : Record) : Nat := if r.kind == 8 then leAt r.payload 36 4 else leAt r.payload 0 4

/-- A kind of FAULT and SNAPSHOT records. -/
def isFaultKind (k : Nat) : Bool := k == 8 || k == 9

/-- The valid anchors with their offsets, as records. -/
def anchorRecs (l : Lehr) : List (Nat × Record) :=
  [0, 1].filterMap fun i => (tabGet none l.anchors i).map fun a => (65536 * i, { kind := 15, rsn := a.rsn, payload := [] })

/-- Pointers of a SECTOR record: the newest valid record of each kind, the ANCHOR kind included. -/
def sectorPtrs (l : Lehr) : List Byte :=
  let rs := logRecs l ++ anchorRecs l
  (List.range 16).flatMap fun k => leBytes 4 (match newestRec k rs with | some x => x.1 | none => 0xFFFFFFFF)

/-- The highest RSN among the valid records of the device. -/
def topRsn (l : Lehr) : Nat := (logRecs l ++ anchorRecs l).foldl (fun m x => max m x.2.rsn) 0

/-- Take the next RSN, above every record already present (R354). -/
def takeRsn (l : Lehr) : Nat × Lehr :=
  let n := max l.nextRsn (topRsn l + 1)
  (n, { l with nextRsn := n + 1 })

/-- The erased sectors after the head, in the order of the ring (R357). -/
def erasedAhead (l : Lehr) : List Nat :=
  let n := logSectors l.dlog
  let h := match l.head with | some h => h + 1 | none => 0
  ((List.range n).map fun k => (h + k) % n).filter fun i => (sectorOf l i).erased && !l.retired.contains i

/-- Frames in use in a sector. -/
def usedFrames (x : Sector) : Nat := x.recs.foldl (fun a r => a + recFrames r) 0

/-- The head sector, when it has room for a number of frames (R357). -/
def headFits (l : Lehr) (n : Nat) : Option Nat :=
  match l.head with
  | some h => if !l.retired.contains h && usedFrames (sectorOf l h) + n ≤ 128 then some h else none
  | none => none

/-- A number of frames fits in the head or in an erased sector after it. -/
def hasRoom (l : Lehr) (n : Nat) : Bool := (headFits l n).isSome || !(erasedAhead l).isEmpty

/-- Offset of the newest record of a fault kind below a FSEQ, as a previous offset (Table 13-5). -/
def prevOffset (l : Lehr) (kind below : Nat) : Nat :=
  let rs := (logRecs l).filter fun x => x.2.kind == kind && recFseq x.2 < below
  match rs.foldl (fun (a : Option (Nat × Record)) x => match a with
      | some y => if recFseq y.2 < recFseq x.2 then some x else a
      | none => some x) none with
  | some x => x.1
  | none => 0xFFFFFFFF

/-- A FAULT or SNAPSHOT record with its previous offset set; other records unchanged. -/
def linkPrev (l : Lehr) (r : Record) : Record :=
  if isFaultKind r.kind then
    let o := if r.kind == 8 then 32 else 4
    { r with payload := r.payload.take o ++ leBytes 4 (prevOffset l r.kind (recFseq r)) ++ r.payload.drop (o + 4) }
  else r

/-! ## Jobs of the flash port and their operations (R363, log entry 28) -/

/-- Rank of a record by its kind (R363): a SECTOR record precedes what its sector is opened for; RETIRED records come after the other configuration
records (R362). -/
def kindClass (k : Nat) : Nat := if k == 0 then 0 else if isFaultKind k then 1 else if k == 6 then 7 else if k == 5 then 5 else 4

/-- Rank of a job. -/
def opClass : FlashOp → Nat
  | .record r => kindClass r.kind
  | .write _ r .fresh => kindClass r.kind
  | .write _ _ (.copy _) => 6
  | .write _ _ (.again _) => 7
  | .rewrite _ => 7
  | .readFault _ => 2
  | .anchor .. => 3 | .image .. => 3 | .sector .. => 3
  | .compact _ => 6

/-- The log has been read at this boot and can be trusted (R366, R367). -/
def logLive (s : State) : Bool := 4 ≤ s.boot.stage && !s.boot.lehrLimp && !s.lehr.absent

/-- Content of the kinds that hold settings, as it stands (Table 13-5). -/
def confPayload (l : Lehr) (kind : Nat) : Option (List Byte) :=
  match kind with
  | 1 => some (l.laneMap.flatMap fun w => leBytes 4 w.toNat)
  | 2 => some (leBytes 8 l.rehomeB.toNat)
  | 3 => some (l.fence.flatMap fun w => leBytes 4 w.toNat)
  | 4 => some (leBytes 2 l.slices.toNat)
  | 5 =>
    let n := logSectors l.dlog
    some ((List.range (ceilDiv n 8)).map fun j => pack 8 ((List.range 8).map fun b => (b, 1, b2n (l.retired.contains (8 * j + b)))))
  | 6 => some (leBytes 4 l.hours ++ leBytes 5 l.cursor ++ leBytes 4 l.passHour)
  | _ => none

/-- The record as it will be programmed. -/
def fillRec (l : Lehr) (r : Record) : Record := match confPayload l r.kind with | some p => { r with payload := p } | none => r

/-- FSEQ of the newest FAULT record. -/
def topFseq (l : Lehr) : Nat := (logRecs l).foldl (fun m x => if x.2.kind == 8 then max m (recFseq x.2) else m) 0

/-- FSEQ among the 64 highest of the FAULT records (R359, R364). -/
def keptFseq (l : Lehr) (n : Nat) : Bool :=
  (((logRecs l).filter fun x => x.2.kind == 8 && n < recFseq x.2).map fun x => recFseq x.2).eraseDups.length < 64

/-- A record of the log is still live (R359). -/
def liveRec (l : Lehr) (x : Nat × Record) : Bool :=
  if isFaultKind x.2.kind then keptFseq l (recFseq x.2)
  else x.2.kind != 0 && (newestRec x.2.kind (logRecs l)).map (·.1) == some x.1

/-- Insert a record by its RSN. -/
def insRsn (x : Nat × Record) : List (Nat × Record) → List (Nat × Record)
  | [] => [x]
  | y :: r => if x.2.rsn < y.2.rsn then x :: y :: r else y :: insRsn x r

/-- The live records of a sector, in RSN order. -/
def liveOf (l : Lehr) (i : Nat) : List Record :=
  ((((placeRecs (sectorBase i) 0 (sectorOf l i).recs).filter fun x => !x.2.torn && liveRec l x).foldl (fun a x => insRsn x a) []).map (·.2))

/-- The live record of an RSN that a scrub has found worn; none of a configuration once no more of those are written (R361). -/
def liveRsn (l : Lehr) (n : Nat) : Option Record :=
  ((logRecs l).find? fun x => x.2.rsn == n && x.2.kind != 0 && liveRec l x && !(l.noConf && x.2.kind ≤ 4)).map (·.2)

/-- The record that a job will write next, and why. -/
def nextWrite (l : Lehr) : FlashOp → Option (Record × WriteSrc)
  | .record r => some (fillRec l r, .fresh)
  | .rewrite n => (liveRsn l n).map fun r => (r, .again n)
  | .compact i => (liveOf l i).head?.map fun r => (r, .copy i)
  | _ => none

/-- Frames that the next record of a job takes from the hour's budget (R362). -/
def opFrames (l : Lehr) (op : FlashOp) : Nat :=
  match nextWrite l op with
  | some (r, .fresh) => if isFaultKind r.kind then 0 else recFrames r
  | some (r, _) => recFrames r
  | none => 0

/-- The jobs that a service reset still waits for: FAULT and SNAPSHOT records, which precede every other operation, and a change of SEL that
FW_ACTIVATE has been answered for (R347, R363; DEDUCED, log entry 128). -/
def svcKeeps : FlashOp → Bool
  | .record r => isFaultKind r.kind
  | .write _ r _ => isFaultKind r.kind
  | .anchor (some _) _ _ => true
  | _ => false

/-- A job may begin: one of the log waits for the log, for erased space and for the hour's budget. -/
def opReady (s : State) (op : FlashOp) : Bool :=
  (s.boot.rst.isNone || svcKeeps op) && match nextWrite s.lehr op, op with
  | some (r, _), _ => logLive s && hasRoom s.lehr (recFrames r) && opFrames s.lehr op ≤ s.lehr.budget
  | none, .compact _ => logLive s
  | none, .rewrite _ => false
  | none, _ => true

/-- Flash operations of a job: per frame of a record two page programs and its read-back; for an anchor of 6 frames an erase, 12 programs and a
read-back; for an image the erase of its slot, its programs and read-backs; for a sector of LEHR_WRITE the same (R350, R363, log entry 28). -/
def opParts : FlashOp → Nat
  | .write _ r _ => 3 * recFrames r
  | .anchor .. => 14
  | .image _ m => 16 + ceilDiv m.length 256 + ceilDiv m.length 4096
  | .sector .. => 1 + 256 + 16
  | _ => 1

/-- A job is in progress from its first operation. -/
def setCur (l : Lehr) (op : FlashOp) : Lehr := { l with cur := some op, left := opParts op }

/-- The write of a record begins at the head: a copy keeps its RSN, any other takes the next; it stands torn until it has ended (R354). -/
def writeRec (l : Lehr) (h : Nat) (r : Record) (src : WriteSrc) : Lehr :=
  let y := match src with | .copy _ => (r.rsn, l) | _ => takeRsn l
  let q : Record := { r with rsn := y.1 }
  let w := match src with | .again _ => q | _ => linkPrev y.2 q
  setCur (modSector h (fun x => { x with recs := x.recs ++ [{ w with torn := true }] }) y.2) (.write h w src)

/-- The next erased sector is opened: the write of its SECTOR record begins, with the erase count one higher (R357). -/
def openNext (l : Lehr) : Lehr :=
  match erasedAhead l with
  | [] => l
  | i :: _ =>
    let n := (sectorOf l i).erases + 1
    writeRec { modSector i (fun x => { x with erased := false, erases := n, opened := true, recs := [] }) l with head := some i } i
      { kind := 0, rsn := 0, payload := leBytes 4 n ++ leBytes 4 0 ++ sectorPtrs l } .fresh

/-- Bytes of an image slot, erased bytes read as 0xFF. -/
def slotBytes (l : Lehr) (b : Bool) : List Byte :=
  let x := tabGet [] l.images (b2n b)
  (x ++ List.replicate (0x100000 - x.length) 0xFF).take 0x100000

/-- Sector `k` of the device, one of an image slot, holds the bytes given. -/
def putSlot (l : Lehr) (k : Nat) (d : List Byte) : Lehr :=
  let b := decide (18 ≤ k)
  let x := slotBytes l b
  let o := 65536 * (k - (if b then 18 else 2))
  { l with images := tabSet [] l.images (b2n b) (x.take o ++ padTo d 65536 ++ x.drop (o + 65536)) }

/-- The device with the sector at an offset erased or programmed in part. -/
def spoilRaw (l : Lehr) (off : Nat) : Lehr :=
  let k := off / 65536
  if k < 2 then { l with anchors := tabSet none l.anchors k none }
  else if k < 34 then putSlot l k (List.replicate 65536 0xFF)
  else modSector (k - 34) (fun _ => { erased := false }) l

/-- The sector of the anchor being written holds none until the write ends. -/
def spoilAnchor (s : State) : State :=
  if (anchorOf s).isSome then { s with lehr := { s.lehr with anchors := tabSet none s.lehr.anchors (otherAnchor s) none } } else s

/-- What the device holds of a job's target from its first operation on: what is being written is not valid until it has ended. -/
def targetSpoilt (s : State) : FlashOp → State
  | .anchor .. => spoilAnchor s
  | .image b _ => { s with lehr := { s.lehr with images := tabSet [] s.lehr.images (b2n b) [] } }
  | .sector off _ => { s with lehr := spoilRaw s.lehr off }
  | .compact i => { s with lehr := modSector i (fun x => { x with erased := false, opened := false, recs := [] }) s.lehr }
  | _ => s

/-- A job begins, the others waiting being `rest`; one that needs a sector to be opened waits for its SECTOR record, and a compaction waits on while
each of its records is copied. -/
def beginOp (s : State) (op : FlashOp) (rest : List FlashOp) : State :=
  let l := s.lehr
  match nextWrite l op with
  | some (r, src) => match headFits l (recFrames r) with
    | some h =>
      let w := writeRec l h r src
      { s with lehr := { w with
          ops := match src with | .copy _ => l.ops | _ => rest
          budget := l.budget - opFrames l op
          due := if src == .fresh && r.kind ≤ 4 then tabSet none l.due r.kind none else l.due } }
    | none => { s with lehr := openNext l }
  | none =>
    let t := targetSpoilt s op
    { t with lehr := setCur { t.lehr with ops := rest } op }

/-- A job that has nothing left to do: what it was to write again is live no more. -/
def deadOp (l : Lehr) : FlashOp → Bool
  | .rewrite n => (liveRsn l n).isNone
  | _ => false

/-- The next job, by rank; of one rank an interrupted one first. -/
def pickJob (s : State) : State :=
  let l := s.lehr
  let ks := l.held.map (fun h => opClass h.1) ++ (l.ops.filter (opReady s)).map opClass
  match ks with
  | [] => s
  | x :: r =>
    let k := r.foldl min x
    match takeFirst (fun h => opClass h.1 == k) l.held with
    | some y => { s with lehr := { l with cur := some y.1.1, left := y.1.2, held := y.2 } }
    | none => match takeFirst (fun y => opReady s y && opClass y == k) l.ops with
      | some y => beginOp s y.1 y.2
      | none => s

/-- With no operation in progress the next one begins, while the device is powered; in a reset only what a service reset waits for. -/
def flashStart (s : State) : State :=
  if s.lehr.cur.isSome || !s.boot.powered || (s.boot.rst.isSome && s.boot.svcStep != 1) then s
  else pickJob { s with lehr := { s.lehr with ops := s.lehr.ops.filter fun o => !deadOp s.lehr o } }

/-- Ask for a flash operation. -/
def flashAsk (s : State) (op : FlashOp) : State := flashStart { s with lehr := { s.lehr with ops := s.lehr.ops ++ [op] } }

/-- F_LEHR_SECTOR with a sector address (R358, R361). -/
def sectorEvent (a : Nat) : Event := { mkEv .lehrSector 12 0 with cseq := BitVec.ofNat 32 a }

/-! ## Fault records (R303, R363, R364) -/

/-- Queue the FAULT record of a C3 or C4 entry; none at LIMP from ROM defaults (R367). -/
def lehrFault (s : State) (e : Entry) : State :=
  if s.boot.lehrLimp then s
  else
    let n := s.lehr.fseq + 1
    flashAsk { s with lehr := { s.lehr with fseq := n } }
      (.record { kind := 8, rsn := 0, payload := leBytes 32 (entryWord e).toNat ++ leBytes 4 0xFFFFFFFF ++ leBytes 4 n })

/-- Queue the SNAPSHOT of the ring at the freeze, oldest entry first; `k` C3 and C4 entries follow the one that began the count. -/
def lehrSnapshot (s : State) (k : Nat) : State :=
  if s.boot.lehrLimp then s
  else
    let es := s.flt.ring.reverse.flatMap fun e => leBytes 32 (entryWord e).toNat
    flashAsk s (.record { kind := 9, rsn := 0, payload := leBytes 4 (s.lehr.fseq - k) ++ leBytes 4 0xFFFFFFFF ++ leBytes 8 0 ++ padTo es 2048 })

end Sys2Proof.Machine
end

