-- ==== Sys2Proof/Machine/LehrRaw.lean ====
section
/-! DEFINITION. Lehr from raw bytes: the BCH decoder (R353), records (R354), anchors (Table 13-7), sectors, image headers (Table 13-2, Table 13-10 of the image: R346). -/
namespace Sys2Proof.Machine

/-! ## Decoding a frame (R353) -/

/-- Inverse in GF(2^13): the 8,190th power. -/
def gfInv (a : Nat) : Nat :=
  -- 8190 = 2 + 4 + ... + 4096: the product of twelve successive squares
  (((List.range 12).foldl (fun (x : Nat × Nat) _ => let q := gfMul x.1 x.1; (q, gfMul x.2 q)) (a, 1))).2

/-- Bits of a frame, the coefficient of the highest power first. -/
def frameBits (f : List Byte) : List Bool := f.flatMap fun x => [7, 6, 5, 4, 3, 2, 1, 0].map fun i => x.getLsbD i

/-- Syndrome: the received polynomial at an element, by Horner's rule. -/
def synAt (bits : List Bool) (a : Nat) : Nat := bits.foldl (fun v b => gfMul v a ^^^ b2n b) 0

/-- State of the Berlekamp-Massey iteration: locator, previous locator, length, gap, previous discrepancy. -/
def bmStep (syn : List Nat) (x : List Nat × List Nat × Nat × Nat × Nat) (n : Nat) : List Nat × List Nat × Nat × Nat × Nat :=
  let (c, b, l, m, bd) := x
  let d := (List.range (l + 1)).foldl (fun v i => v ^^^ gfMul (c.getD i 0) (syn.getD (n - i) 0)) 0
  if d = 0 then (c, b, l, m + 1, bd)
  else
    let k := gfMul d (gfInv bd)
    let c1 := (List.range (max c.length (b.length + m))).map fun i => c.getD i 0 ^^^ (if i < m then 0 else gfMul k (b.getD (i - m) 0))
    if 2 * l ≤ n then (c1, c, n + 1 - l, 1, d) else (c1, b, l, m + 1, bd)

/-- The error locator of 16 syndromes, lowest coefficient first, and its length. -/
def bmLocator (syn : List Nat) : List Nat × Nat :=
  let r := (List.range 16).foldl (bmStep syn) ([1], [1], 0, 1, 1)
  (r.1, r.2.2.1)

/-- Value of a polynomial over GF(2^13), lowest coefficient first. -/
def gfEval (p : List Nat) (x : Nat) : Nat := p.foldr (fun c v => gfMul v x ^^^ c) 0

/-- Powers of an element: 1, a, a^2, ... -/
def gfPowers (a : Nat) : Nat → Nat → List Nat
  | 0, _ => []
  | n + 1, x => x :: gfPowers a n (gfMul x a)

/-- Powers of x at which the locator says a bit is in error, among the 4,096 of a frame. -/
def errPowers (loc : List Nat) : List Nat :=
  ((gfPowers (gfInv 2) 4096 1).zip (List.range 4096)).filterMap fun e => if gfEval loc e.1 = 0 then some e.2 else none

/-- Flip the bit of a frame that is the coefficient of x^p. -/
def flipPower (f : List Byte) (p : Nat) : List Byte :=
  let i := 4095 - p
  f.set (i / 8) (f.getD (i / 8) 0 ^^^ BitVec.ofNat 8 (2 ^ (7 - i % 8)))

/-- Parity agrees with data. -/
def parityOk (f : List Byte) : Bool := bchParity (f.take 499) == f.drop 499

/-- The data of a frame, up to 8 bit errors corrected; none when the decoder fails. -/
def decodeFrame (f : List Byte) : Option (List Byte) :=
  if parityOk f then some (f.take 499)
  else
    let bits := frameBits f
    let syn := (gfPowers 2 16 2).map (synAt bits)
    let loc := bmLocator syn
    let ps := errPowers loc.1
    if 8 < loc.2 || ps.length != loc.2 then none
    else
      let g := ps.foldl flipPower f
      if parityOk g then some (g.take 499) else none

/-- A frame whose bits hold at most 8 zeros is erased. -/
def frameErased (f : List Byte) : Bool := ((frameBits f).filter fun b => !b).length ≤ 8

/-! ## Records (R354, R355) -/

/-- Frame `i` of a sector. -/
def frameAt (d : List Byte) (i : Nat) : List Byte := (d.drop (512 * i)).take 512

/-- A kind of Table 13-5. -/
def kindOk (k : Nat) : Bool := k ≤ 6 || k == 8 || k == 9 || k == 15

/-- The reserved fields of a payload are 0 (Table 13-5); a record with another value there is rejected as a whole (R8). -/
def payReservedOk (kind : Nat) (p : List Byte) : Bool :=
  match kind with
  | 0 => leAt p 4 4 == 0
  | 3 => (List.range (p.length / 4)).all fun i => leAt p (4 * i) 4 < 2 ^ 21
  | 9 => leAt p 8 8 == 0
  | _ => true

/-- The valid record that begins at frame `i`, if there is one. -/
def parseRec (d : List Byte) (i : Nat) : Option Record :=
  match decodeFrame (frameAt d i) with
  | none => none
  | some h =>
    let fc := (h.getD 2 0).toNat
    let rsn := leAt h 3 5
    let fs := (List.range fc).map fun j => decodeFrame (frameAt d (i + j))
    let agree := (List.range fc).all fun j => match fs.getD j none with
      | some x => x.getD 0 0 == 0xB5 && (x.getD 1 0).toNat == j && (x.getD 2 0).toNat == fc && leAt x 3 5 == rsn
      | none => false
    let data := (fs.flatMap fun x => match x with | some y => y.drop 8 | none => [])
    let len := leAt data 4 4
    let pay := slice data 16 len
    let r : Record := { kind := leAt data 0 1, rsn := rsn, payload := pay }
    if 1 ≤ fc && fc ≤ 127 && i + fc ≤ 128 && agree && kindOk r.kind && leAt data 1 1 == 1 && leAt data 2 2 == 0 && leAt data 12 4 == 0
        && payReservedOk (leAt data 0 1) pay && recFrames r == fc && (crc32c pay).toNat == leAt data 8 4 && recData r == data then some r
    else none

/-- The records of a sector from frame `i` up to its first erased frame; a frame that begins no valid record stands as a
torn record of one frame. -/
def parseRecs (d : List Byte) : Nat → Nat → List Record
  | 0, _ => []
  | n + 1, i =>
    if 128 ≤ i || frameErased (frameAt d i) then []
    else match parseRec d i with
      | some r => r :: parseRecs d n (i + recFrames r)
      | none => { kind := 7, rsn := 0, payload := [], torn := true } :: parseRecs d n (i + 1)

/-- A log sector from its bytes. -/
def parseSector (d : List Byte) : Sector :=
  if frameErased (frameAt d 0) then {}
  else match parseRecs d 128 0 with
    | r :: rs =>
      if r.kind == 0 && !r.torn then { erased := false, erases := leAt r.payload 0 4, opened := true, recs := r :: rs }
      else { erased := false }
    | [] => { erased := false }

/-! ## Anchors (R356, Table 13-7) -/

/-- An anchor from the bytes of its sector; DLOG must agree with the device. -/
def parseAnchor (dlog : Nat) (d : List Byte) : Option Anchor :=
  match parseRec d 0 with
  | some r =>
    let p := r.payload
    if r.kind == 15 && p.length == 2687 && leAt p 4 1 == 1 && leAt p 5 1 == dlog && leAt p 6 1 < 2 && leAt p 7 1 < 4 && leAt p 8 8 == 0 then
      some { aseq := BitVec.ofNat 32 (leAt p 0 4), dlog := dlog, sel := leAt p 6 1 == 1, val := BitVec.ofNat 2 (leAt p 7 1)
             absent := BitVec.ofNat 5120 (leAt p 16 640)
             trim := (p.drop 656).flatMap (fun x => [BitVec.ofNat 4 x.toNat, BitVec.ofNat 4 (x.toNat / 16)])
             rsn := r.rsn }
    else none
  | none => none

/-- The bytes of an anchor's payload. -/
def anchorPayload (a : Anchor) : List Byte :=
  leBytes 4 a.aseq.toNat ++ leBytes 1 1 ++ leBytes 1 a.dlog ++ leBytes 1 (b2n a.sel) ++ leBytes 1 a.val.toNat ++ leBytes 8 0 ++ leBytes 640 a.absent.toNat
    ++ padTo ((List.range 2031).map fun j => BitVec.ofNat 8 ((a.trim.getD (2 * j) 0).toNat + 16 * (a.trim.getD (2 * j + 1) 0).toNat)) 2031

/-! ## Image slots (R346, R352) -/

/-- Length of an image by its header. -/
def imageLen (m : List Byte) : Nat := 64 + leAt m 8 4 + leAt m 12 2

/-- Header fields and lengths of an image are as Table 12-10 gives. -/
def imageHeadOk (m : List Byte) : Bool :=
  leAt m 0 1 == 1 && leAt m 3 1 == 0 && leAt m 14 2 == 0 && leAt m 48 16 == 0
  && leAt m 8 4 % 4 == 0 && leAt m 12 2 % 4 == 0 && decide (4 ≤ leAt m 12 2) && decide (leAt m 12 2 ≤ 1024) && decide (imageLen m ≤ 1048576)

/-- DIGEST equals the body's SHA-256. -/
def imageDigestOk (m : List Byte) : Bool := sha256 (slice m 64 (leAt m 8 4)) == slice m 16 32

/-- The header and signature of an image as words, sent for verification (R347). -/
def imageAsk (m : List Byte) : List (BitVec 32) :=
  let b := slice m 0 64 ++ slice m (64 + leAt m 8 4) (leAt m 12 2)
  (List.range (b.length / 4)).map fun i => BitVec.ofNat 32 (leAt b (4 * i) 4)

/-! ## Writing a sector of the device raw (R352, R367) -/

/-- The device with the sector at an offset holding the bytes given. -/
def writeRaw (l : Lehr) (off : Nat) (d : List Byte) : Lehr :=
  let k := off / 65536
  if k < 2 then { l with anchors := tabSet none l.anchors k (parseAnchor l.dlog d) }
  else if k < 34 then putSlot l k d
  else modSector (k - 34) (fun _ => parseSector d) l

end Sys2Proof.Machine
end

