-- ==== Sys2Proof/Machine/Templates.lean ====
section
/-! DEFINITION. The schedules that firmware builds from postings (R254 to R260, R420): stage plans, rings, shards, steps. -/
namespace Sys2Proof.Machine

/-! ## Places of the chips (R163, R254, R255) -/

/-- Values that occur on an axis, ascending. -/
def axisVals (chips : List Nat) (a : Nat) : List Nat := (List.range 64).filter fun v => chips.any fun n => coord n a == v

/-- The chips form a product set (R163). -/
def isProduct (chips : List Nat) : Bool :=
  chips.Nodup && chips.length == (axisVals chips 0).length * (axisVals chips 1).length * (axisVals chips 2).length

/-- Strictly ascending. -/
def ascending : List Nat → Bool
  | a :: b :: r => decide (a < b) && ascending (b :: r)
  | _ => true

/-- Template H fits: ascending chip index and a product set (Table 9-4). -/
def fitsH (chips : List Nat) : Bool := ascending chips && isProduct chips

/-- The STAGE code of template F on a group (R257): 4 across racks, else the lowest level that holds it. -/
def flatStage (chips : List Nat) : Nat :=
  if 2 ≤ (axisVals chips 2).length then 4
  else if 2 ≤ (axisVals chips 1).length then 3
  else if 2 ≤ ((chips.map fun n => coord n 0 / 2).eraseDups).length then 2 else 1

/-- A stage as one chip sees it: its code, the ranks of its ring in order of position, the position of each rank on its own ring,
and the number by which a shard's digit is taken. -/
structure Stage where
  code : Nat
  ring : List Nat
  pos : List Nat
  digs : List Nat                -- digit of each shard
  deriving DecidableEq, Repr

/-- The ring of rank `me`: the ranks that agree with it on `key`, in order of position. -/
def ringOf (n : Nat) (pos key : Nat → Nat) (me : Nat) : List Nat :=
  (List.range n).flatMap fun p => (List.range n).filter fun r => key r == key me && pos r == p

/-- A stage from the positions, keys and digits of the ranks; a stage with one position is omitted (R255). -/
def mkStage (code n me : Nat) (pos key dig : Nat → Nat) : List Stage :=
  let ring := ringOf n pos key me
  if ring.length ≤ 1 then [] else [{ code := code, ring := ring, pos := (List.range n).map pos, digs := (List.range n).map dig }]

/-- The stages of template H in the order of R17 (R255, Table 9-5). -/
def planH (chips : List Nat) (me : Nat) : List Stage :=
  let n := chips.length
  let xs := axisVals chips 0
  let ys := axisVals chips 1
  let zs := axisVals chips 2
  let nx := xs.length
  let ny := ys.length
  let at' (r a : Nat) : Nat := coord (chips.getD r 0) a
  let xi (r : Nat) : Nat := xs.findIdx (· == at' r 0)
  let yi (r : Nat) : Nat := ys.findIdx (· == at' r 1)
  let zi (r : Nat) : Nat := zs.findIdx (· == at' r 2)
  let pkg := 2 ≤ nx && xs.all fun x => xs.contains (x ^^^ 1)
  let yz (r : Nat) : Nat := yi r * 64 + zi r
  (if pkg then mkStage 1 n me (fun r => xi r % 2) (fun r => (xi r / 2) * 4096 + yz r) (fun s => s % nx % 2) else [])
  ++ (if pkg then mkStage 2 n me (fun r => xi r / 2) (fun r => (xi r % 2) * 4096 + yz r) (fun s => s % nx / 2)
      else mkStage 2 n me xi yz (fun s => s % nx))
  ++ mkStage 3 n me yi (fun r => xi r * 64 + zi r) (fun s => s / nx % ny)
  ++ mkStage 4 n me zi (fun r => xi r * 64 + yi r) (fun s => s / (nx * ny))

/-- The one stage of template F: a ring of all ranks in CHIPS order (R257). -/
def planF (chips : List Nat) (me : Nat) : List Stage := mkStage (flatStage chips) chips.length me id (fun _ => 0) id

/-- The stages of a group: H where it fits, else F (R254). -/
def planOf (chips : List Nat) (me : Nat) : List Stage := if fitsH chips then planH chips me else planF chips me

/-- Position of a rank in a stage. -/
def Stage.at (st : Stage) (r : Nat) : Nat := st.pos.getD r 0
/-- Digit of a shard in a stage. -/
def Stage.digit (st : Stage) (s : Nat) : Nat := st.digs.getD s 0
/-- Steps from position `o` to position `q` in direction `dir` (true: +1) round a ring of `m`. -/
def ringSteps (m o q : Nat) (dir : Bool) : Nat := if dir then (q + m - o) % m else (o + m - q) % m
/-- The rank `k` places on from rank `me` in direction `dir`. -/
def Stage.peer (st : Stage) (me : Nat) (dir : Bool) : Nat :=
  let m := st.ring.length
  let q := st.at me
  st.ring.getD (if dir then (q + 1) % m else (q + m - 1) % m) 0

/-! ## Chunks and shards (R256, R259, R420) -/

/-- An inter-chip chunk of a collective: its number, shard, number within the shard, first element, elements. -/
structure Chk where
  c : Nat
  shard : Nat
  idx : Nat
  e0 : Nat
  n : Nat
  deriving DecidableEq, Repr

/-- Chunks of a vector cut from its first element, as shard 0. -/
def cutVec (e nel : Nat) : List Chk := (List.range (ceilDiv nel e)).map fun j => ⟨j, 0, j, j * e, chunkLen e nel j⟩

/-- Chunks of `n` shards of equal length, each cut from its first element (REDSCAT). -/
def cutShards (e nel n : Nat) : List Chk :=
  let l := nel / n
  let k := ceilDiv l e
  (List.range n).flatMap fun s => (List.range k).map fun j => ⟨s * k + j, s, j, s * l + j * e, chunkLen e l j⟩

/-- Chunks of a whole vector in contiguous runs (ALLREDUCE, REDUCE; R420). -/
def cutRuns (e nel n : Nat) : List Chk :=
  let t := ceilDiv nel e
  (List.range t).map fun c =>
    let s := (List.range n).find? (fun s => s * t / n ≤ c && c < (s + 1) * t / n) |>.getD 0
    ⟨c, s, c - s * t / n, c * e, chunkLen e nel c⟩

/-- Chunks of a whole vector dealt to the ranks in turn (ISUM; R259). -/
def cutDealt (e nel n : Nat) : List Chk :=
  (List.range (ceilDiv nel e)).map fun c => ⟨c, c % n, c / n, c * e, chunkLen e nel c⟩

/-- A chunk of even number within its shard travels +1, of odd number -1 (R256). -/
def Chk.dir (k : Chk) : Bool := k.idx % 2 == 0

/-! ## What a schedule is built for -/

/-- The parameters of a build: group and this chip, formats and sizes. -/
structure Job where
  d : Desc
  me : Nat
  n : Nat                        -- ranks
  chips : List Nat
  w : Nat                        -- wire format between chips
  e : Nat                        -- elements of a full inter-chip chunk
  fw : Nat                       -- units of a chunk in the wire format
  fi : Nat                       -- units of an I80 chunk
  c : Nat                        -- bytes of a chunk
  op : Nat
  nel : Nat                      -- elements of the chip's own contribution
  deriving DecidableEq, Repr

/-- Contexts of a schedule: 0 loads, 1 stores, 2 weights, 3 combines. -/
def cxLOAD : Nat := 0
def cxSTORE : Nat := 1
def cxWEIGHT : Nat := 2
def cxCOMB : Nat := 3

/-- Buffers: 0 source, 1 destination, 2 weights, 3 count table. -/
def bfSRC : Nat := 0
def bfDST : Nat := 1
def bfWGT : Nat := 2
def bfCNT : Nat := 3

/-- Memory-sourced WSUM (R247). -/
def Job.weighted (j : Job) : Bool := j.op == opWSUM && dMems j.d

/-- First units: the chip's own values, the result, the weights, and what is received on the way. -/
def Job.own (_ : Job) : Nat := 0
def Job.res (_ : Job) : Nat := 10000000
def Job.wgt (_ : Job) : Nat := 20000000
def Job.tmp (_ : Job) : Nat := 30000000

/-- A step of each kind. -/
def stCellpost : Step := { kind := kCELLPOST, nchk := 1 }
def Job.load (_ : Job) (f u nchk nel eoff : Nat) : Step :=
  { kind := kLOAD, fmt := f, ctx := cxLOAD, buf := bfSRC, uc := u, nchk := nchk, nel := nel, eoff := eoff }
def Job.dieIn (_ : Job) (u nchk nel eoff : Nat) : Step := { kind := kDIEIN, uc := u, nchk := nchk, nel := nel, eoff := eoff }
def Job.dieOut (_ : Job) (u nchk nel eoff : Nat) : Step := { kind := kDIEOUT, ua := u, nchk := nchk, nel := nel, eoff := eoff }
def Job.store (_ : Job) (u nchk nel eoff : Nat) : Step :=
  { kind := kSTORE, ua := u, ctx := cxSTORE, buf := bfDST, nchk := nchk, nel := nel, eoff := eoff }
def Job.send (_ : Job) (f op u peer stage cseq n : Nat) : Step :=
  { kind := kSEND, fmt := f, op := op, ua := u, peer := peer, stage := stage, cseq0 := cseq, nchk := 1, nel := n }
def Job.recv (_ : Job) (f op u peer stage cseq n : Nat) : Step :=
  { kind := kRECV, fmt := f, op := op, uc := u, peer := peer, stage := stage, cseq0 := cseq, nchk := 1, nel := n }
def Job.comb (j : Job) (f a b c uw cseq n : Nat) (wa wb : Bool) : Step :=
  { kind := kCOMB, fmt := f, op := j.op, narrow := !dWide j.d && j.w == fmtFP16, ctx := cxCOMB, ua := a, ub := b, uc := c, uw := uw,
    wa := wa, wb := wb, ws := !dWten j.d, cseq0 := cseq, nchk := 1, nel := n }
def Job.lone (j : Job) (f a c uw cseq n : Nat) (wa : Bool) : Step :=
  { kind := kLONE, fmt := f, op := j.op, narrow := !dWide j.d && j.w == fmtFP16, ctx := cxCOMB, ua := a, uc := c, uw := uw,
    wa := wa, ws := !dWten j.d, cseq0 := cseq, nchk := 1, nel := n }
def Job.term (j : Job) (f a c uw cseq n : Nat) : Step := { j.lone f a c uw cseq n true with kind := kTERM }
def Job.copy (_ : Job) (a c cseq n : Nat) : Step := { kind := kCOPY, ua := a, uc := c, cseq0 := cseq, nchk := 1, nel := n }

/-- The contribution of the chip into consecutive units: from memory, or from the die (R246, R250). -/
def Job.take (j : Job) (u nchk nel eoff : Nat) : Step :=
  if dMems j.d then j.load j.w u nchk nel eoff else j.dieIn u nchk nel eoff

/-- The result of the chip from consecutive units: to memory, or to the die. -/
def Job.give (j : Job) (u nchk nel eoff : Nat) : Step :=
  if dMemd j.d then j.store u nchk nel eoff else j.dieOut u nchk nel eoff

/-- The same for a block of the result whose first chunk is `c0` of the collective; a DIE_OUT numbers its own (R269). -/
def Job.home (j : Job) (u c0 nchk nel eoff : Nat) : Step :=
  let t := j.give u nchk nel eoff
  if dMemd j.d then { t with cseq0 := c0 } else t

/-- Units of a weight chunk. -/
def Job.fwt (j : Job) : Nat := footprint j.w j.c (dWfmt j.d)

/-- Unit of the weights of chunk `c`. -/
def Job.wUnit (j : Job) (c : Nat) : Nat := if dWten j.d then j.wgt + c * j.fwt else j.wgt

/-- The load of the weights of consecutive chunks from number `c0`. -/
def Job.weights (j : Job) (c0 nchk nel eoff : Nat) : List Step :=
  if !j.weighted then []
  else if dWten j.d then
    [{ kind := kLOAD, fmt := dWfmt j.d, ctx := cxWEIGHT, buf := bfWGT, uc := j.wgt + c0 * j.fwt, nchk := nchk, nel := nel, eoff := eoff }]
  else if c0 = 0 then
    [{ kind := kLOAD, fmt := dWfmt j.d, ctx := cxWEIGHT, buf := bfWGT, uc := j.wgt, nchk := 1, nel := 1 }]
  else []

/-! ## Halves (R256, R257) -/

/-- Steps of the reduce half of one chunk at one stage, and the unit that holds its value after it; `u` holds the chip's own. Under a
memory-sourced WSUM the first chip of the ring sends its terms, which the next chip's combine rounds with its own (R115, R256). -/
def reduceChunk (j : Job) (st : Stage) (first : Bool) (tmp u : Nat) (k : Chk) : List Step × Nat :=
  let m := st.ring.length
  let i := ringSteps m (st.digit k.shard) (st.at j.me) k.dir
  let wt := first && j.weighted
  let next := st.peer j.me k.dir
  let prev := st.peer j.me (!k.dir)
  let uw := j.wUnit k.c
  if i = 1 then
    (if wt then ([j.term j.w u tmp uw k.c k.n, j.send j.w j.op tmp next st.code k.c k.n], tmp)
     else ([j.send j.w j.op u next st.code k.c k.n], u))
  else
    let r := [j.recv j.w j.op tmp prev st.code k.c k.n, j.comb j.w tmp u tmp uw k.c k.n false wt]
    if i = 0 then (r, tmp) else (r ++ [j.send j.w j.op tmp next st.code k.c k.n], tmp)

/-- The reduce halves of one chunk, stage after stage, while the chip keeps it: the steps, and the unit of its value if the chip
keeps it at the end. `t` numbers the stages for the units of what arrives. -/
def reduceStages (j : Job) (k : Chk) : Nat → Nat → List Stage → List Step × Option Nat
  | _, u, [] => ([], some u)
  | t, u, st :: r =>
    let y := reduceChunk j st (t = 0) (j.tmp + (4 * k.c + t) * j.fw) u k
    if st.digit k.shard == st.at j.me then
      let z := reduceStages j k (t + 1) y.2 r
      (y.1 ++ z.1, z.2)
    else (y.1, none)

/-- The gather half of one chunk at one stage: it enters the ring at position `o` and passes along it. -/
def gatherChunk (j : Job) (st : Stage) (o u cseq : Nat) (k : Chk) : List Step :=
  let m := st.ring.length
  let i := ringSteps m o (st.at j.me) k.dir
  let next := st.peer j.me k.dir
  let prev := st.peer j.me (!k.dir)
  (if i = 0 then [] else [j.recv j.w 0 u prev st.code cseq k.n]) ++
  (if i + 1 < m then [j.send j.w 0 u next st.code cseq k.n] else [])

/-- The gather halves of a reduced chunk in reverse order of the stages: those below which the chip's digits agree (R257). -/
def gatherBack (j : Job) (k : Chk) (u cseq : Nat) : List Stage → List Step
  | [] => []
  | st :: r =>
    (if st.digit k.shard == st.at j.me then gatherBack j k u cseq r else []) ++ gatherChunk j st (st.digit k.shard) u cseq k

/-- The chunk of rank `o` passed on in the order of the stages (standalone ALLGATHER): it reaches the rings that agree with `o` on
every later stage. -/
def gatherOut (j : Job) (k : Chk) (o u cseq : Nat) : List Stage → List Step
  | [] => []
  | st :: r =>
    (if r.all fun x => x.at j.me == x.at o then gatherChunk j st (st.at o) u cseq k else []) ++ gatherOut j k o u cseq r

/-- The chunk of the root passed outward, the last stage first (BCAST): at a stage it runs in the rings that agree with the root on
every earlier one. -/
def bcastOut (j : Job) (k : Chk) (o u cseq : Nat) : List Stage → List Step
  | [] => []
  | st :: r => (if st.at j.me == st.at o then bcastOut j k o u cseq r else []) ++ gatherChunk j st (st.at o) u cseq k

/-! ## Templates -/

/-- Chunks of the collective, by its kind. -/
def Job.chunks (j : Job) : List Chk :=
  let nel := if isScalarColl j.d then 1 else dNelem j.d
  if dColl j.d == cREDSCAT then cutShards j.e nel j.n
  else if j.op == opISUM then cutDealt j.e nel j.n
  else cutRuns j.e nel j.n

/-- The chip's contribution, with its weights: shard by shard for a REDSCAT, else whole. -/
def Job.takeAll (j : Job) : List Step :=
  let nel := if isScalarColl j.d then 1 else dNelem j.d
  if dColl j.d == cREDSCAT then
    let l := nel / j.n
    let k := ceilDiv l j.e
    (List.range j.n).flatMap fun s => j.weights (s * k) k l (s * l) ++ [j.take (j.own + s * k * j.fw) k l (s * l)]
  else
    let k := ceilDiv nel j.e
    j.weights 0 k nel 0 ++ [j.take j.own k nel 0]

/-- The result of the whole collective given from the result area, chunk `c` at its place. -/
def Job.giveAll (j : Job) : List Step :=
  let nel := if isScalarColl j.d then 1 else dNelem j.d
  if dColl j.d == cREDSCAT then
    let l := nel / j.n
    [j.home j.res (j.me * ceilDiv l j.e) (ceilDiv l j.e) l 0]
  else [j.give j.res (ceilDiv nel j.e) nel 0]

/-- Where a finished chunk lies in the result area. -/
def Job.place (j : Job) (f : Nat) (k : Chk) : Nat := j.res + (if dColl j.d == cREDSCAT then k.idx else k.c) * f

/-- A chip alone: the value of each chunk is its own, taken alone (`lone`; an ISUM not yet I80 is quantised). -/
def soloSteps (j : Job) (f : Nat) : List Step :=
  j.chunks.map fun k =>
    if j.weighted || (j.op == opISUM && j.w != fmtI80) then
      j.lone (if j.op == opISUM then fmtI80 else j.w) (j.own + k.c * j.fw) (j.res + k.c * f) (j.wUnit k.c) k.c k.n j.weighted
    else j.copy (j.own + k.c * j.fw) (j.res + k.c * f) k.c k.n

/-- ALLREDUCE, REDUCE, REDSCAT, BARRIER and SCALEPASS under templates H and F (R256, R257). -/
def reduceSteps (j : Job) (st : List Stage) : List Step :=
  let ks := j.chunks
  let tot := ks.length
  let red := ks.map fun k => (k, reduceStages j k 0 (j.own + k.c * j.fw) st)
  let kept := red.filterMap fun y => y.2.2.map fun u => (y.1, u)
  let steps := red.flatMap fun y => y.2.1
  let home := kept.map fun y => j.copy y.2 (j.place j.fw y.1) y.1.c y.1.n
  let root := dRootc j.d
  let tail :=
    if dColl j.d == cREDSCAT then []
    else if dColl j.d == cREDUCE then
      ks.flatMap fun k =>
        let owner := (List.range j.n).find? fun r => st.all fun x => x.digit k.shard == x.at r
        match owner with
        | some o =>
          if o = root then []
          else if o = j.me then [j.send j.w 0 (j.place j.fw k) root (flatStage j.chips) (tot + k.c) k.n]
          else if root = j.me then [j.recv j.w 0 (j.place j.fw k) o (flatStage j.chips) (tot + k.c) k.n]
          else []
        | none => []
    else ks.flatMap fun k => gatherBack j k (j.place j.fw k) (tot + k.c) st
  j.takeAll ++ steps ++ home ++ tail ++ (if dColl j.d == cREDUCE && root != j.me then [] else j.giveAll)

/-- Numbers of the ranks after `me`, in the order in which template D sends (R258). -/
def otherRanks (n me : Nat) : List Nat := (List.range (n - 1)).map fun i => (me + 1 + i) % n

/-- Two lists of steps in turn. -/
def weave : List Step → List Step → List Step
  | a :: as, b :: bs => a :: b :: weave as bs
  | as, [] => as
  | [], bs => bs

/-- Packets of an I80 chunk of `n` elements (R259). -/
def Job.pks (j : Job) (n : Nat) : Nat := ceilDiv (16 * n) j.c

/-- ISUM under template D (R258, R259). The receives from the rank `i` places before stand beside the sends to the rank `i` places after, so that
128 steps in the store are enough for every chip to go on (log entry 62). -/
def isumSteps (j : Job) : List Step :=
  let ks := j.chunks
  let tot := ks.length
  let st := flatStage j.chips
  let kp := j.pks j.e
  let root := dRootc j.d
  let mine := ks.filter fun k => k.shard == j.me
  let tmp (r : Nat) (k : Chk) : Nat := if r = j.me then j.own + k.c * j.fw else j.tmp + (k.c * j.n + r) * j.fw
  let swaps := (List.range (j.n - 1)).flatMap fun i =>
    let r := (j.me + 1 + i) % j.n
    let o := (j.me + j.n - 1 - i) % j.n
    weave ((ks.filter fun k => k.shard == r).map fun k => j.send j.w opISUM (j.own + k.c * j.fw) r st k.c k.n)
      (mine.map fun k => j.recv j.w opISUM (tmp o k) o st k.c k.n)
  let combs := mine.flatMap fun k =>
    let a := j.place j.fi k
    j.comb fmtI80 (tmp 0 k) (tmp 1 k) a 0 k.c k.n false false ::
      ((List.range (j.n - 2)).map fun i => j.comb fmtI80 a (tmp (i + 2) k) a 0 k.c k.n false false)
  let big (x : Step) (k : Chk) : Step := { x with pk := j.pks k.n }
  let spread :=
    if dColl j.d == cALLREDUCE then
      (List.range (j.n - 1)).flatMap fun i =>
        let r := (j.me + 1 + i) % j.n
        let o := (j.me + j.n - 1 - i) % j.n
        weave (mine.map fun k => big (j.send fmtI80 0 (j.place j.fi k) r st (tot + k.c * kp) k.n) k)
          ((ks.filter fun k => k.shard == o).map fun k => big (j.recv fmtI80 0 (j.place j.fi k) o st (tot + k.c * kp) k.n) k)
    else if dColl j.d == cREDUCE then
      (if root = j.me then (ks.filter fun k => k.shard != j.me).map fun k => big (j.recv fmtI80 0 (j.place j.fi k) k.shard st (tot + k.c * kp) k.n) k
       else mine.map fun k => big (j.send fmtI80 0 (j.place j.fi k) root st (tot + k.c * kp) k.n) k)
    else []
  j.takeAll ++ swaps ++ combs ++ spread ++ (if dColl j.d == cREDUCE && root != j.me then [] else j.giveAll)

/-- ALLGATHER under templates H and F (R257). -/
def gatherSteps (j : Job) (st : List Stage) : List Step :=
  let nel := j.nel
  let k := ceilDiv nel j.e
  let all := (List.range j.n).flatMap fun r => (cutVec j.e nel).map fun x => (r, { x with c := r * k + x.c })
  let u (r : Nat) : Nat := j.res + r * k * j.fw
  let gives := (List.range j.n).map fun r => j.home (u r) (r * k) k nel (r * nel)
  [j.take (u j.me) k nel 0] ++
    (st.zipIdx.flatMap fun y => all.flatMap fun x =>
      if (st.drop (y.2 + 1)).all fun z => z.at j.me == z.at x.1 then
        gatherChunk j y.1 (y.1.at x.1) (u x.1 + x.2.idx * j.fw) x.2.c x.2 else []) ++ gives

/-- BCAST under templates H and F (R257). -/
def bcastSteps (j : Job) (st : List Stage) : List Step :=
  let nel := dNelem j.d
  let k := ceilDiv nel j.e
  let root := dRootc j.d
  (if j.me = root then [j.take j.res k nel 0] else []) ++
    ((cutVec j.e nel).flatMap fun x => bcastOut j x root (j.res + x.c * j.fw) x.c st) ++ [j.give j.res k nel 0]

/-- A block taken from the source and given at the destination on the chip itself. -/
def ownBlock (j : Job) (u cnt so ro : Nat) : List Step :=
  if cnt = 0 then [] else [j.load j.w u (ceilDiv cnt j.e) cnt so, j.store u (ceilDiv cnt j.e) cnt ro]

/-- The data phase of ALLTOALL and ALLTOALLV: counts and offsets of what goes to each rank and comes from each (R251, R258). -/
def blockSteps (j : Job) (cs so cr ro : List Nat) : List Step :=
  let st := flatStage j.chips
  let units (cnt : Nat) : Nat := ceilDiv cnt j.e
  let out (r : Nat) : List Step :=
    let c := cs.getD r 0
    let u := j.own + r * 1000000
    if c = 0 then []
    else [j.load j.w u (units c) c (so.getD r 0),
          { kind := kSEND, fmt := j.w, ua := u, peer := r, stage := st, nchk := units c, nel := c }]
  let inn (r : Nat) : List Step :=
    let c := cr.getD r 0
    let u := j.tmp + r * 1000000
    if c = 0 then []
    else [{ kind := kRECV, fmt := j.w, uc := u, peer := r, stage := st, nchk := units c, nel := c }, j.store u (units c) c (ro.getD r 0)]
  ownBlock j (j.own + j.me * 1000000) (cs.getD j.me 0) (so.getD j.me 0) (ro.getD j.me 0)
    ++ (List.range (j.n - 1)).flatMap fun i => out ((j.me + 1 + i) % j.n) ++ inn ((j.me + j.n - 1 - i) % j.n)

/-- Sums of the entries before each. -/
def offsets : Nat → List Nat → List Nat
  | _, [] => []
  | a, c :: r => a :: offsets (a + c) r

/-- SHIFT: the member's line, ordered by its coordinate on AXIS (R252). -/
def lineOf (j : Job) : List Nat :=
  let a := dAxis j.d
  let me := j.chips.getD j.me 0
  (axisVals j.chips a).filterMap fun v => (List.range j.n).find? fun r =>
    let x := j.chips.getD r 0
    coord x a == v && [0, 1, 2].all fun b => b == a || coord x b == coord me b

/-- SHIFT under template L (R252, R260). -/
def shiftSteps (j : Job) : List Step :=
  let l := lineOf j
  let m := l.length
  let q := l.findIdx (· == j.me)
  let dist := dDist j.d % m
  let up := l.getD ((q + dist) % m) j.me
  let down := l.getD ((q + m - dist) % m) j.me
  let dst := if dDir j.d then down else up
  let src := if dDir j.d then up else down
  let nel := dNelem j.d
  let k := ceilDiv nel j.e
  let st := flatStage j.chips
  if dst = j.me then ownBlock j j.own nel 0 0
  else
    [j.load j.w j.own k nel 0, { kind := kSEND, fmt := j.w, ua := j.own, peer := dst, stage := st, nchk := k, nel := nel },
     { kind := kRECV, fmt := j.w, uc := j.tmp, peer := src, stage := st, nchk := k, nel := nel }, j.store j.tmp k nel 0]

/-- The one step of ALLTOALLV that is known at the posting: its count exchange. -/
def countxStep (j : Job) : Step := { kind := kCOUNTX, buf := bfCNT, stage := flatStage j.chips, nchk := 1 }

/-- The steps of a posting on this chip, by the template that fits (R254); the posting goes to the cells first. -/
def templateSteps (j : Job) : List Step :=
  let c := dColl j.d
  let body :=
    if c == cALLTOALL then
      let eq := List.replicate j.n (dNelem j.d)
      let of := offsets 0 eq
      blockSteps j eq of eq of
    else if c == cALLTOALLV then [countxStep j]
    else if c == cSHIFT then shiftSteps j
    else if c == cALLGATHER then gatherSteps j (planOf j.chips j.me)
    else if c == cBCAST then bcastSteps j (planOf j.chips j.me)
    else if j.n = 1 then
      j.takeAll ++ soloSteps j (if j.op == opISUM then j.fi else j.fw) ++ j.giveAll
    else if j.op == opISUM then isumSteps j
    else reduceSteps j (planOf j.chips j.me)
  stCellpost :: body

end Sys2Proof.Machine
end

