-- ==== Sys2Proof/Machine/Posting.lean ====
section
/-! DEFINITION. What a posting gives a chip (R205, R206, R210, R244, R246, R264): channel, class, formats, parts of the cores, and the job of its schedule. -/
namespace Sys2Proof.Machine

/-- The reduction channel of a collective: its class's, or the wide one where the group has no narrow channel (R205, R206). -/
def collChan (e : Group) (d : Desc) : Option Nat :=
  if isWideColl d then e.chw else match e.chn with | some c => some c | none => e.chw

/-- Wire format between chips (R258, R264): an ISUM without memory sources travels as I80, other on-die results in the format of
their frames, memory contributions in the DFMT of LCTX. -/
def wireBetween (d : Desc) (ch : Nat) : Nat :=
  if dMems d then ctxDfmt (dLctx d)
  else if dOp d == opISUM then fmtI80
  else if isWide ch && wireFmt d == fmtFP16 then fmtFP32
  else wireFmt d

/-- Elements that one chip sends in one step at most: one shard of a REDSCAT, one contribution or block of NELEM elements of every other
collective; a block of an ALLTOALLV is no longer than the room at its destination (R210, R251; log entry 26). -/
def stepElems (n : Nat) (d : Desc) : Nat :=
  if isScalarColl d then 1 else if dColl d == cREDSCAT then dNelem d / n else dNelem d

/-- The collective travels in VCU: its data from one chip in one step is 256 bytes or less (R210). The finished shards of an ISUM ALLREDUCE
or REDUCE go as I80 (R259). -/
def vcuColl (e : Group) (d : Desc) (w : Nat) : Bool :=
  let n := stepElems (max 1 e.chips.length) d
  bytesOf w n ≤ 256 && (dOp d != opISUM || dColl d == cREDSCAT || 16 * n ≤ 256)

/-- The core parts that a posting gives this chip: 2k a push, 2k + 1 a pull (R246). -/
def partsOf (s : State) (e : Group) (d : Desc) : List Nat :=
  (memberCores e).flatMap fun k =>
    (if (pushCount s e d k).isSome then [2 * k] else []) ++ (if (pullCount s e d k).isSome then [2 * k + 1] else [])

/-- The unit exponent of a posting: its field, the default, or (SPP) that of a SCALEPASS, known later (R118, R248). -/
def postedS (d : Desc) : Option Int := if dSpp d then none else some (if dSpv d then dS d else -24)

/-- The posting runs under the default of R118, which admits FP16 sources alone. -/
def defaultS (d : Desc) : Bool := dOp d == opISUM && !dSpv d && !dSpp d

/-- A collective in progress made from a posting, at its place in the issue order (R270). -/
def mkColl (s : State) (g : Nat) (d : Desc) (cores : Bool) (n : Option Nat) (w : Nat) : Coll :=
  let e := s.group g
  { cid := dCid d, desc := d, order := e.norder, s := postedS d, dfltS := defaultS d, sched := n, carried := n.isSome,
    ch := (collChan e d).getD 0, vcu := vcuColl e d w, coresLeft := if cores then partsOf s e d else [], epoch := e.epoch,
    early := e.dmode && isXchip e && n.isSome, apex := if n.isSome then 5 else e.apex }

/-- Append a collective to a group. -/
def addColl (s : State) (g : Nat) (c : Coll) : State :=
  s.modGroup g fun e => { e with colls := e.colls ++ [c], norder := e.norder + 1 }

/-- The group stages through Marver from here on: the spine root's Marver bit, and the spine root as the recorded apex (R51, R195; log
entry 124). Collectives in progress keep the apex under which they were posted. -/
def takeMarver (s : State) (g : Nat) : State :=
  let t := s.modGroup g fun e => { e with apex := 5 }
  match t.maskOf .spine g with
  | some m => t.setMask .spine g (some { m with marver := true })
  | none => t

/-- A resident schedule names the group. -/
def hasSched (s : State) (g : Nat) : Bool := s.mrv.scheds.any fun e => match e.2 with | some x => x.hdr.gid == g | none => false

/-- The job of a schedule built from posting `d` (Templates). -/
def jobOf (s : State) (x : Sched) (d : Desc) : Job :=
  let e := s.group x.hdr.gid
  let c := chunkBytes e
  { d := d, me := lidx s e, n := (chipsOf s e).length, chips := chipsOf s e, w := x.wfmt, e := wireElems x.wfmt c,
    fw := footprint x.wfmt c x.wfmt, fi := footprint x.wfmt c fmtI80, c := c, op := treeOp d,
    nel := if dColl d == cALLGATHER && !isXchip e && !dMems d then ncore e * dNelem d else dNelem d }

end Sys2Proof.Machine
end

