-- ==== Sys2Proof/Machine/LinkWords.lean ====
section
/-! DEFINITION. Commands of one tree link direction (R31 to R43, R48): control words, beats, returns and the grant. -/
namespace Sys2Proof.Machine

/-! ## Control words (R31, R32) -/

/-- Majority of three control copies (R31). -/
def vote (a b c : BitVec 20) : BitVec 20 := (a &&& b) ||| (a &&& c) ||| (b &&& c)

/-- Cycles in succession in which a copy has disagreed with the other two on a bit, key copy*20 + bit; 4 is enough to know. -/
def disTab (old : Tab Nat) (a b c v : BitVec 20) : Tab Nat :=
  (List.range 60).filterMap fun i =>
    let x := if i < 20 then a else if i < 40 then b else c
    if bit x (i % 20) != bit v (i % 20) then some (i, satAdd 4 (tabGet 0 old i) 1) else none

/-- Kind of a return by its code (Table 2-2). -/
def retKindOf : Nat → Option RetKind
  | 0 => some .beat | 1 => some .nak | 2 => some .held | 3 => some .release | 4 => some .rewind | _ => none

/-- What one cycle's control word does to the receiving side of its direction. -/
def wordIn (a b c v : BitVec 20) (l : LinkState) : LinkState :=
  let same := bit v 18 == l.liveLvl
  { l with dis := disTab l.dis a b c v, liveLvl := bit v 18, liveAge := if same then l.liveAge + 1 else 0, cyc := l.cyc + 1 }

/-- The return that a word carries reaches the sender of the opposite direction. -/
def returnIn (s : State) (d : LinkDir) (v : BitVec 20) : State :=
  match bit v 9, retKindOf (fld v 10 3) with
  | true, some k => s.modLink (revDir d) fun l => { l with retIn := l.retIn ++ [(k, chCtx (fld v 13 4) (bit v 17))] }
  | _, _ => s

/-! ## Beats (R33 to R40, R46) -/

/-- Drop the oldest `n` units driven: the receiver has consumed them. -/
def dropSent (n : Nat) (t : TxChan) : TxChan := { t with sent := t.sent.drop n, acc := t.acc - n }

/-- Change the sender's side of a channel and context. -/
def modTx (s : State) (d : LinkDir) (key : Nat) (f : TxChan → TxChan) : State :=
  s.modLink d fun l => { l with tx := tabMod {} l.tx key f }

/-- Change the receiver's side of a channel and context. -/
def modRx (s : State) (d : LinkDir) (key : Nat) (f : RxChan → RxChan) : State :=
  s.modLink d fun l => { l with rx := tabMod {} l.rx key f }

/-- The GID in the header at the start of a frame (Table 2-3). -/
def headGid (bytes : List Byte) : Nat := fld (BitVec.ofNat 24 (leAt bytes 0 3)) 8 12

/-- KIND at the start of a frame. -/
def headKind (bytes : List Byte) : Nat := leAt bytes 0 1 / 16

/-- A whole beat that passed its CRC is taken: into the input FIFO of its child slot on the up-path, and into the frame
being received. A beat that begins no frame and continues none is dropped as consumed. -/
def takeWhole (s : State) (d : LinkDir) (key : Nat) (sof eof : Bool) (data : List Byte) : State :=
  let l := s.link d
  let r := tabGet {} l.rx key
  let u := unitsPerBeat l.width
  if !sof && r.nbeat = 0 then modTx (modRx s d key fun r => { r with part := [] }) d key (dropSent u)
  else
    let cur := if sof then data else r.cur ++ data
    let n := if sof then 1 else r.nbeat + 1
    let g := if sof then headGid data else r.gid
    let s1 := modRx s d key fun r =>
      if eof then { r with part := [], cur := [], nbeat := 0, gid := g, whole := r.whole ++ [(cur, n)] }
      else { r with part := [], cur := cur, nbeat := n, gid := g }
    if key = ctlKey then (if eof then modTx s1 d key fun t => dropSent t.acc t else s1)
    else if d.down then modTx s1 d key (dropSent u)
    else
      let t := upTarget d.link (key % 2 == 1)
      s1.modNchan t.1 (key / 2) t.2.1 fun n =>
        { n with slots := tabMod {} n.slots t.2.2 fun x => { x with fifo := x.fifo ++ [⟨sof, eof, data, g⟩] } }

/-- A unit, a beat or a slice of one, that passed its CRC. -/
def acceptUnit (s : State) (d : LinkDir) (key : Nat) (v : BitVec 20) (data : List Byte) : State :=
  let r := tabGet {} (s.link d).rx key
  let part := r.part ++ data
  let sof := if r.part.isEmpty then bit v 1 else r.partSof
  let s1 := modTx (modRx s d key fun r => { r with discard := false, naks := 0, part := part, partSof := sof }) d key
    fun t => { t with acc := t.acc + 1 }
  if part.length < linkW d.link then s1 else takeWhole s1 d key sof (bit v 2) part

/-- A unit that the receiver had taken before it drew the NAK comes again, and is dropped (R40, log entry 19). -/
def dropDup (s : State) (d : LinkDir) (key : Nat) : State :=
  modRx s d key fun r => { r with discard := false, naks := 0, dup := r.dup - 1 }

/-- Key of the LINKCTL stream, or of the beat's channel and context. A beat belongs to a LINKCTL frame when it continues
one, or begins a frame of KIND 0xF (R35, R67). -/
def beatKey (l : LinkState) (v : BitVec 20) (data : List Byte) : Nat :=
  let r := tabGet {} l.rx ctlKey
  if r.nbeat != 0 || !r.part.isEmpty || (bit v 1 && headKind data == 15) then ctlKey else chCtx (fld v 4 4) (bit v 8)

/-- Key of a beat that failed its CRC: the LINKCTL frame that it continues, or its channel and context. -/
def failedKey (l : LinkState) (v : BitVec 20) : Nat :=
  let r := tabGet {} l.rx ctlKey
  if r.nbeat != 0 || !r.part.isEmpty then ctlKey else chCtx (fld v 4 4) (bit v 8)

/-- The failed beat may be the first of a LINKCTL frame: its data no longer say so, and one is on its way (R67). -/
def mayBeCtl (l : LinkState) (v : BitVec 20) : Bool :=
  bit v 1 && chCtx (fld v 4 4) (bit v 8) == 0 && !(tabGet {} l.tx ctlKey).sent.isEmpty

/-- A beat failed its CRC: NAK, discard until RPL, the hop error counter and F_HOP_CRC (R40). -/
def nakBeat (s : State) (d : LinkDir) (key : Nat) : State :=
  let ch := if key = ctlKey then 0 else key / 2
  let ctx := key != ctlKey && key % 2 == 1
  let s1 := s.modLink d fun l => { l with
    hopErr := l.hopErr + 1
    nakTimes := l.cyc :: l.nakTimes.filter (fun t => l.cyc < t + 1024)
    rx := tabMod {} l.rx key (fun r => if key = ctlKey
      then { r with discard := true, naks := r.naks + 1, part := [], cur := [], nbeat := 0 }
      else { r with discard := true, naks := r.naks + 1 }) }
  raise (dueRet s1 d ch ctx retNak) (linkEv .hopCrc d ch 0)

/-- A beat arrives: discarded until RPL where a NAK waits, judged by its CRC, and taken (R33, R40). The NAK of a LINKCTL beat names
channel 0, context 0, whose beats are discarded with it until RPL. -/
def receiveBeat (s : State) (d : LinkDir) (v : BitVec 20) (data : List Byte) (crc : BitVec 16) : State :=
  let l := s.link d
  let good := crc16 data == crc
  let key := if good then beatKey l v data else failedKey l v
  if (tabGet {} l.rx key).discard && !bit v 3 then s
  else if good then (if (tabGet {} l.rx key).dup != 0 then dropDup s d key else acceptUnit s d key v data)
  else
    let t := nakBeat s d key
    if key = ctlKey then modRx t d 0 fun r => { r with discard := true }
    else if mayBeCtl l v then modRx t d ctlKey fun r => { r with discard := true }
    else t

/-- One control word, and the beat with it (R31). -/
def receiveWord (s : State) (d : LinkDir) (a b c : BitVec 20) (data : List Byte) (crc : BitVec 16) : State :=
  if s.boot.rst.isSome then s
  else
    let v := vote a b c
    let s1 := returnIn (s.modLink d (wordIn a b c v)) d v
    if bit v 0 && !(s.link d).lost then receiveBeat s1 d v data crc else s1

/-- TREE_BEAT_RECEIVE (R31, R33, R38, R40, R42, R67). -/
def execTreeBeatReceive (d : LinkDir) (a b c : BitVec 20) (data : List Byte) (crc : BitVec 16) (s : State) :
    Host.Outcome State Fault Refusal :=
  answer (.treeBeatReceive d a b c data crc) (receiveWord s d a b c data crc)

/-- A control copy has disagreed on a bit for 4 cycles: F_LINK_CTL names the link, the direction and the bit (R31). -/
def ctlDisagree (s : State) (d : LinkDir) (copy bit : Nat) : State :=
  if tabGet 0 (s.link d).dis (copy * 20 + bit) < 4 then s
  else
    let s1 := s.modLink d fun l => { l with dis := tabSet 0 l.dis (copy * 20 + bit) 0 }
    raise s1 (linkEv .linkCtl d 0 bit)

/-- LINK_CTL_DISAGREE (R31). -/
def execLinkCtlDisagree (d : LinkDir) (copy bit : Nat) (s : State) : Host.Outcome State Fault Refusal :=
  answer (.linkCtlDisagree d copy bit) (ctlDisagree s d copy bit)

/-! ## Loss of a link (R32, R45) -/

/-- A standby link cannot serve a re-home: F_STANDBY; in use, its block has no further path (log entry 18). -/
def standbyFail (s : State) (d : LinkDir) (c : Nat) : State :=
  let s1 := (s.modLink d fun l => { l with unusable := true }).modLink (revDir d) fun l => { l with unusable := true }
  let s2 := raise s1 (linkEv .standby d 0 0)
  if switched s c then
    raise s2 { mkEv .rehomeLost 2 (buddy (blockOfCell c)) with detail := BitVec.ofNat 16 (blockOfCell c) }
  else s2

/-- What follows when a direction of a link can carry nothing: re-home, F_STANDBY or F_LINK_LOST (R32, R45, R56). -/
def linkFail (s : State) (d : LinkDir) (why : Nat) : State :=
  match d.link with
  | .cell c => if d.down then homeLostBy s c why else rehomeStart s (blockOfCell c)
  | .standby c => standbyFail s d c
  | .block b => rehomeStart s b
  | .region _ => raise s (linkEv .linkLost d 0 0)
  | .half _ => raise s (linkEv .linkLost d 0 0)

/-- No change of LIVE for 64 cycles (R32). -/
def liveLost (s : State) (d : LinkDir) : State :=
  let l := s.link d
  if l.liveAge < 64 || l.lost then s else linkFail (s.modLink d fun l => { l with lost := true }) d 0

/-- LIVE_TIMEOUT (R32). -/
def execLiveTimeout (d : LinkDir) (s : State) : Host.Outcome State Fault Refusal := answer (.liveTimeout d) (liveLost s d)

/-! ## Returns at the sender (R38 to R41) -/

/-- The oldest return of a kind for a channel and context that the sender has sampled, taken. -/
def takeRet (s : State) (d : LinkDir) (k : RetKind) (ch : Nat) (ctx : Bool) : Option State :=
  (takeFirst (fun e => e.1 == k && e.2 == chCtx ch ctx) (s.link d).retIn).map fun x =>
    s.modLink d fun l => { l with retIn := x.2 }

/-- The sender resends from the oldest unit not yet credited, with RPL, and has the credits of all that it had sent from that one
onward again (R40). -/
def nakTx (t : TxChan) : TxChan := { t with ready := t.sent ++ t.ready, sent := [], rpl := true }

/-- A NAK of a channel and context: the units that the receiver had already taken come again as well. -/
def nakChan (s : State) (d : LinkDir) (key : Nat) : State :=
  modRx (modTx s d key nakTx) d key fun r => { r with dup := (tabGet {} (s.link d).tx key).acc }

/-- The sender resends a LINKCTL frame whole (R67). -/
def nakCtl (t : TxChan) : TxChan :=
  { t with ready := t.sent ++ t.ready, sent := [], acc := 0, rpl := true }

/-- NAK sampled (R40, R42). On channel 0, context 0 it may stand for a LINKCTL frame (R67). -/
def nakReturned (s : State) (d : LinkDir) (ch : Nat) (ctx : Bool) : State :=
  match takeRet s d .nak ch ctx with
  | none => s
  | some t =>
    let r (k : Nat) : RxChan := tabGet {} (t.link d).rx k
    let t1 := if chCtx ch ctx = 0 && (r ctlKey).discard then modTx t d ctlKey nakCtl else t
    if (r (chCtx ch ctx)).discard then nakChan t1 d (chCtx ch ctx) else t1

/-- NAK_RETURN (R40). -/
def execNakReturn (d : LinkDir) (ch : Nat) (ctx : Bool) (s : State) : Host.Outcome State Fault Refusal :=
  answer (.nakReturn d ch ctx) (nakReturned s d ch ctx)

/-- Queue frames on a link direction in order. -/
def queueFrames (s : State) (d : LinkDir) (ch : Nat) (ctx : Bool) (fs : List Frame) : State :=
  fs.foldl (fun t f => queueFrame t d ch ctx f) s

/-- REWIND: the child sends its retained chunks again from the first beat of the oldest; a parent sends again the down
chunks of the slot that it has not seen released (R41, R62). Units taken and not yet credited stay counted. -/
def rewindTx (s : State) (d : LinkDir) (ch : Nat) (ctx : Bool) : State :=
  match takeRet s d .rewind ch ctx with
  | none => s
  | some t =>
    let x := tabGet {} (t.link d).tx (chCtx ch ctx)
    let k := x.acc - x.sent.length
    let t1 := modRx (modTx t d (chCtx ch ctx) fun x => { x with sent := x.sent ++ x.ready.take k, ready := [] }) d (chCtx ch ctx)
      fun r => { r with dup := r.dup - k }
    if d.down then let u := upTarget d.link ctx; resendDown t1 u.1 ch u.2.1 u.2.2
    else let u := upSender d.link ctx; queueFrames t1 d ch ctx (((t1.nchan u.1 ch u.2).up.filter fun x => !x.gone).map (·.frame))

/-- REWIND (R41). -/
def execRewind (d : LinkDir) (ch : Nat) (ctx : Bool) (s : State) : Host.Outcome State Fault Refusal :=
  answer (.rewind d ch ctx) (rewindTx s d ch ctx)

/-- The slots that fed a chunk of a node: every non-empty slot, or the one that an uncombined contribution came from. -/
def feeders (s : State) (n : NodeId) (ctx : Bool) (g : Nat) (src : Option Nat) : List Nat :=
  match src with | some i => [i] | none => memberSlots s n ctx g

/-- Mark the oldest up chunk not yet held as held by the parent. -/
def markHeld : List UpChunk → Option (UpChunk × List UpChunk)
  | [] => none
  | u :: r => if u.heldUp then (markHeld r).map fun y => (y.1, u :: y.2) else some (u, { u with heldUp := true } :: r)

/-- HELD from the parent: RELEASE to the children that fed the chunk (R39). -/
def heldUp (s : State) (d : LinkDir) (ch : Nat) (ctx : Bool) : State :=
  match takeRet s d .held ch ctx with
  | none => s
  | some t =>
    let u := upSender d.link ctx
    match markHeld (t.nchan u.1 ch u.2).up with
    | none => t
    | some y =>
      if y.1.gone then
        t.modNchan u.1 ch u.2 fun c =>
          { c with up := purgeGone (retTransit (t.link d) (chCtx ch ctx) .release) (retTransit (t.link d) (chCtx ch ctx) .held) y.2 }
      else retSlots (t.modNchan u.1 ch u.2 fun c => { c with up := y.2 }) u.1 ch u.2 (feeders t u.1 u.2 y.1.frame.gid y.1.src) retRelease

/-- HELD (R39). -/
def execHeld (d : LinkDir) (ch : Nat) (ctx : Bool) (s : State) : Host.Outcome State Fault Refusal :=
  answer (.held d ch ctx) (heldUp s d ch ctx)

/-! ## Down chunks (R53 to R55) -/

/-- The node's parent is told that a down chunk has been accepted by every child (R39); the apex has none to tell. -/
def releaseUp (s : State) (n : NodeId) (ch : Nat) (ctx : Bool) (f : Frame) : State :=
  if isApex s n f.gid f.cid then s
  else match upLink s n ctx with
    | some l => dueRet s ⟨l.1, true⟩ ch l.2 retRelease
    | none => s

/-- The down chunks that are freed, and those that stay: returns speak of chunks in order, so that one which every child has released
waits for those before it (R39). A discarded one is passed over. -/
def splitDone (done : DownChunk → Bool) : List DownChunk → List DownChunk × List DownChunk
  | [] => ([], [])
  | x :: r =>
    if x.gone then let t := splitDone done r; if done x then t else (t.1, x :: t.2)
    else if done x then let t := splitDone done r; (x :: t.1, t.2)
    else ([], x :: r.filter fun y => !(y.gone && done y))

/-- Down chunks that every child has released are freed, oldest first (R39). -/
def freeDown (s : State) (n : NodeId) (ch : Nat) (ctx : Bool) : State :=
  let t := splitDone (fun x => (downSlots s n ctx x.frame).all fun i => x.released.contains i) (s.nchan n ch ctx).down
  t.1.foldl (fun t x => releaseUp t n ch ctx x.frame) (s.modNchan n ch ctx fun c => { c with down := t.2 })

/-- Mark the oldest down chunk that satisfies a condition. -/
def markDown (p : DownChunk → Bool) (f : DownChunk → DownChunk) : List DownChunk → List DownChunk
  | [] => []
  | x :: r => if p x then f x :: r else x :: markDown p f r

/-- A child slot takes the oldest chunk held for it when it has a free down buffer (R38, R53). -/
def offerSlot (s : State) (n : NodeId) (ch : Nat) (ctx : Bool) (i : Nat) : State :=
  let waits (x : DownChunk) : Bool := !x.taken.contains i && (downSlots s n ctx x.frame).contains i
  match childLink s n ctx i, slotWaits s n ch ctx i with
  | some l, some x =>
    let m := downTarget l.1 l.2
    if childFree s n ch ctx i m then
      let s1 := s.modNchan n ch ctx fun c => { c with down := markDown waits (fun x => { x with taken := x.taken ++ [i] }) c.down }
      let s2 := s1.modNchan m.1 ch m.2 fun c => { c with downComing := c.downComing ++ [frameKey x.frame] }
      queueFrame s2 ⟨l.1, true⟩ ch l.2 x.frame
    else s
  | _, _ => s

/-- Child slot `i` releases its oldest down chunk: freed when it was the last, and the slot takes the oldest chunk held
for it in the same cycle (R39, R55); a cell takes the chunk of the channel whose turn it is (R50). -/
def slotReleased (s : State) (n : NodeId) (ch : Nat) (ctx : Bool) (i : Nat) : State :=
  let p (x : DownChunk) : Bool := x.taken.contains i && !x.released.contains i
  let s1 := s.modNchan n ch ctx fun c => { c with down := markDown p (fun x => { x with released := x.released ++ [i] }) c.down }
  let s2 := freeDown s1 n ch ctx
  match n with
  | .block _ => (List.range 16).foldl (fun t c => offerSlot t n c ctx i) s2
  | _ => offerSlot s2 n ch ctx i

/-- RELEASE: a retained up chunk is freed, or a child has accepted a down chunk (R39, R55). -/
def releaseIn (s : State) (d : LinkDir) (ch : Nat) (ctx : Bool) : State :=
  match takeRet s d .release ch ctx with
  | none => s
  | some t =>
    if d.down then let u := upTarget d.link ctx; slotReleased t u.1 ch u.2.1 u.2.2
    else let u := upSender d.link ctx; t.modNchan u.1 ch u.2 fun c => { c with up := c.up.drop 1 }

/-- RELEASE (R39, R50, R53, R55). -/
def execRelease (d : LinkDir) (ch : Nat) (ctx : Bool) (s : State) : Host.Outcome State Fault Refusal :=
  answer (.release d ch ctx) (releaseIn s d ch ctx)

/-- The oldest `n` units not yet credited are; one that waits to be sent again no longer needs to be (R38, R40). -/
def creditUnits (s : State) (d : LinkDir) (key n : Nat) : State :=
  let k := n - (tabGet {} (s.link d).tx key).sent.length
  if k = 0 then modTx s d key (dropSent n)
  else modRx (modTx s d key fun t => { t with sent := [], ready := t.ready.drop k, acc := t.acc - n }) d key fun r => { r with dup := r.dup - k }

/-- A BEAT credit: one entry of the input FIFO is free again (R38). -/
def beatIn (s : State) (d : LinkDir) (ch : Nat) (ctx : Bool) : State :=
  match takeRet s d .beat ch ctx with
  | none => s
  | some t => creditUnits t d (chCtx ch ctx) (unitsPerBeat (t.link d).width)

/-- BEAT_CREDIT (R38). -/
def execBeatCredit (d : LinkDir) (ch : Nat) (ctx : Bool) (s : State) : Host.Outcome State Fault Refusal :=
  answer (.beatCredit d ch ctx) (beatIn s d ch ctx)

/-! ## Start of a lane check (R43) -/

/-- One beat NAKed 3 times in succession, or 8 NAKs within 1,024 cycles. -/
def checkWanted (l : LinkState) : Bool :=
  l.rx.any (fun r => 3 ≤ r.2.naks) || 8 ≤ (l.nakTimes.filter fun t => l.cyc < t + 1024).length

/-- The receiver of `d` asks for a lane check of it: a LANE_CHECK request on the opposite direction (R67). -/
def askCheck (s : State) (d : LinkDir) (ncyc : Nat) : State :=
  let s1 := queueCtl s (revDir d) (linkCtl (rxNode d) [(0, 8, 1), (16, 24, ncyc)] [])
  s1.modLink d fun l => { l with chk := .asked ncyc l.cyc }

/-- The NAKs of a direction call for a lane check. -/
def checkTrigger (s : State) (d : LinkDir) : State :=
  let l := s.link d
  if l.chk = .idle && checkWanted l then
    (askCheck s d 128).modLink d fun l => { l with nakTimes := [], rx := tabMap {} (fun _ r => { r with naks := 0 }) l.rx }
  else s

/-- LANE_CHECK_TRIGGER (R43). -/
def execLaneCheckTrigger (d : LinkDir) (s : State) : Host.Outcome State Fault Refusal :=
  answer (.laneCheckTrigger d) (checkTrigger s d)

/-! ## The grant (R35, R42, R48) -/

/-- Depth of the input FIFOs of the node above an up direction, in beats (Tables 2-8, 8-2). -/
def fifoDepth : LinkId → Nat
  | .cell _ => 3 | .standby _ => 3 | _ => 4

/-- The half whose seam link this is. -/
def seamOf : LinkId → Option Nat
  | .half h => some h | _ => none

/-- A commit has paused the start of frames of a channel on a link (R339, Table 2-12). -/
def paused (s : State) (d : LinkDir) (ch : Nat) : Bool :=
  s.fab.pauseCh.contains ch || (match seamOf d.link with | some h => s.fab.pauseHalf.contains h | none => false)

/-- A channel and context may drive its next unit: one is ready, on the up-path a BEAT credit is held, and a paused channel
starts no frame. -/
def eligible (s : State) (d : LinkDir) (l : LinkState) (key : Nat) : Bool :=
  let t := tabGet {} l.tx key
  match t.ready with
  | [] => false
  | b :: _ => (d.down || t.sent.length < fifoDepth d.link * unitsPerBeat l.width) && !(b.sof && paused s d (key / 2))

/-- Weight of a channel (R48, R208). -/
def chWeight (s : State) (ch : Nat) : Nat := tabGet 1 s.fab.weight ch

/-- The channel that the weighted round-robin of R48 grants in a context. -/
def grantChan (s : State) (d : LinkDir) (l : LinkState) (ctx : Bool) : Option Nat :=
  ((List.range 16).map fun i => (tabGet 0 l.ptr (b2n ctx) + i) % 16).find? fun c => eligible s d l (chCtx c ctx)

/-- The arbitration state after a grant of channel `c` (R48). -/
def afterGrant (s : State) (c : Nat) (ctx : Bool) (l : LinkState) : LinkState :=
  let p := tabGet 0 l.ptr (b2n ctx)
  let n0 := tabGet 0 l.cnt (b2n ctx)
  let n := (if c != p || n0 == 0 then chWeight s c else n0) - 1
  let p1 := if n = 0 then (c + 1) % 16 else c
  { l with ptr := tabSet 0 l.ptr (b2n ctx) p1, cnt := tabSet 0 l.cnt (b2n ctx) (if n = 0 then chWeight s p1 else n), lastForeign := ctx }

/-- The sender of `d` is a hub whose block re-homes: it drives none of its links (Table 2-9, step 1). -/
def silent (s : State) (d : LinkDir) : Bool :=
  match txNode d with | .block b => rehomed s b | _ => false

/-- The sender of `d` is a cell that has stopped sending on its primary link (Table 2-9, step 1). -/
def cellQuiet (s : State) (d : LinkDir) : Bool :=
  match d.link with | .cell c => !d.down && rehomed s (blockOfCell c) | _ => false

/-- Key of the unit to drive in this cycle, and the arbitration state after it: a beat in slices goes on, a LINKCTL frame
goes first, and the contexts alternate (R35, R46, R48). -/
def chooseUnit (s : State) (d : LinkDir) (l : LinkState) : Option (Nat × LinkState) :=
  let t := tabGet {} l.tx l.midKey
  if cellQuiet s d then none
  else if t.sent.length % unitsPerBeat l.width != 0 && !t.ready.isEmpty then some (l.midKey, l)
  else if !(tabGet {} l.tx ctlKey).ready.isEmpty then some (ctlKey, l)
  else if l.hold || s.stopped || (s.node (txNode d)).kac then none
  else
    let own := grantChan s d l false
    let far := grantChan s d l true
    let pick : Option (Nat × Bool) :=
      match own, far with
      | some a, some b => if l.lastForeign then some (a, false) else some (b, true)
      | some a, none => some (a, false)
      | none, some b => some (b, true)
      | none, none => none
    pick.map fun y => (chCtx y.1 y.2, afterGrant s y.1 y.2 l)

/-- Order of the kinds of return due in one cycle (R42). -/
def retOrder : List (RetKind × Nat) := [(.nak, 1), (.rewind, 4), (.held, 2), (.release, 3), (.beat, 0)]

/-- A return of a kind is due. -/
def retDue (k : RetKind) (r : RetDue) : Bool :=
  match k with
  | .nak => r.nak | .rewind => r.rewind | .held => 0 < r.held | .release => 0 < r.release | .beat => 0 < r.beat

/-- A return of a kind has been sent. -/
def retSent (k : RetKind) (r : RetDue) : RetDue :=
  match k with
  | .nak => { r with nak := false } | .rewind => { r with rewind := false } | .held => { r with held := r.held - 1 }
  | .release => { r with release := r.release - 1 } | .beat => { r with beat := r.beat - 1 }

/-- The return to send in this cycle: kind, its code, channel and context (R42). -/
def pickRet (rs : Tab RetDue) : Option (RetKind × Nat × Nat) :=
  retOrder.findSome? fun k => (rs.find? fun e => retDue k.1 e.2).map fun e => (k.1, k.2, e.1)

/-- The return part of a control word. -/
def retWord : Option (RetKind × Nat × Nat) → BitVec 20
  | some (_, code, key) => pack 20 [(9, 1, 1), (10, 3, code), (13, 4, key / 2), (17, 1, key % 2)]
  | none => 0

/-- Drive one unit of a key: the sender's side and the beat's part of the control word. -/
def driveUnit (l : LinkState) (key : Nat) : LinkState :=
  let t := tabGet {} l.tx key
  match t.ready with
  | [] => l
  | u :: r =>
    let w : BitVec 20 := pack 20 [(0, 1, 1), (1, 1, b2n u.sof), (2, 1, b2n u.eof), (3, 1, b2n t.rpl),
      (4, 4, if key = ctlKey then 0 else key / 2), (8, 1, if key = ctlKey then 0 else key % 2)]
    let prbs := key = ctlKey && u.eof && r.isEmpty && l.prbsDue.isSome
    { l with
      tx := tabSet {} l.tx key { t with ready := r, sent := t.sent ++ [u], rpl := false }
      midKey := key
      word := l.word ||| w
      beatOut := some (u.data, crc16 u.data)
      prbs := l.prbs || prbs
      prbsLeft := if prbs then l.prbsDue.getD 0 else l.prbsLeft
      prbsDue := if prbs then none else l.prbsDue }

/-- One cycle of PRBS-7; the run ends after the cycles that the exchange names (R67). -/
def prbsCycle (l : LinkState) : LinkState := { l with prbsLeft := l.prbsLeft - 1, prbs := decide (1 < l.prbsLeft) }

/-- The part of a control word that is driven every cycle: LIVE toggles every 16 cycles (Table 2-2). -/
def liveWord (l : LinkState) : LinkState :=
  let t := 16 ≤ l.liveCnt + 1
  let v := if t then !l.liveDrv else l.liveDrv
  { l with liveDrv := v, liveCnt := if t then 0 else l.liveCnt + 1, word := pack 20 [(18, 1, b2n v)], beatOut := none }

/-- One cycle of a direction: LIVE, at most one return and at most one beat (R31, R42, R48). -/
def grantCycle (s : State) (d : LinkDir) : State :=
  if s.boot.rst.isSome || (s.link d).lost then s
  else if silent s d then s.modLink d fun l => { l with word := pack 20 [(18, 1, b2n l.liveDrv)], beatOut := none }
  else
    let ret := pickRet (s.link (revDir d)).rets
    let s1 := match ret with
      | some (k, _, key) => s.modLink (revDir d) fun l => { l with rets := tabMod {} l.rets key (retSent k) }
      | none => s
    let l1 := liveWord (s1.link d)
    let l2 := { l1 with word := l1.word ||| retWord ret }
    let l3 := if l2.prbs then prbsCycle l2 else match chooseUnit s1 d l2 with
      | some y => driveUnit y.2 y.1
      | none => l2
    s1.modLink d fun _ => l3

/-- LINK_GRANT (R35, R38, R42, R47, R48, R59). -/
def execLinkGrant (d : LinkDir) (s : State) : Host.Outcome State Fault Refusal := answer (.linkGrant d) (grantCycle s d)

end Sys2Proof.Machine
end

