-- ==== Sys2Proof/Machine/TreeCmds.lean ====
section
/-! DEFINITION. Commands of the nodes of the tree (R36, R49 to R63): frames received, up chunks combined, down chunks delivered, lockstep. -/
namespace Sys2Proof.Machine

/-! ## Which frames a node takes (R36, R58) -/

/-- The chunk that a frame carries, when its collective is in progress on the chip. -/
def chunkKey (s : State) (f : Frame) : Option ChunkKey :=
  (collOf (s.group f.gid) f.cid).map fun c => ⟨f.gid, f.epoch, c.order, f.cseq⟩

/-- A frame of the group's current epoch as the node holds it, of a collective in progress (R36). One of a collective that is no longer
in progress is discarded like a stale one, with no event (log entry 112). -/
def frameCurrent (s : State) (n : NodeId) (ctx : Bool) (f : Frame) : Bool :=
  nodeEpoch s n ctx f.gid == some f.epoch && (collOf (s.group f.gid) f.cid).isSome

/-- Fields of a header that its first beat already shows: KIND, FMT and OP as the channel permits (R36). -/
def headOk (f : Frame) (down : Bool) : Bool := if down then f.kind == 3 else f.kind == 1 || f.kind == 2

/-- The header, read from the first beat of an up frame, of a chunk that the node is to combine: current, and not one
whose output it has already held whole (R36, R58). -/
def wanted (s : State) (n : NodeId) (ch : Nat) (ctx : Bool) (f : Frame) : Bool :=
  frameCurrent s n ctx f && headOk f false && match chunkKey s f with
    | some k => !(s.nchan n ch ctx).upSeen.contains k
    | none => false

/-- Drop from a FIFO what belongs to no wanted frame: `ok` judges a frame by its first beat. -/
def purgeFifo (ok : Frame → Bool) : List Beat → List Beat
  | [] => []
  | b :: r => if b.sof && ok (parseFrame b.data) then b :: r else purgeFifo ok r

/-- The FIFO of a child slot without the beats of discarded frames, whose credits go back (R36). -/
def purgeSlot (n : NodeId) (ch : Nat) (ctx : Bool) (s : State) (i : Nat) : State :=
  let x := tabGet {} (s.nchan n ch ctx).slots i
  if x.taken != 0 then s
  else
    let keep := purgeFifo (wanted s n ch ctx) x.fifo
    let gone := x.fifo.length - keep.length
    if gone = 0 then s
    else
      let s1 := s.modNchan n ch ctx fun c => { c with slots := tabMod {} c.slots i fun y => { y with fifo := keep } }
      retSlots s1 n ch ctx [i] fun r => { r with beat := satAdd 63 r.beat gone }

/-- Every child slot of a channel purged. -/
def purgeSlots (s : State) (n : NodeId) (ch : Nat) (ctx : Bool) : State :=
  (List.range (nslots n)).foldl (purgeSlot n ch ctx) s

/-! ## FRAME_RECEIVE (R36, R58, R67) -/

/-- LENW agrees with the EOF position (R34, R36). -/
def lenOk (d : LinkDir) (f : Frame) (nbeat : Nat) : Bool := nbeat == ceilDiv (64 + f.payload.length) (linkW d.link)

/-- The frame's header and trailer are as R35 to R37 require on its channel. -/
def frameOk (d : LinkDir) (ch : Nat) (f : Frame) (bytes : List Byte) (nbeat : Nat) : Bool :=
  lenOk d f nbeat && frameReservedOk bytes && headOk f d.down && frameFieldsOk f && f.ch == ch

/-- F_FRAME on the group that the header names (R36). -/
def frameEvent (s : State) (d : LinkDir) (f : Frame) : Event :=
  let n := rxNode d
  ((mkEv .frame n.skind n.idx).onGroup s f.gid).onChunk f.cid f.cseq

/-- The frame's chunk again. -/
def isChunk (f g : Frame) : Bool := f.gid == g.gid && f.epoch == g.epoch && f.cid == g.cid && f.cseq == g.cseq

/-- A discarded up frame is answered as if it had been consumed: HELD and RELEASE, each unless the child has it already or
will have it from the chunk that the node still holds (R36, R58). -/
def answerUp (s : State) (d : LinkDir) (ch : Nat) (ctx : Bool) (f : Frame) : State :=
  let l := s.link d
  let key := chCtx ch ctx
  let c := upSender d.link ctx
  let t := upTarget d.link ctx
  match (s.nchan c.1 ch c.2).up.find? fun u => !u.gone && isChunk u.frame f with
  | none => s
  | some u =>
    let s1 := if !u.heldUp && retTransit l key .held = 0 then dueRet s d ch ctx retHeld else s
    let keeps := (s.nchan t.1 ch t.2.1).up.any fun v => isChunk v.frame f && !v.heldUp
    if !keeps && retTransit l key .release = 0 then dueRet s1 d ch ctx retRelease else s1

/-- A discarded down frame is answered with RELEASE, unless the parent has it already or will have it from the chunk that
the node still holds (R36, R58). -/
def answerDown (s : State) (d : LinkDir) (ch : Nat) (ctx : Bool) (f : Frame) : State :=
  let m := downTarget d.link ctx
  let u := upTarget d.link ctx
  let owes := (s.nchan u.1 ch u.2.1).down.any fun x => !x.gone && isChunk x.frame f && x.taken.contains u.2.2 && !x.released.contains u.2.2
  let keeps := (s.nchan m.1 ch m.2).down.any fun x => isChunk x.frame f
  if owes && !keeps && retTransit (s.link d) (chCtx ch ctx) .release = 0 then dueRet s d ch ctx retRelease else s

/-- A whole up frame is judged: discarded as stale or as already held, F_FRAME, or kept for the combine. -/
def upFrame (s : State) (d : LinkDir) (ch : Nat) (ctx : Bool) (bytes : List Byte) (nbeat : Nat) : State :=
  let f := parseFrame bytes
  let t := upTarget d.link ctx
  let back (u : State) : State := answerUp (purgeSlot t.1 ch t.2.1 u t.2.2) d ch ctx f
  if !frameCurrent s t.1 t.2.1 f then back s
  else if !frameOk d ch f bytes nbeat then raise s (frameEvent s d f)
  else if !wanted s t.1 ch t.2.1 f then back s
  else s.modNchan t.1 ch t.2.1 fun c =>
    { c with slots := tabMod {} c.slots t.2.2 fun x => { x with frames := x.frames ++ [f] } }

/-- Keys kept of the chunks that a node has taken: more than its buffers can hold of one channel. -/
def seenCap : Nat := 256

/-- A whole down frame is judged: its buffer is freed again when it is discarded, else the node holds the chunk. -/
def downFrame (s : State) (d : LinkDir) (ch : Nat) (ctx : Bool) (bytes : List Byte) (nbeat : Nat) : State :=
  let f := parseFrame bytes
  let m := downTarget d.link ctx
  let s1 := s.modNchan m.1 ch m.2 fun c => { c with downComing := c.downComing.drop 1 }
  match frameCurrent s m.1 m.2 f, chunkKey s f with
  | true, some k =>
    if !frameOk d ch f bytes nbeat then raise s1 (frameEvent s d f)
    else if (s.nchan m.1 ch m.2).downSeen.contains k then answerDown s1 d ch ctx f
    else s1.modNchan m.1 ch m.2 fun c =>
      { c with down := c.down ++ [{ frame := f, since := s.tb }], downSeen := (k :: c.downSeen).take seenCap }
  | _, _ => answerDown s1 d ch ctx f

/-- A LINKCTL frame is as R67 requires: its header and trailer, LOP, LENW, and zeros in every reserved field. -/
def ctlOk (d : LinkDir) (bytes : List Byte) (nbeat : Nat) : Bool :=
  let f := parseFrame bytes
  let h : BitVec 256 := BitVec.ofNat 256 (leAt bytes 0 32)
  let b : BitVec 128 := BitVec.ofNat 128 (leAt f.payload 0 16)
  let lop := fld b 0 8
  let nent := fld b 43 12
  let len := 4 * ceilDiv (16 + 2 * nent) 4
  let ents := (List.range nent).map fun i => leAt f.payload (16 + 2 * i) 2
  f.kind == 15 && zeros h [(0, 4), (8, 92), (110, 10), (136, 120)] && f.slvl < 6 && f.status == 0 && f.vanish == 0 && f.nslot == 0
    && zeros (BitVec.ofNat 256 (leAt bytes (32 + f.payload.length) 32) : BitVec 256) [(93, 163)]
    && 1 ≤ lop && lop ≤ 4 && f.payload.length == len && lenOk d f nbeat && nent ≤ 2040
    && zeros b [(9, 7), (63, 1), (75, 53)]
    && (lop == 1 || zeros b [(8, 1), (16, 24)]) && (lop == 2 || zeros b [(40, 2), (42, 1), (43, 12)])
    && (lop == 3 || lop == 4 || zeros b [(55, 6)]) && (lop == 3 || zeros b [(61, 2), (64, 11)])
    && ents.all (fun e => e < 2 ^ 14) && (slice f.payload (16 + 2 * nent) (len - 16 - 2 * nent)).all (· == 0)

/-- A LINKCTL frame is judged: F_LINK_CTL names the link when it is bad, and no group is aborted (R67). -/
def ctlFrame (s : State) (d : LinkDir) (bytes : List Byte) (nbeat : Nat) : State :=
  if !ctlOk d bytes nbeat then raise s (linkEv .linkCtl d 0 0)
  else
    let f := parseFrame bytes
    s.modLink d fun l => { l with ctlIn := l.ctlIn ++ [{ slvl := f.slvl, sidx := f.sidx, payload := f.payload }] }

/-- The oldest whole frame of a channel and context, or of the LINKCTL stream, is judged. -/
def receiveFrame (s : State) (d : LinkDir) (ch : Nat) (ctx : Bool) : State :=
  let key := if ch = 16 then ctlKey else chCtx ch ctx
  match (tabGet {} (s.link d).rx key).whole with
  | [] => s
  | w :: r =>
    let t := modRx s d key fun x => { x with whole := r }
    if ch = 16 then ctlFrame t d w.1 w.2
    else if d.down then downFrame t d ch ctx w.1 w.2
    else upFrame t d ch ctx w.1 w.2

/-- FRAME_RECEIVE (R36, R58, R67, R68, R69, R103, R105). -/
def execFrameReceive (d : LinkDir) (ch : Nat) (ctx : Bool) (s : State) : Host.Outcome State Fault Refusal :=
  answer (.frameReceive d ch ctx) (receiveFrame s d ch ctx)

/-! ## Uncombined contributions in CSEQ order (R49, R250) -/

/-- Cores below a node that the posting gives a push. -/
def pushersIn (s : State) (n : NodeId) (g : Group) (c : Coll) : List Nat :=
  let sp := coreSpan n
  (memberCores g).filter fun k => sp.1 ≤ k && k < sp.1 + sp.2 && s.present k && (pushCount s g c.desc k).isSome

/-- CSEQ of the next contribution chunk that a node passes on, for an uncombined collective. -/
def copyWant (s : State) (n : NodeId) (ch : Nat) (ctx : Bool) (gid : Nat) (c : Coll) : Nat :=
  match (s.nchan n ch ctx).copyNext.find? fun e => e.1 == gid && e.2.1 == c.cid with
  | some e => e.2.2
  | none => match pushersIn s (maskNode n ctx) (s.group gid) c with
    | k :: _ => pushChunk0 (s.group gid) c k
    | [] => 0

/-- One past the last contribution chunk that a node passes on. -/
def copyEnd (s : State) (n : NodeId) (ctx : Bool) (gid : Nat) (c : Coll) : Nat :=
  let g := s.group gid
  match (pushersIn s (maskNode n ctx) g c).getLast? with
  | some k => pushChunk0 g c k + chunksOf c ((pushCount s g c.desc k).getD 0)
  | none => 0

/-- The contribution chunk `cseq` has been passed on. -/
def copyStep (s : State) (n : NodeId) (ch : Nat) (ctx : Bool) (gid : Nat) (c : Coll) (cseq : Nat) : State :=
  let e := copyEnd s n ctx gid c
  s.modNchan n ch ctx fun x =>
    let r := x.copyNext.filter fun e => e.1 != gid || e.2.1 != c.cid
    { x with copyNext := if cseq + 1 < e then r ++ [(gid, c.cid, cseq + 1)] else r }

/-! ## Output chunks (R39, R49, R51, R108 to R112, R124, R125, R128) -/

/-- Wire bytes of a combined element. -/
def encodeOp (fmt : Nat) : Operand → List Byte
  | .int n => leBytes 16 (uns 80 n)
  | .empty => leBytes (elemBytes fmt) 0
  | o => leBytes (elemBytes fmt) (encodeFp (if fmt == fmtFP16 then fp16 else fp32) (opdVal o)).1

/-- What a combine of chunks answers: payload and status word. `cols` holds each child slot's elements. -/
def combineCols (fmt op levels n : Nat) (cols : List (List Operand)) (flags : BitVec 64) (i80 : BitVec 64) : List Byte × BitVec 64 :=
  let es := (List.range n).map fun i => combTree (dieAcc fmt) op levels (cols.map fun c => c.getD i .empty)
  let afl := es.foldl (fun (a : BitVec 7) e => a ||| e.2) 0
  let bytes := es.flatMap fun e => encodeOp fmt e.1
  if fmt == fmtI80 then (bytes, addFlags (i80 ||| flags) 0 afl)
  else (bytes, outStatus (es.map fun e => opdVal e.1) (addFlags flags 0 afl))

/-- The output chunk of a hub or root from the frames of its slots, empty slots absent (R52, R111). -/
def combineFrames (n : NodeId) (hdr : Frame) (fs : List (Nat × Frame)) : Frame :=
  let f0 := match fs with | f :: _ => f.2 | [] => hdr
  let ne := f0.payload.length / elemBytes hdr.fmt
  let cols := (List.range (nslots n)).map fun i =>
    match fs.find? fun e => e.1 == i with | some e => wireOperands hdr.fmt ne e.2.payload | none => []
  let flags := (fs.map (·.2.status)).foldl (fun a b => a ||| flagPart b) 0
  let i80 := swTree (treeLevels n) ((List.range (nslots n)).map fun i => (fs.find? fun e => e.1 == i).map (·.2.status))
  let r := combineCols hdr.fmt hdr.op (treeLevels n) ne cols flags i80
  { hdr with payload := r.1, status := r.2, vanish := fs.foldl (fun a e => satAdd 0xFFFF a e.2.vanish) 0,
             nslot := fs.foldl (fun a e => a + e.2.nslot) 0 }

/-- The down chunk that an output chunk becomes at the apex (R51). -/
def toDown (n : NodeId) (f : Frame) : Frame := { f with kind := 3, op := 0, slvl := n.lvl, sidx := n.idx, nslot := 0 }

/-- F_NAN_TRAP on the group, naming the chunk and the epoch (R128). -/
def trapEvent (f : Frame) (skind sidx : Nat) : Event :=
  { (mkEv .nanTrap skind sidx).onChunk f.cid f.cseq with gid := some f.gid, epoch := f.epoch }

/-- A trap comes before the record that stands: a lower CSEQ of the same collective, or the same and a lower step (R128). -/
def trapBefore (r t : TrapRec) : Bool :=
  r.cid == t.cid && (decide (t.cseq.toNat < r.cseq.toNat) || (t.cseq == r.cseq && decide (t.ord < r.ord)))

/-- The trap record of Table 4-11: one of the epoch that stands gives way only to a trap that comes before it. `ord` is the step that
trapped, and STEP shows it where the schedule was loaded (R128). -/
def latchTrap (s : State) (f : Frame) (ord : Nat) (shown sv : Bool) : State :=
  let t : TrapRec := { cid := f.cid, cseq := f.cseq, npos := fld f.status 0 21, step := if shown then ord else 0, sv := sv, epoch := f.epoch, ord := ord }
  s.modGroup f.gid fun g => { g with trap := match g.trap with
    | some r => if r.epoch = f.epoch ∧ trapBefore r t = false then some r else some t
    | none => some t }

/-- A trap of the epoch has stopped the forwarding of the chunk: one of its collective, at it or before it (R128). -/
def trapped (s : State) (f : Frame) : Bool :=
  match (s.group f.gid).trap with
  | some r => r.epoch == f.epoch && r.cid == f.cid && decide (r.cseq.toNat ≤ f.cseq.toNat)
  | none => false

/-- The whole output chunk at the apex: trapped, kept at the spine root for the DIE_IN of a schedule, or turned into the
down chunk (R51, R128, R215). -/
def apexTurn (s : State) (n : NodeId) (ch : Nat) (ctx : Bool) (f : Frame) : State :=
  if trapped s f then s
  else if (s.group f.gid).ntrap && bit f.status 21 then raise (latchTrap s f 0 false false) (trapEvent f n.skind n.idx)
  else match collOf (s.group f.gid) f.cid with
    | some c =>
      let s := if dColl c.desc == cSCALEPASS && !c.carried then
        modColl s f.gid f.cid fun c => { c with r := some (BitVec.ofNat 32 (leAt f.payload 0 4)) } else s
      s.modNchan n ch ctx fun x =>
        if c.carried && n == .spine then { x with up := x.up ++ [{ frame := f }] }
        else { x with down := x.down ++ [{ frame := toDown n f, since := s.tb }] }
    | none => s

/-- The node's output chunk is whole: HELD to the children that fed it, and up, or at the apex HELD and RELEASE and down
(R39, R49, R51). -/
def chunkWhole (s : State) (n : NodeId) (ch : Nat) (ctx : Bool) (f : Frame) (src : Option Nat) : State :=
  let fs := feeders s n ctx f.gid src
  let s1 := s.modNchan n ch ctx fun c => { c with
    out := none, mism := 0, upSeen := (match chunkKey s f with | some k => (k :: c.upSeen).take seenCap | none => c.upSeen) }
  let s2 := retSlots s1 n ch ctx fs retHeld
  if isApex s n f.gid f.cid then apexTurn (retSlots s2 n ch ctx fs retRelease) n ch ctx f
  else sendUp (s2.modNchan n ch ctx fun c => { c with up := c.up ++ [{ frame := f, src := src }] }) n ch ctx f

/-! ## UP_COMBINE at a hub or root (R49) -/

/-- The same chunk of the same collective. -/
def sameChunk (a b : Frame) : Bool := a.gid == b.gid && a.cid == b.cid && a.cseq == b.cseq && a.kind == b.kind

/-- The header at the front of a child slot's FIFO, which is first in, first out for every group on the channel (R38; log entry 134). -/
def frontHead (s : State) (n : NodeId) (ch : Nat) (ctx : Bool) (i : Nat) : Option Frame :=
  match (tabGet {} (s.nchan n ch ctx).slots i).fifo with
  | b :: _ => if b.sof then some (parseFrame b.data) else none
  | [] => none

/-- The output chunk that slot `i`'s oldest frame calls for, when beat 0 of every slot that feeds it is present. -/
def openFrom (s : State) (n : NodeId) (ch : Nat) (ctx : Bool) (i : Nat) : Option OutChunk :=
  match frontHead s n ch ctx i with
  | none => none
  | some h =>
    let hdr := { h with slvl := (maskNode n ctx).lvl, sidx := (maskNode n ctx).idx, payload := [] }
    match collOf (s.group h.gid) h.cid with
    | none => none
    | some c =>
      if h.kind == 2 then
        (if h.cseq.toNat == copyWant s n ch ctx h.gid c then some { hdr := hdr, src := some i } else none)
      else if (memberSlots s n ctx h.gid).all fun j => match frontHead s n ch ctx j with | some f => sameChunk f h | none => false
      then some { hdr := hdr } else none

/-- Beat `i` of every feeding slot is taken out of its FIFO, and its credit goes back (R38, R49). -/
def popBeats (s : State) (n : NodeId) (ch : Nat) (ctx : Bool) (o : OutChunk) : State :=
  let fs := feeders s n ctx o.hdr.gid o.src
  let c := s.nchan n ch ctx
  let front (i : Nat) : Option Beat := (tabGet {} c.slots i).fifo.head?
  if o.eof || !(fs.all fun i => match front i with | some b => b.sof == (o.done == 0) | none => false) then s
  else
    let eof := fs.any fun i => match front i with | some b => b.eof | none => false
    let s1 := s.modNchan n ch ctx fun c =>
      { c with
        out := some { o with done := o.done + 1, eof := eof }
        slots := fs.foldl (fun t i => tabMod {} t i fun x => { x with fifo := x.fifo.drop 1, taken := if eof then 0 else x.taken + 1 }) c.slots }
    retSlots s1 n ch ctx fs retBeat

/-- Every beat has been combined: with every frame judged good, the output chunk is whole. -/
def finishOut (s : State) (n : NodeId) (ch : Nat) (ctx : Bool) : State :=
  let c := s.nchan n ch ctx
  match c.out with
  | none => s
  | some o =>
    let fs := feeders s n ctx o.hdr.gid o.src
    let got := fs.filterMap fun i => match (tabGet {} c.slots i).frames with
      | f :: _ => if sameChunk f o.hdr then some (i, f) else none
      | [] => none
    if !o.eof || got.length != fs.length then s
    else
      let s1 := s.modNchan n ch ctx fun c =>
        { c with slots := fs.foldl (fun t i => tabMod {} t i fun x => { x with frames := x.frames.drop 1 }) c.slots }
      match o.src, got, collOf (s.group o.hdr.gid) o.hdr.cid with
      | some _, (_, f) :: _, some k =>
        chunkWhole (copyStep s1 n ch ctx f.gid k f.cseq.toNat) n ch ctx { f with slvl := o.hdr.slvl, sidx := o.hdr.sidx } o.src
      | _, _, _ => chunkWhole s1 n ch ctx (combineFrames n o.hdr got) none

/-- One step of a hub or root: open an output chunk when a buffer is free, combine its next beat, finish it. -/
def hubCombine (s0 : State) (n : NodeId) (ch : Nat) (ctx : Bool) : State :=
  let s := purgeSlots s0 n ch ctx
  let o := match (s.nchan n ch ctx).out with
    | some o => some o
    | none => if upFree s n ch ctx then (List.range (nslots n)).findSome? (openFrom s n ch ctx) else none
  match o with
  | some o => finishOut (popBeats s n ch ctx o) n ch ctx
  | none => s

/-! ## The cell (R50, R96, R176, R180) -/

/-- The chunk that core k's push would supply next: group, posting, chunk number and elements. -/
def streamNext (s : State) (k : Nat) : Option (Nat × Coll × Nat × Nat) :=
  match pushOf s k with
  | some (x, c) => if x.cur < x.nchunk then some (x.gid, c, x.cur, pushLen x c) else none
  | none => none

/-- The chunk that core k's scalar would supply. -/
def scalarNext (s : State) (k : Nat) : Option (Nat × Coll × Nat × Nat) :=
  match (s.port k).scal with
  | some x =>
    if x.waiting || x.sent then none
    else match collOf (s.group x.gid) x.cid with
      | some c => if (pushCount s (s.group x.gid) c.desc k).isSome then some (x.gid, c, 0, 1) else none
      | none => none
  | none => none

/-- Place of a collective in the issue order of its group on this chip (R270). -/
def issuePos (s : State) (g : Nat) (cid : BitVec 32) : Nat := (s.group g).colls.findIdx fun c => c.cid == cid

/-- Collectives of a group of which core k's port holds a push, or a scalar that pushes, with chunks still to be opened. -/
def owedPushes (s : State) (k g : Nat) : List Coll :=
  let p := s.port k
  let xs := (p.push.run.toList.filter fun x => x.waiting || decide (x.cur < x.nchunk)) ++ p.push.que.toList
  (((xs.filter fun x => x.gid == g).map (·.cid)).filterMap (collOf (s.group g))) ++
    ((p.scal.toList.filter fun x => x.gid == g && !x.sent).filterMap fun x =>
      (collOf (s.group g) x.cid).bind fun c => if (pushCount s (s.group g) c.desc k).isSome then some c else none)

/-- The chunks that core k would supply next: its stream and its scalar go each on its own (R173, R181), but collectives of one group
that share a channel go up it in issue order, so that every FIFO of R38 brings them in one order (DESIGN CHOICE, log entry 135). -/
def supplies (s : State) (k : Nat) : List (Nat × Coll × Nat × Nat) :=
  ((streamNext s k).toList ++ (scalarNext s k).toList).filter fun y => (owedPushes s k y.1).all fun c =>
    c.ch != y.2.1.ch || decide (issuePos s y.1 y.2.1.cid ≤ issuePos s y.1 c.cid)

/-- Cores of a cell that take part in one up chunk: the core alone for an uncombined contribution, else every present
member of the quad with a push (R50, R52). -/
def quadOf (s : State) (cell gid : Nat) (c : Coll) (k : Nat) : List Nat :=
  if isCopyColl c.desc then [k]
  else ([0, 1, 2, 3].map fun q => 4 * cell + q).filter fun j =>
    s.present j && (pushCount s (s.group gid) c.desc j).isSome && (nodeMask s (.cell cell) false gid).testBit (j % 4)

/-- The up chunk that one supply of core k calls for, when every core that takes part in it has posted it: of the epoch that the cell holds
(R195, R286). -/
def supplyOpens (s : State) (cell ch k : Nat) (y : Nat × Coll × Nat × Nat) : Option OutChunk :=
  match y with
  | (gid, c, j, n) =>
    let copy := isCopyColl c.desc
    let cseq := pushSeq s k c j
    let all := (quadOf s cell gid c k).all fun i => (supplies s i).any fun y => y.1 == gid && y.2.1.cid == c.cid && y.2.2.1 == j
    if c.ch == ch && all && (!copy || cseq == copyWant s (.cell cell) ch false gid c) then
      some { hdr := { ch := ch, kind := if copy then 2 else 1, gid := gid, epoch := (nodeEpoch s (.cell cell) false gid).getD (s.group gid).epoch, cid := c.cid,
                      cseq := BitVec.ofNat 32 cseq, fmt := frameFmt c, op := if copy then 0 else treeOp c.desc, slvl := 1, sidx := cell },
             src := if copy then some (k % 4) else none, nel := n }
    else none

/-- The up chunk that core k's next supply calls for on a channel. -/
def cellOpens (s : State) (cell ch k : Nat) : Option OutChunk := (supplies s k).findSome? (supplyOpens s cell ch k)

/-- The up chunk that a cell would open on a channel. -/
def cellNext (s : State) (cell ch : Nat) : Option OutChunk := ([0, 1, 2, 3].map fun q => 4 * cell + q).findSome? (cellOpens s cell ch)

/-- The turn of a channel for one of the two up buffers of a cell (R50). -/
def cellUpFree (s : State) (cell ch : Nat) : Bool :=
  cellTurn (2 - cellUse s (.cell cell) false) (fun c => decide (0 < upUse (s.nchan (.cell cell) c false)))
    ((List.range 16).filter fun c => (s.nchan (.cell cell) c false).out.isNone && (cellNext s cell c).isSome) ch

/-- Cores that feed the output chunk of a cell. -/
def cellFeeders (s : State) (cell : Nat) (o : OutChunk) : List Nat :=
  match o.src, collOf (s.group o.hdr.gid) o.hdr.cid with
  | some q, _ => [4 * cell + q]
  | none, some c => quadOf s cell o.hdr.gid c (4 * cell)
  | none, none => []

/-- The cell asks a core for its elements of a chunk: it reads the chunk of a stream, or takes the scalar's element (R96, R175, R181). -/
def askCore (o : OutChunk) (ch : Nat) (s : State) (k : Nat) : State :=
  if pushIs s k o.hdr.gid o.hdr.cid then issueReads s k
  else
    match (s.port k).scal with
    | some x =>
      if x.gid != o.hdr.gid || x.cid != o.hdr.cid then s
      else match collOf (s.group x.gid) x.cid with
        | some c => (fillSlot s k ch (scalarSupply c x)).modPort k fun p => { p with scal := some { x with sent := true } }
        | none => s
    | none => s

/-- Open an up chunk at a cell (R50); none while the power brake holds (R387). -/
def openCell (s : State) (cell ch : Nat) : State :=
  let n := NodeId.cell cell
  if s.stopped || s.boot.brake || (s.node n).kac || (s.nchan n ch false).out.isSome || !cellUpFree s cell ch then s
  else match cellNext s cell ch with
    | none => s
    | some o =>
      let s1 := s.modNchan n ch false fun c => { c with out := some o, slots := [] }
      (cellFeeders s1 cell o).foldl (askCore o ch) s1

/-- UP_CHUNK_OPEN (R50). -/
def execUpChunkOpen (cell ch : Nat) (s : State) : Host.Outcome State Fault Refusal :=
  answer (.upChunkOpen cell ch) (openCell s cell ch)

/-- The chunk of a collective has reached the cell's HELD point: the push of core k that fed it counts it; a scalar that only pushes ends
(R176, R181). -/
def coreHeld (g : Nat) (cid : BitVec 32) (s : State) (k : Nat) : State :=
  if pushIs s k g cid then pushHeld s k
  else
    match (s.port k).scal with
    | some x =>
      if x.gid != g || x.cid != cid then s
      else match collOf (s.group x.gid) x.cid with
        | some c => if x.sent && (pullCount s (s.group x.gid) c.desc k).isNone then settle (endScalar s k {}) g else s
        | none => s
    | none => s

/-- One step of a cell: with every core's elements supplied, the chunk is combined and whole. -/
def cellCombine (s : State) (cell ch : Nat) : State :=
  let n := NodeId.cell cell
  let c := s.nchan n ch false
  match c.out with
  | none => s
  | some o =>
    let ks := cellFeeders s cell o
    let slot (k : Nat) : SlotIn := tabGet {} c.slots (k % 4)
    match collOf (s.group o.hdr.gid) o.hdr.cid, ks.all fun k => (slot k).ready with
    | some k0, true =>
      let cols := [0, 1, 2, 3].map fun q => if ks.contains (4 * cell + q) then (slot q).ops else []
      let flags := ks.foldl (fun (a : BitVec 64) k => addFlags a (slot k).cvf (slot k).afl) 0
      let i80 := swTree 2 ([0, 1, 2, 3].map fun q => if ks.contains (4 * cell + q) then some (slot q).sw else none)
      let r := combineCols o.hdr.fmt o.hdr.op 2 o.nel cols flags i80
      let f := { o.hdr with payload := padTo r.1 (4 * ceilDiv r.1.length 4), status := r.2, nslot := ks.length }
      let s1 := s.modNchan n ch false fun c => { c with slots := [] }
      let s2 := if o.src.isSome then copyStep s1 n ch false o.hdr.gid k0 o.hdr.cseq.toNat else s1
      ks.foldl (coreHeld o.hdr.gid o.hdr.cid) (chunkWhole s2 n ch false f o.src)
    | _, _ => s

/-- UP_COMBINE (R39, R49, R51, R52, R108 to R125, R128, R176). -/
def execUpCombine (n : NodeId) (ch : Nat) (ctx : Bool) (s : State) : Host.Outcome State Fault Refusal :=
  answer (.upCombine n ch ctx) (if (s.node n).kac then s else match n with
    | .cell c => cellCombine s c ch
    | _ => hubCombine s n ch ctx)

/-! ## DOWN_OFFER (R53 to R55, R177, R178, R269) -/

/-- A scalar takes the result chunk, once every earlier collective of the group on the chip has signalled its completions (R181, R270). -/
def scalarTakes (s : State) (k : Nat) (c : Coll) (f : Frame) : Option State :=
  match (s.port k).scal with
  | some x =>
    if !x.waiting && x.gid == f.gid && x.cid == f.cid && isFirst s f.gid f.cid then some (settle (endScalar s k (scalarResult c x f)) f.gid)
    else none
  | none => none

/-- A stream takes chunk `j` of its pull: the next in order, or again one that a POISON named on this chip (R177, R178, R289). -/
def streamTakes (s : State) (k : Nat) (c : Coll) (j : Nat) (f : Frame) : Option State :=
  let p := s.port k
  match (p.pull.run.toList ++ p.pull.opened).find? fun x => !x.waiting && x.gid == f.gid && x.cid == f.cid with
  | some x =>
    if j == x.cur then some (handChunk s k c x j f false)
    else if j < x.cur then some (if c.named.contains f.cseq.toNat then handChunk s k c x j f true else s)
    else none
  | none => none

/-- Core k accepts a down chunk: at once when it has no part in it, else when its scalar or pull takes it (R53). -/
def coreAccepts (s : State) (k : Nat) (f : Frame) : Option State :=
  let g := s.group f.gid
  match collOf g f.cid with
  | none => some s
  | some c =>
    let j0 := pullChunk0 g c k
    let nch := chunksOf c ((pullCount s g c.desc k).getD 0)
    let open' := (s.port k).pull.opened.any fun x => x.gid == f.gid && x.cid == f.cid
    if !c.coresLeft.contains (2 * k + 1) && !open' then some s
    else if (s.port k).scal.any fun x => x.gid == f.gid && x.cid == f.cid then scalarTakes s k c f
    else if isScalarColl c.desc then streamTakes s k c 0 f
    else if f.cseq.toNat < j0 || (j0 + nch ≤ f.cseq.toNat && !isPacked f.fmt) then some s
    else streamTakes s k c (f.cseq.toNat - j0) f

/-- Offer one down chunk of a cell to one of its cores. -/
def offerCore (cell ch : Nat) (f : Frame) (s : State) (q : Nat) : State :=
  let n := NodeId.cell cell
  let p (x : DownChunk) : Bool := x.frame == f && !x.released.contains q
  if !((s.nchan n ch false).down.any p) then s
  else match coreAccepts s (4 * cell + q) f with
    | some t => t.modNchan n ch false fun c => { c with down := markDown p (fun x => { x with released := x.released ++ [q] }) c.down }
    | none => s

/-- The cell hands its down chunks to its cores in CSEQ order, and frees those that every core has accepted. -/
def cellOffer (s : State) (cell ch : Nat) : State :=
  let n := NodeId.cell cell
  let s1 := ((s.nchan n ch false).down.map (·.frame)).foldl
    (fun t f => (downSlots t n false f).foldl (offerCore cell ch f) t) s
  freeDown s1 n ch false

/-- DOWN_OFFER (R38, R39, R49, R50, R53 to R55, R177, R269). -/
def execDownOffer (n : NodeId) (ch : Nat) (ctx : Bool) (s : State) : Host.Outcome State Fault Refusal :=
  answer (.downOffer n ch ctx) (if (s.node n).kac || s.stopped then s else match n with
    | .cell c => cellOffer s c ch
    | _ => (List.range (nslots n)).foldl (fun t i => offerSlot t n ch ctx i) s)

/-! ## Stalls (R54, R209) -/

/-- A frame waits on a link direction that a training wave holds (R383). -/
def waveHolds (s : State) (n : NodeId) (ctx : Bool) (i : Nat) : Bool :=
  match childLink s n ctx i with | some l => (s.link ⟨l.1, true⟩).hold | none => false

/-- F_STALL on the group: the chunk, the node, and the child slot; its class follows STALLACT (R209). -/
def stallEvent (s : State) (skind sidx lvl slot gid : Nat) (cid cseq : BitVec 32) : Event :=
  { ((mkEv .stall skind sidx).onGroup s gid).onChunk cid cseq with
    cls := if (s.group gid).report then 0 else 2, detail := pack 16 [(0, 6, slot), (6, 4, lvl)] }

/-- The oldest chunk that a child has not taken has waited STALL (R54, R209). At a cell the child is a core (R50). -/
def stallChild (s : State) (n : NodeId) (ch : Nat) (ctx : Bool) (i : Nat) : State :=
  let waits (x : DownChunk) : Bool :=
    (match n with | .cell _ => !x.released.contains i | _ => !x.taken.contains i) && (downSlots s n ctx x.frame).contains i
  match (s.nchan n ch ctx).down.find? waits with
  | none => s
  | some x =>
    let per := (s.group x.frame.gid).stall * 1024
    let told := tabGet 0 x.told i
    if s.boot.brake || waveHolds s n ctx i || s.tb < x.since + per * (told + 1) then s
    else
      let s1 := s.modNchan n ch ctx fun c => { c with down := markDown waits (fun x => { x with told := tabSet 0 x.told i (told + 1) }) c.down }
      raise s1 (stallEvent s n.skind n.idx n.lvl i x.frame.gid x.frame.cid x.frame.cseq)

/-! ## Lockstep (R61 to R63) -/

/-- A core supplies again the chunk that its cell had not yet held: a stream is read again, a scalar sent again (R62). -/
def resupply (o : OutChunk) (j ch : Nat) (s : State) (k : Nat) : State :=
  if pushIs s k o.hdr.gid o.hdr.cid then
    issueReads ((modRun s k false fun y => { y with cur := j, issued := 0, buf := [] }).modPort k fun p =>
      { p with rdReq := p.rdReq.map fun r => if r.gid == o.hdr.gid && r.cid == o.hdr.cid then { r with stale := true } else r }) k
  else askCore o ch s k

/-- Chunk number within its push of the chunk that a cell is forming. -/
def formedChunk (s : State) (cell : Nat) (o : OutChunk) : Nat :=
  match o.src, collOf (s.group o.hdr.gid) o.hdr.cid with
  | some q, some c => o.hdr.cseq.toNat - pushChunk0 (s.group o.hdr.gid) c (4 * cell + q)
  | _, _ => o.hdr.cseq.toNat

/-- The node discards the output chunk it is forming and has it sent again: REWIND to the children that fed it, or, at a
cell, from the core ports (R62). -/
def recompute (s : State) (n : NodeId) (ch : Nat) (ctx : Bool) : State :=
  match (s.nchan n ch ctx).out with
  | none => s
  | some o =>
    match n with
    | .cell c =>
      (cellFeeders s c o).foldl (resupply o (formedChunk s c o) ch) (s.modNchan n ch ctx fun x => { x with slots := [] })
    | _ =>
      let fs := feeders s n ctx o.hdr.gid o.src
      let s1 := clearSlots (s.modNchan n ch ctx fun x => { x with out := none }) n ch ctx fs
      retSlots s1 n ch ctx fs retRewind

/-- A down chunk not yet held whole is asked for again from the parent (R62). -/
def refetch (s : State) (n : NodeId) (ch : Nat) (ctx : Bool) : State :=
  match upLink s n ctx with
  | none => s
  | some l =>
    let d : LinkDir := ⟨l.1, true⟩
    if (tabGet {} (s.link d).rx (chCtx ch l.2)).nbeat = 0 then s
    else dueRet (modRx s d (chCtx ch l.2) fun r => { r with part := [], cur := [], nbeat := 0 }) d ch l.2 retRewind

/-- The chunk that a node is receiving or forming on a channel. -/
def formingChunk (s : State) (n : NodeId) (ch : Nat) (ctx down : Bool) : Option Frame :=
  if down then
    match upLink s n ctx with
    | some l =>
      let r := tabGet {} (s.link ⟨l.1, true⟩).rx (chCtx ch l.2)
      if r.nbeat != 0 then some (parseFrame r.cur) else none
    | none => none
  else (s.nchan n ch ctx).out.map (·.hdr)

/-- The chunks that a node has on a channel, the one not yet whole first: whether it is that one, and its frame. -/
def stageChunks (s : State) (n : NodeId) (ch : Nat) (ctx down : Bool) : List (Bool × Frame) :=
  let c := s.nchan n ch ctx
  ((formingChunk s n ch ctx down).toList.map fun f => (true, f))
    ++ (if down then (c.down.filter fun x => !x.gone).map (·.frame) else (c.up.filter fun x => !x.gone).map (·.frame)).map fun f => (false, f)

/-- The chunk of the stage buffer that an error concerns, which no command names: any that the node has (log entry 3). -/
def stagePick (s : State) (n : NodeId) (ch : Nat) (ctx down : Bool) : Option (Bool × Frame) × State :=
  let y := takeFree s
  let l := stageChunks s n ch ctx down
  (l[y.1 % l.length]?, y.2)

/-- F_LOCKSTEP and its kin, form K: the copy, the channel, and the chunk where one was concerned. -/
def copyEvent (s : State) (code : FCode) (n : NodeId) (copy ch : Nat) (f : Option Frame) : Event :=
  let e := { mkEv code n.skind n.idx with detail := pack 16 [(0, 1, copy), (1, 4, ch)] }
  match f with
  | some f => (e.onGroup s f.gid).onChunk f.cid f.cseq
  | none => e

/-- A chunk that is not whole is had again: a down chunk from the parent, an up chunk from the children or the core ports (R62). -/
def hadAgain (s : State) (n : NodeId) (ch : Nat) (ctx down : Bool) : State := if down then refetch s n ch ctx else recompute s n ch ctx

/-- The copies disagree: F_LOCKSTEP. A chunk not yet whole is had again; the beat of a whole one is read again from the stage buffer,
with no other effect (R62). The third time in succession on one chunk starts the known-answer check (R63). Which copy the event names,
and which of the chunks at hand is concerned, are free values (log entry 3). -/
def mismatch (s : State) (n : NodeId) (ch : Nat) (ctx down : Bool) : State :=
  match n with
  | .block _ => s
  | _ =>
    if (s.node n).fenced.isSome || (s.node n).nodeLost || (s.node n).kac then s
    else
      let y := takeFree s
      let z := stagePick y.2 n ch ctx down
      let f := z.1.map (·.2)
      let key : Bool × BitVec 32 × BitVec 32 := match f with | some f => (down, f.cid, f.cseq) | none => (down, 0, 0)
      let c := s.nchan n ch ctx
      let m := if c.mism != 0 && c.mismOf == key then c.mism + 1 else 1
      let s1 := raise z.2 (copyEvent s .lockstep n (y.1 % 2) ch f)
      let s2 := s1.modNchan n ch ctx fun c => { c with mism := m, mismOf := key }
      if 3 ≤ m then s2.modNode n fun x => { x with kac := true }
      else if z.1.any (·.1) then hadAgain s2 n ch ctx down
      else s2

/-- The copies of Marver's step control disagree: F_LOCKSTEP at SKIND 6, SIDX 16; the step action is repeated from its retained inputs, which
leaves nothing changed (Tables 11-1 and 11-2). Which copy the event names is a free value (log entry 3). -/
def stepMismatch (s : State) : State :=
  let y := takeFree s
  raise y.2 { mkEv .lockstep 6 16 with detail := pack 16 [(0, 1, y.1 % 2)] }

/-- LOCKSTEP_MISMATCH (R61, R62, R63, R295). -/
def execLockstepMismatch (n : LockSite) (ch : Nat) (ctx down : Bool) (s : State) : Host.Outcome State Fault Refusal :=
  answer (.lockstepMismatch n ch ctx down) (match n with | .node n => mismatch s n ch ctx down | .steps => stepMismatch s)

/-- FENCE entry of a copy (Table 13-5). -/
def fenceEntry (n : NodeId) (copyB : Bool) : BitVec 32 := pack 32 [(0, 4, n.skind), (4, 16, n.idx), (20, 1, b2n copyB)]

/-- A copy is fenced: F_COPY_FENCED, and Lehr is to be told (R63, R323). -/
def fenceCopy (s : State) (n : NodeId) (copyB : Bool) : State :=
  let s1 := s.modNode n fun x => { x with fenced := some copyB }
  let s2 := confDue { s1 with lehr := { s1.lehr with fence := s1.lehr.fence ++ [fenceEntry n copyB] } } 3
  raise s2 (copyEvent s .copyFenced n (b2n copyB) 0 none)

/-- The chunk whose third mismatch began the check is had again, if it is not whole (R63). -/
def recomputeAll (s : State) (n : NodeId) : State :=
  (nodeChans s n).foldl (fun t e =>
    let ch := e.1 / 2
    let ctx := e.1 % 2 == 1
    if e.2.mism < 3 then t
    else
      let t1 := t.modNchan n ch ctx fun c => { c with mism := 0 }
      match formingChunk t n ch ctx e.2.mismOf.1 with
      | some f => if f.cid == e.2.mismOf.2.1 && f.cseq == e.2.mismOf.2.2 then hadAgain t1 n ch ctx e.2.mismOf.1 else t1
      | none => t1) s

/-- The known-answer check has ended (R63). -/
def kacEnd (s : State) (n : NodeId) (failA failB : Bool) : State :=
  if !(s.node n).kac then s
  else
    let s1 := s.modNode n fun x => { x with kac := false }
    match failA, failB with
    | true, true => raise (s1.modNode n fun x => { x with nodeLost := true }) (copyEvent s .nodeLost n 0 0 none)
    | true, false => recomputeAll (fenceCopy s1 n false) n
    | false, true => recomputeAll (fenceCopy s1 n true) n
    | false, false => recomputeAll s1 n

/-- KNOWN_ANSWER_DONE (R63). -/
def execKnownAnswerDone (n : NodeId) (failA failB : Bool) (s : State) : Host.Outcome State Fault Refusal :=
  answer (.knownAnswerDone n failA failB) (kacEnd s n failA failB)

end Sys2Proof.Machine
end

