-- ==== Sys2Proof/Machine/MarverWork.lean ====
section
/-! DEFINITION. The work of the steps of a pass (R264, R265, Table 9-8): what each kind does with its chunks, and the sweep that does what is due. -/
namespace Sys2Proof.Machine

/-! ## Progress -/

/-- The pass has its reservation, and no trap of its epoch has stopped it (R128, R216). -/
def passHeld (s : State) (x : Sched) (q : Pass) : Bool :=
  q.reserved && q.res == .ok &&
  match (s.group x.hdr.gid).trap with
  | some r => !(r.epoch == q.epoch && r.cid == q.cid)
  | none => true

/-- The pass works: no POISON has stopped it (R286). -/
def passLive (s : State) (x : Sched) (q : Pass) : Bool := passHeld s x q && !q.stopped

/-- Steps whose units a POISON leaves: what they have begun goes on while the pass is stopped (R286, R288). -/
def keptKind (k : Nat) : Bool := k == kLOAD || k == kDIEIN

/-- Responses still due for chunk `j`. -/
def needOf (r : StepRun) (j : Nat) : Option Nat := (r.need.find? fun e => e.1 == j).map (·.2)

/-- Chunk `j` has been asked for or sent, and `k` responses are due. -/
def setNeed (j k : Nat) (r : StepRun) : StepRun := { r with issued := r.issued ++ [j], need := r.need ++ [(j, k)] }

/-- One response for chunk `j`. -/
def decNeed (j : Nat) (r : StepRun) : StepRun := { r with need := r.need.map fun e => if e.1 == j then (j, e.2 - 1) else e }

/-- Keep a part of a chunk, in order of offset. -/
def insPart (e : Nat × Nat × List Byte × BitVec 64 × Nat) :
    List (Nat × Nat × List Byte × BitVec 64 × Nat) → List (Nat × Nat × List Byte × BitVec 64 × Nat)
  | [] => [e]
  | a :: r => if e.2.1 < a.2.1 then e :: a :: r else a :: insPart e r

/-- The parts of chunk `j` in order. -/
def partsGot (r : StepRun) (j : Nat) : List (Nat × Nat × List Byte × BitVec 64 × Nat) := r.got.filter fun e => e.1 == j

/-- The work on chunk `j` is done. -/
def markWritten (j : Nat) (r : StepRun) : StepRun :=
  { r with written := r.written ++ [j], need := r.need.filter (fun e => e.1 != j), got := r.got.filter (fun e => e.1 != j),
           pieces := r.pieces.filter (fun e => e.1 != j), taken := r.taken.filter (fun e => e.1 != j) }

/-- A frame that stands for a chunk of a pass where events and trap records name it. -/
def chunkName (x : Sched) (q : Pass) (t : Step) (j : Nat) (sw : BitVec 64) : Frame :=
  { gid := x.hdr.gid, epoch := q.epoch, cid := q.cid, cseq := BitVec.ofNat 32 (stepSeq t j), status := sw }

/-- With the trap on, an output chunk of step `i` with NV stops the pass (R128): the state with the trap taken. -/
def trapOut (s : State) (x : Sched) (i : Nat) (f : Frame) : Option State :=
  if (s.group x.hdr.gid).ntrap && bit f.status 21 then some (raise (latchTrap s f i x.coll.isNone true) (trapEvent f 6 16)) else none

/-- The output chunk `j` of a step is written into the pool, unless it is trapped. -/
def putChunk (s : State) (n p i j : Nat) (ck : PChunk) : State :=
  match stepAt s n p i with
  | some (x, q, t, _) =>
    let u := unitsAt s x (outFmt s x q i t) t.uc j
    let s1 := modStep (modPass s n p (poolPut u.1 u.2 { ck with loaded := t.kind == kLOAD || t.kind == kDIEIN })) n p i (markWritten j)
    (trapOut s1 x i (chunkName x q t j ck.status)).getD s1
  | none => s

/-! ## LOAD and STORE (R218, R222) -/

/-- Ask for the bytes of chunk `j` of a LOAD. -/
def workLoad (s : State) (n p i j : Nat) (x : Sched) (q : Pass) (t : Step) (r : StepRun) : State :=
  if r.issued.contains j || !ready s x q i t j then s
  else
    let c := stepCtx x q t
    let a := tensorRange (ctxSfmt c) (stepBase x t) (stepElem0 s x t j) (stepLen s x t j)
    let y := askRead s n p i j x.hdr.gid a.1 a.2.1
    modStep y.1 n p i (setNeed j y.2)

/-- Every byte of chunk `j` of a LOAD has arrived: it is converted into the pool (R86 to R93, R127). -/
def endLoad (s : State) (n p i j : Nat) : State :=
  match stepAt s n p i with
  | some (x, q, t, r) =>
    let y := loadChunk s x q i t j ((partsGot r j).flatMap fun e => e.2.2.1)
    let s1 := if isIntIn y.1.fmt then { s with freeCtr := s.freeCtr + 1 } else s
    putChunk (modStep s1 n p i fun r => { r with crec := recConv y.2 y.1.vanish r.crec }) n p i j y.1
  | none => s

/-- R of a SCALEPASS is known where its result chunk leaves the pool (R248). -/
def noteResult (s : State) (x : Sched) (q : Pass) (ck : PChunk) : State :=
  if isScaleSched x then modColl s x.hdr.gid q.cid fun c => { c with r := some (BitVec.ofNat 32 (leAt ck.data 0 4)) } else s

/-- The frame that names the first chunk with NV among those that a STORE writes. -/
def storeNan (x : Sched) (q : Pass) (o : StoreOut) : Frame :=
  match o.sws.find? (fun e => bit e.2 21) with
  | some e => { gid := x.hdr.gid, epoch := q.epoch, cid := q.cid, cseq := BitVec.ofNat 32 e.1, status := e.2 }
  | none => {}

/-- Write chunk `j` of a STORE once the chunks that it encodes are in the pool, unless its output is trapped (R128); a chunk delivered
before a POISON and not named is passed over (R288). What the conversion produced enters the record (R222). -/
def workStore (s : State) (n p i j : Nat) (x : Sched) (q : Pass) (t : Step) (r : StepRun) : State :=
  if r.issued.contains j || !(storeNeeds s x q i t j).all fun e => ready s x q e.1 e.2.1 e.2.2 then s
  else match storeOut s x q i t j, chunkAt s x q i t.ua j with
    | some o, some ck =>
      match trapOut s x i (storeNan x q o) with
      | some y => y
      | none =>
      let s1 := modStep (noteResult s x q ck) n p i fun r =>
        { r with crec := o.sws.foldl (fun a e => recResult e.1 e.2 a) (recResult (stepSeq t j) ck.status (recConv o.cvf o.vanish r.crec)) }
      if r.skip.contains j || o.bytes.isEmpty then modStep s1 n p i fun r => markWritten j { r with issued := r.issued ++ [j] }
      else
        let y := askWrite s1 n p i j x.hdr.gid o.addr o.bytes
        modStep y.1 n p i fun r => { setNeed j y.2.1 r with ports := (r.ports ++ y.2.2).eraseDups }
    | _, _ => s

/-! ## DIE_IN and DIE_OUT (R127, R215, R259) -/

/-- Positions of a status word moved up. -/
def shiftStatus (d : Nat) (w : BitVec 64) : BitVec 64 :=
  let a := if bit w 21 then setFld w 0 21 (fld w 0 21 + d) else w
  if bit w 45 then setFld a 24 21 (fld a 24 21 + d) else a

/-- Status word of `n` elements from the `o`-th of a chunk whose own elements carry no NaN (I80): the positions that fall among
them, the multiplicity bits and the flags. -/
def cutStatus (o n : Nat) (w : BitVec 64) : BitVec 64 :=
  let np := fld w 0 21
  let ip := fld w 24 21
  let nv := bit w 21 && decide (o ≤ np && np < o + n)
  let iv := bit w 45 && decide (o ≤ ip && ip < o + n)
  pack 64 [(0, 21, if nv then np - o else 0), (21, 1, b2n nv), (22, 1, b2n (bit w 22)), (24, 21, if iv then ip - o else 0), (45, 1, b2n iv),
           (46, 1, b2n (iv && bit w 46)), (47, 1, b2n (bit w 47))] ||| flagPart w

/-- Elements of an on-die chunk of a schedule. -/
def dieE (x : Sched) : Nat := chunkElems x.tfmt

/-- First element of a DIE_IN or DIE_OUT within the collective, and one past its last. -/
def dieA (s : State) (x : Sched) (t : Step) : Nat := t.eoff + t.cseq0 * fullElems s x
def dieB (s : State) (x : Sched) (t : Step) : Nat := dieA s x t + stepTotal s x t

/-- One past the last element that the DIE_OUT steps of a pass hand on. -/
def dieEnd (s : State) (x : Sched) (q : Pass) : Nat :=
  q.desc.foldl (fun a t => if t.kind == kDIEOUT then max a (dieB s x t) else a) 0

/-- Number of the first on-die chunk of a DIE_OUT, and how many it hands: those whose last element is its own (Table 9-8; blocks that
do not fill whole on-die chunks are DEDUCED, log entry 105). -/
def dieFirst (s : State) (x : Sched) (t : Step) : Nat := dieA s x t / dieE x
def dieCount (s : State) (x : Sched) (q : Pass) (t : Step) : Nat :=
  (if dieB s x t == dieEnd s x q then ceilDiv (dieB s x t) (dieE x) else dieB s x t / dieE x) - dieFirst s x t

/-- The part of on-die chunk `c` that a step has: first element within the step, and number of elements. -/
def diePart (s : State) (x : Sched) (t : Step) (c : Nat) : Nat × Nat :=
  let lo := max (dieA s x t) (c * dieE x)
  (lo - dieA s x t, min (dieB s x t) ((c + 1) * dieE x) - lo)

/-- The same of the on-die chunk that a DIE_OUT hands as its `m`-th. -/
def dieSpan (s : State) (x : Sched) (t : Step) (m : Nat) : Nat × Nat := diePart s x t (dieFirst s x t + m)

/-- The DIE_OUT steps of a pass that have elements of on-die chunk `c`, in element order. -/
def dieMates (s : State) (x : Sched) (q : Pass) (c : Nat) : List (Nat × Step) :=
  (q.desc.zipIdx.filter fun e => e.1.kind == kDIEOUT && (diePart s x e.1 c).2 != 0).map fun e => (e.2, e.1)

/-- The apex chunk with a number, whole at the spine root (R215). -/
def apexFrame (s : State) (ch g : Nat) (q : Pass) (seq : Nat) : Option Frame :=
  ((s.nchan .spine ch false).up.find? fun u =>
    u.frame.gid == g && u.frame.cid == q.cid && u.frame.cseq.toNat == seq).map (·.frame)

/-- The spine root's buffer of an apex chunk is freed. -/
def freeApex (s : State) (ch : Nat) (f : Frame) : State :=
  s.modNchan .spine ch false fun c => { c with up := c.up.filter fun u => u.frame != f }

/-- On-die chunks that hold the elements of chunk `j` of a DIE_IN. -/
def dieOf (s : State) (x : Sched) (t : Step) (j : Nat) : List Nat :=
  let a := dieA s x t + j * fullElems s x
  let n := stepLen s x t j
  if n = 0 then [] else (List.range ((a + n - 1) / dieE x + 1 - a / dieE x)).map fun k => a / dieE x + k

/-- What chunk `j` of a DIE_IN takes of on-die chunk `c`: the first element within the on-die chunk, the number, and the place of the
first within chunk `j`. -/
def dieCut (s : State) (x : Sched) (t : Step) (j c : Nat) : Nat × Nat × Nat :=
  let a := dieA s x t + j * fullElems s x
  let lo := max a (c * dieE x)
  (lo - c * dieE x, min (a + stepLen s x t j) ((c + 1) * dieE x) - lo, lo - a)

/-- A DIE_IN of the pass has still to take elements of on-die chunk `c`. -/
def apexNeeded (s : State) (x : Sched) (q : Pass) (c : Nat) : Bool :=
  (q.desc.zip q.steps).any fun e => e.1.kind == kDIEIN && (List.range e.1.nchk).any fun j =>
    (dieOf s x e.1 j).contains c && !e.2.written.contains j && !(e.2.got.any fun g => g.1 == j && g.2.1 == c)

/-- VANISH of one part of a packed chunk that splits into several: the manual does not divide the chunk's count among them, so
it is a free value up to that count (log entry 27). -/
def splitVanish (s : State) (one : Bool) (v : Nat) : Nat × State :=
  if one || v = 0 then (v, s) else let r := takeFree s; (r.1 % (v + 1), r.2)

/-- Copy the elements that chunk `j` of a DIE_IN takes of on-die chunk `c`, if it is there; its buffer is freed once nothing more of it
is needed. -/
def takeApex (n p i j ch : Nat) (x : Sched) (q : Pass) (t : Step) (r : StepRun) (s : State) (c : Nat) : State :=
  if r.got.any fun e => e.1 == j && e.2.1 == c then s
  else match apexFrame s ch x.hdr.gid q c with
    | some f =>
      let b := elemBytes x.tfmt
      let cut := dieCut s x t j c
      let d := slice f.payload (cut.1 * b) (cut.2.1 * b)
      let one := cut.1 == 0 && decide (f.payload.length < cut.2.1 * b + 4)
      let sw := if one then f.status else if x.tfmt == fmtI80 then cutStatus cut.1 cut.2.1 f.status
                else posStatus 0 (decodeElems x.tfmt 0 one32 cut.2.1 d) ||| flagPart f.status
      let s1 := modStep s n p i fun r => { r with got := insPart (j, c, d, sw, 0) r.got }
      match s1.pass n p with
      | some q1 => if apexNeeded s1 x q1 c then s1 else freeApex s1 ch f
      | none => s1
    | none => s

/-- The pool chunk that the on-die chunks of a DIE_IN form (R127, R234); no frame that comes up the tree is packed, so its VANISH is 0
(R69, R93). -/
def gatherDie (s : State) (x : Sched) (t : Step) (j : Nat) (ps : List (Nat × Nat × List Byte × BitVec 64 × Nat)) : PChunk :=
  let sws := ps.map fun e => shiftStatus (dieCut s x t j e.2.1).2.2 e.2.2.2.1
  { fmt := x.tfmt, n := stepLen s x t j, data := ps.flatMap fun e => e.2.2.1,
    status := match sws with | w :: r => r.foldl mergePieces w | [] => 0 }

/-- Take what has come for chunk `j` of a DIE_IN; the last on-die chunk completes it. -/
def workDieIn (s : State) (n p i j : Nat) (x : Sched) (q : Pass) (t : Step) (r : StepRun) : State :=
  if r.written.contains j || !ready s x q i t j then s
  else match collOf (s.group x.hdr.gid) q.cid with
    | none => s
    | some c =>
      let ms := dieOf s x t j
      let s1 := ms.foldl (takeApex n p i j c.ch x q t r) s
      match stepAt s1 n p i with
      | some (_, _, _, r1) =>
        let ps := partsGot r1 j
        if ps.length == ms.length then putChunk s1 n p i j (gatherDie s x t j ps) else s1
      | none => s1

/-- The chunks of a step that the part of an on-die chunk meets. -/
def partChunks (s : State) (x : Sched) (sp : Nat × Nat) : List Nat :=
  let e := fullElems s x
  (List.range ((sp.1 + sp.2 - 1) / e + 1 - sp.1 / e)).map fun k => sp.1 / e + k

/-- The pool chunks of a step under a part of an on-die chunk. -/
def partPool (s : State) (x : Sched) (q : Pass) (i : Nat) (t : Step) (sp : Nat × Nat) : List PChunk :=
  (partChunks s x sp).filterMap fun k => chunkAt s x q i t.ua k

/-- Exact values of such a part. -/
def partVals (s : State) (x : Sched) (q : Pass) (i : Nat) (t : Step) (sp : Nat × Nat) : List Exact :=
  (((partPool s x q i t sp).flatMap fun c => chunkVals one32 (q.s.getD 0) c).drop (sp.1 % fullElems s x)).take sp.2

/-- What a DIE_OUT hands on: payload, status word, VANISH, and the flags and vanished elements of a conversion. -/
structure DieOut where
  pay : List Byte
  sw : BitVec 64
  vanish : Nat := 0
  cvf : BitVec 8 := 0
  van : Nat := 0
  deriving DecidableEq, Repr

/-- An on-die chunk of a DIE_OUT that one pool chunk in TFMT holds, handed on unchanged. -/
def dieSame (x : Sched) (ck : PChunk) (o n : Nat) : DieOut :=
  if isPacked ck.fmt then
    let d := slice ck.data (4096 * (o / pageElems ck.fmt)) (pageBytes ck.fmt (ceilDiv n 32))
    { pay := d, sw := posStatus 0 (decodeElems ck.fmt 0 one32 n d) ||| flagPart ck.status, vanish := ck.vanish }
  else
    let d := slice ck.data (o * elemBytes ck.fmt) (n * elemBytes ck.fmt)
    { pay := d, sw := if x.tfmt == fmtI80 then cutStatus o n ck.status else posStatus 0 (decodeElems ck.fmt 0 one32 n d) ||| flagPart ck.status }

/-- The elements of on-die chunk `m` of a DIE_OUT as the wire format carries them. Unchanged where one pool chunk that already holds TFMT
has them all; else converted once with G = GINV = 1.0 (Table 9-8, R126), VANISH counting this encoding alone (R93). Nothing is encoded into
INT8, INT4 or LUT4 (R78): a page of those put together from parts is a free value (log entry 121). -/
def dieBytes (s : State) (x : Sched) (q : Pass) (t : Step) (m : Nat) : Option DieOut :=
  let ms := (dieMates s x q (dieFirst s x t + m)).map fun e => (e.1, e.2, diePart s x e.2 (dieFirst s x t + m))
  let cks := ms.flatMap fun e => partPool s x q e.1 e.2.1 e.2.2
  match cks with
  | [] => none
  | ck :: rest =>
    let sp := dieSpan s x t m
    let o := sp.1 % fullElems s x
    if rest.isEmpty && ck.fmt == x.tfmt && !(isPacked ck.fmt && o % pageElems ck.fmt != 0) then some (dieSame x ck o sp.2)
    else
      let sx := q.s.getD 0
      let vals := ms.flatMap fun e => partVals s x q e.1 e.2.1 e.2.2
      let n := vals.length
      let r := if isIntIn x.tfmt then (freeBytes s.freeCtr 4096, 0, 0) else encodeElems x.tfmt sx one32 vals
      let d := if isPacked x.tfmt then r.1.take (pageBytes x.tfmt (ceilDiv n 32)) else r.1
      let fl := cks.foldl (fun a c => a ||| flagPart c.status) (0 : BitVec 64)
      let pos := if x.tfmt == fmtI80 then posStatus 0 vals else posStatus 0 (decodeElems x.tfmt sx one32 n d)
      some { pay := d, sw := pos ||| addFlags fl r.2.1 0, vanish := min 0xFFFF r.2.2, cvf := r.2.1, van := r.2.2 }

/-- The chunks of a step that on-die chunk `m` meets. -/
def dieChunks (s : State) (x : Sched) (t : Step) (m : Nat) : List Nat := partChunks s x (dieSpan s x t m)

/-- Every pool chunk under on-die chunk `m` of a DIE_OUT may be read. -/
def dieReady (s : State) (x : Sched) (q : Pass) (t : Step) (m : Nat) : Bool :=
  (dieMates s x q (dieFirst s x t + m)).all fun e =>
    (partChunks s x (diePart s x e.2 (dieFirst s x t + m))).all fun j => ready s x q e.1 e.2 j

/-- On-die chunks that chunk `j` of a DIE_OUT splits into. -/
def dieSplit (s : State) (x : Sched) (q : Pass) (t : Step) (j : Nat) : Nat :=
  ((List.range (dieCount s x q t)).filter fun m => (dieChunks s x t m).contains j).length

/-- Chunks of a DIE_OUT all of whose on-die chunks are among the first `m`. -/
def dieDone (s : State) (x : Sched) (q : Pass) (t : Step) (m : Nat) : List Nat :=
  (List.range t.nchk).filter fun j => (List.range (dieCount s x q t - m)).all fun k => !(dieChunks s x t (m + k)).contains j

/-- CSEQ of the next on-die chunk of each DIE_OUT of a pass that has one to hand. -/
def dieLeft (s : State) (x : Sched) (q : Pass) : List Nat :=
  (q.desc.zip q.steps).filterMap fun e =>
    if e.1.kind == kDIEOUT && e.2.waits < dieCount s x q e.1 then some (dieFirst s x e.1 + e.2.waits) else none

/-- It is the turn of on-die chunk `m` of a DIE_OUT: no chunk of the collective with a lower CSEQ, and no chunk of an earlier
collective of the group whose pass runs, is still to be handed (R269, R270, log entry 102). -/
def dieTurn (s : State) (x : Sched) (q : Pass) (t : Step) (c : Coll) (m : Nat) : Bool :=
  (dieLeft s x q).all (fun k => decide (dieFirst s x t + m ≤ k)) &&
  s.mrv.scheds.all fun e => match e.2 with
    | none => true
    | some y => y.hdr.gid != x.hdr.gid || y.passes.all fun r =>
        match collOf (s.group x.hdr.gid) r.cid with
        | some d => decide (c.order ≤ d.order) || !passLive s y r || (dieLeft s y r).isEmpty
        | none => true

/-- Number within the collective of result chunk `j` of a DIE_OUT: its block's place among the shards of a REDSCAT or the blocks of an
ALLGATHER (R240). -/
def dieSeq (s : State) (x : Sched) (t : Step) (j : Nat) : Nat :=
  match x.coll with
  | some d =>
    if dColl d == cREDSCAT then lidx s (s.group x.hdr.gid) * t.nchk + j
    else if dColl d == cALLGATHER then t.eoff / max 1 t.nel * t.nchk + j
    else stepSeq t j
  | none => stepSeq t j

/-- What handing on-die chunk `m` adds to the record (R240): the flags and vanished elements of its conversion, and the first NaN of the
frame by the result chunk that holds the element. -/
def dieRec (s : State) (x : Sched) (q : Pass) (t : Step) (m : Nat) (b : DieOut) (r : PassRec) : PassRec :=
  let el := (dieFirst s x t + m) * dieE x + fld b.sw 0 21
  let nv := if !bit b.sw 21 then none
    else ((dieMates s x q (dieFirst s x t + m)).find? fun e => decide (dieA s x e.2 ≤ el) && decide (el < dieB s x e.2)).map fun e =>
      (BitVec.ofNat 32 (dieSeq s x e.2 ((el - dieA s x e.2) / fullElems s x)), (el - dieA s x e.2) % fullElems s x)
  recConv b.cvf b.van (mergeRec r { nv := nv })

/-- Hand one on-die chunk of step `i` to the spine root, or pass it over when it was delivered before a POISON (R269, R288): whether it has
gone, and the state. With the trap on, one with NV does not go (R128). -/
def handDie (s : State) (n p i : Nat) (x : Sched) (q : Pass) (t : Step) (r : StepRun) (c : Coll) (m : Nat) : Option (Bool × State) :=
  if !(dieTurn s x q t c m && dieReady s x q t m) then none
  else match dieBytes s x q t m with
    | none => none
    | some b =>
      if r.skip.contains m then some (true, s)
      else if !downFree s .spine c.ch false then none
      else
        let one := (dieMates s x q (dieFirst s x t + m)).length ≤ 1 && dieSplit s x q t ((dieSpan s x t m).1 / fullElems s x) ≤ 1
        let v := splitVanish s (one || b.van != 0) b.vanish
        let f : Frame := { ch := c.ch, kind := 3, gid := x.hdr.gid, epoch := q.epoch, cid := q.cid, cseq := BitVec.ofNat 32 (dieFirst s x t + m),
                           fmt := x.tfmt, slvl := 5, payload := padTo b.pay (4 * ceilDiv b.pay.length 4), status := b.sw, vanish := v.1 }
        match trapOut v.2 x i f with
        | some y => some (false, y)
        | none =>
          let s1 := modStep { v.2 with freeCtr := v.2.freeCtr + b2n (isIntIn x.tfmt) } n p i fun r => { r with crec := dieRec s x q t m b r.crec }
          some (true, s1.modNchan .spine c.ch false fun y => { y with down := y.down ++ [{ frame := f, since := s.tb }] })

/-- The result chunks that a DIE_OUT has finished enter the record. -/
def doneDie (s : State) (n p i : Nat) (x : Sched) (q : Pass) (t : Step) (r : StepRun) (m : Nat) : State :=
  ((dieDone s x q t m).filter fun j => !r.written.contains j).foldl (fun y j =>
    match chunkAt s x q i t.ua j with
    | some ck => modStep (noteResult y x q ck) n p i fun r => markWritten j { r with crec := recResult (dieSeq s x t j) ck.status r.crec }
    | none => modStep y n p i (markWritten j)) s

/-- Hand on-die chunks in order while buffers are free. -/
def workDieOut (n p i : Nat) : Nat → State → State
  | 0, s => s
  | k + 1, s =>
    match stepAt s n p i with
    | some (x, q, t, r) =>
      if dieCount s x q t ≤ r.waits then
        (if dieCount s x q t = 0 && (List.range t.nchk).all (fun j => ready s x q i t j) then doneDie s n p i x q t r 0 else s)
      else match collOf (s.group x.hdr.gid) q.cid with
        | none => s
        | some c =>
          match handDie s n p i x q t r c r.waits with
          | none => s
          | some (false, s1) => s1
          | some (true, s1) =>
            let s2 := modStep s1 n p i fun r => { r with waits := r.waits + 1 }
            workDieOut n p i k (doneDie s2 n p i x q t r (r.waits + 1))
    | none => s

/-! ## SEND (R225, R228, Tables 8-5, 8-6) -/

/-- Member `k` of the group of a schedule. -/
def memberChip (s : State) (x : Sched) (k : Nat) : Nat := (chipsOf s (s.group x.hdr.gid)).getD k s.self

/-- S in a HEAD (R118). -/
def headS (q : Pass) (fmt op : Nat) : Nat := if op == opISUM || fmt == fmtI80 then uns 9 (q.s.getD 0) else 0

/-- STEP in a HEAD: the step of a loaded schedule; the manual numbers no steps of one that firmware built (R128), so there a free
value (log entry 20). -/
def headStep (x : Sched) (i : Nat) : Nat := if x.coll.isSome then Config.freeNat i % 128 else i

/-- A packet of a pass to a chip. -/
def mkPacket (s : State) (n i : Nat) (x : Sched) (q : Pass) (fmt op stage seq dst : Nat) (pay : List Byte) (sw : BitVec 64) (van : Nat) : Packet :=
  let e := s.group x.hdr.gid
  let data := padTo pay (4 * ceilDiv pay.length 4)
  let head : BitVec 512 := pack 512
    [(0, 32, e.gtag.toNat), (32, 16, q.epoch.toNat), (48, 32, q.cid.toNat), (80, 32, seq), (112, 12, s.self), (124, 12, dst), (136, 4, fmt),
     (140, 4, op), (144, 18, data.length / 4 - 1), (162, 9, headS q fmt op), (171, 7, headStep x i), (178, 9, n),
     (187, 6, s.hopsTo dst), (193, 1, b2n e.dmode), (195, 3, stage)]
  ⟨head, data, tailFlit sw van data head⟩

/-- Send a packet of chunk `j` of a step by the route of R231. -/
def sendPacket (s : State) (n p i j : Nat) (x : Sched) (vcu : Bool) (dst seq : Nat) (k : Packet) : State :=
  match s.routePort dst (!vcu) seq with
  | none => s
  | some port => queueItem s port (!vcu) { item := .pkt k, tid := (s.group x.hdr.gid).tid, src := some (n, p, i, j) }

/-- The slices of a chunk's bytes that go as its packets (R259). -/
def packetBytes (c pk : Nat) (data : List Byte) : List (List Byte) :=
  if pk ≤ 1 then [data] else (List.range pk).map fun k => (data.drop (k * c)).take c

/-- Send chunk `j`, its packets numbered in a row. -/
def workSend (s : State) (n p i j : Nat) (x : Sched) (q : Pass) (t : Step) (r : StepRun) : State :=
  let dst := memberChip s x t.peer
  if r.issued.contains j || dst == s.self || !ready s x q i t j then s
  else match chunkAt s x q i t.ua j with
    | none => s
    | some ck =>
      let ps := packetBytes (schedC s x) t.pk ck.data
      let s1 := modStep s n p i (setNeed j ps.length)
      ps.zipIdx.foldl (fun y e =>
        let seq := t.cseq0 + j * t.pk + e.2
        sendPacket y n p i j x x.vcu dst seq (mkPacket s n i x q t.fmt t.op t.stage seq dst e.1 ck.status ck.vanish)) s1

/-! ## RECV (R118, R229, R230, R244, R266) -/

/-- A flit to the neighbour on a port: ACK, NAK or CREDIT (R225). -/
def nearFlit (s : State) (p kind : Nat) (vcb : Bool) (fs : List (Nat × Nat × Nat)) : BitVec 512 :=
  ctrlFlit kind 0 s.self (s.neighbour p) 1 ((128, 1, b2n vcb) :: fs)

/-- Send the CREDIT flit of a class; the 10 us of R230 run from here. -/
def sendCredit (s : State) (p : Nat) (vcb : Bool) : State :=
  queueImm (s.modLport p fun l => l.modCls vcb fun c => { c with credAt := s.tb }) p vcb
    (nearFlit s p ckCredit vcb [(129, 16, ((s.lport p).cls vcb).units.toNat)])

/-- Return receive units of a class, and say so (R230). -/
def returnUnits (s : State) (p : Nat) (vcb : Bool) (k : Nat) : State :=
  sendCredit (s.modLport p fun l => l.modCls vcb fun c => { c with rxUsed := c.rxUsed - k, units := c.units + BitVec.ofNat 16 k }) p vcb

/-- The first checked packet that waits on a port of a class and satisfies a condition. -/
def findPacket (s : State) (vcb : Bool) (ok : Packet → Bool) : Option (Nat × Packet × Nat) :=
  (List.range 6).findSome? fun p => (((s.lport p).cls vcb).parked.find? fun e => ok e.1).map fun e => (p, e.1, e.2.2)

/-- A packet leaves the receive area. -/
def freePacket (s : State) (p : Nat) (vcb : Bool) (k : Packet) (u : Nat) : State :=
  returnUnits (s.modLport p fun l => l.modCls vcb fun c => { c with parked := c.parked.filter fun e => e.1 != k }) p vcb u

/-- The packet is that of a RECV: CID of the pass, sender, STAGE, CSEQ, under the pass's epoch (R266). -/
def packetMatch (s : State) (x : Sched) (q : Pass) (t : Step) (seq : Nat) (k : Packet) : Bool :=
  findTag s (hTag k.head) == some x.hdr.gid && hEpoch k.head == q.epoch && hCid k.head == q.cid && hSrc k.head == memberChip s x t.peer
    && fld k.head 195 3 == t.stage && (hCseq k.head).toNat == seq

/-- Bytes of packet `k` of chunk `j` of a RECV. -/
def recvBytes (s : State) (x : Sched) (t : Step) (j k : Nat) : Nat :=
  let tot := bytesOf t.fmt (stepLen s x t j)
  if t.pk ≤ 1 then tot else min (schedC s x) (tot - k * schedC s x)

/-- An event of a pass on its group, naming a packet's chunk. -/
def passEvent (s : State) (code : FCode) (x : Sched) (k : Packet) : Event :=
  ((mkEv code 6 16).onGroup s x.hdr.gid).onChunk (hCid k.head) (hCseq k.head)

/-- Take packet `k` of chunk `j` if it waits: S and then FMT, OP and LENW against the step (R118, R244). -/
def recvPacket (n p i j : Nat) (x : Sched) (q : Pass) (t : Step) (r : StepRun) (s : State) (k : Nat) : State :=
  let seq := t.cseq0 + j * t.pk + k
  if r.got.any fun e => e.1 == j && e.2.1 == k then s
  else match findPacket s (!x.vcu) (packetMatch s x q t seq) with
    | none => s
    | some y =>
      let s1 := freePacket s y.1 (!x.vcu) y.2.1 y.2.2
      let h := y.2.1.head
      let len := recvBytes s x t j k
      if (t.op == opISUM || t.fmt == fmtI80) && hOp h == t.op && hFmt h == t.fmt && hS h != q.s.getD 0 then
        raise s1 { passEvent s .scaleMismatch x y.2.1 with detail := BitVec.ofNat 16 (fld h 162 9) }
      else if hFmt h != t.fmt || hOp h != t.op || hLenw h + 1 != ceilDiv len 4 then raise s1 (passEvent s .postMismatch x y.2.1)
      else modStep s1 n p i fun r =>
        { r with got := insPart (j, k, slice y.2.1.data 0 len, BitVec.ofNat 64 (fld y.2.1.tail 0 64), fld y.2.1.tail 64 16) r.got }

/-- Take what has come for chunk `j` of a RECV; its last packet completes it. -/
def workRecv (s : State) (n p i j : Nat) (x : Sched) (q : Pass) (t : Step) (r : StepRun) : State :=
  if r.written.contains j || !ready s x q i t j then s
  else
    let s1 := (List.range (max 1 t.pk)).foldl (recvPacket n p i j x q t r) s
    match stepAt s1 n p i with
    | some (_, _, _, r1) =>
      match partsGot r1 j with
      | e :: es =>
        if es.length + 1 == max 1 t.pk then
          putChunk s1 n p i j { fmt := t.fmt, n := stepLen s x t j, data := (e :: es).flatMap fun y => y.2.2.1, status := e.2.2.2.1, vanish := e.2.2.2.2 }
        else s1
      | [] => s1
    | none => s1

/-! ## COPY, NOTE, CELLPOST -/

/-- Copy chunk `j` within the pool. -/
def workCopy (s : State) (n p i j : Nat) (x : Sched) (q : Pass) (t : Step) (r : StepRun) : State :=
  if r.written.contains j || !ready s x q i t j then s
  else match chunkAt s x q i t.ua j with
    | some ck => putChunk s n p i j ck
    | none => s

/-- Every earlier collective of the group on the chip has signalled its completions (R270). -/
def isOldest (s : State) (g : Nat) (cid : BitVec 32) : Bool :=
  match (s.group g).colls with | c :: _ => c.cid == cid | [] => true

/-- The action of a NOTE: ARRIVE or SIGNAL at an object of this chip or of member PEER (R149, Table 9-8). -/
def fireNote (s : State) (n p i : Nat) : State :=
  match stepAt s n p i with
  | some (x, _, t, r) =>
    let kind : SoOpKind := if t.nsig then .signal else .arrive
    let tid := (s.group x.hdr.gid).tid
    let s1 := modStep s n p i fun r => { markWritten 0 r with fired := true }
    if r.fired then s1
    else if t.nrmt then
      let chip := memberChip s x t.peer
      if remoteStatus s tid x.hdr.gid chip kind t.nn = .ok then remoteSend s1 x.hdr.gid chip t.nsoid kind t.nn none else s1
    else sendOp s1 { soid := t.nsoid, kind := kind, opnd := t.nn, tid := tid, tag := x.tag, caller := .marver n }
  | none => s

/-- A NOTE acts once step AFTER has completed and the data stored up to it is fenced (R220, R270). -/
def workNote (s : State) (n p i : Nat) (x : Sched) (q : Pass) (t : Step) (r : StepRun) : State :=
  if r.issued.contains 0 || !(q.steps[t.after]?.any fun y => y.completed) || !isOldest s x.hdr.gid q.cid then s
  else
    let ports := ((q.steps.take (t.after + 1)).flatMap fun y => y.ports).eraseDups
    let s1 := modStep s n p i fun r => { r with issued := [0], waits := ports.length }
    if r.fired || ports.isEmpty then fireNote s1 n p i else askFences s1 n p i x.hdr.gid ports

/-- CELLPOST sends the pass's posting, with S resolved, to the cells, unless a POISON holds it (R248, R286). -/
def workCellpost (s : State) (n p i : Nat) (x : Sched) (q : Pass) (r : StepRun) : State :=
  if r.written.contains 0 || !postingsFree (s.group x.hdr.gid) then s
  else modStep (sendPosting s x.hdr.gid q.cid q.s) n p i (markWritten 0)

/-! ## The count exchange (R251) -/

/-- Send half and receive half of the count table: 8n bytes each from the step's address. -/
def countRanks (s : State) (x : Sched) : Nat := (chipsOf s (s.group x.hdr.gid)).length
def countSeq : Nat := 0xFFFFFFFF

/-- Counts and offsets of the send half. -/
def sendHalf (r : StepRun) (n : Nat) : List (Nat × Nat) :=
  let b := (partsGot r 0).flatMap fun e => e.2.2.1
  (List.range n).map fun k => (leAt b (8 * k) 4, leAt b (8 * k + 4) 4)

/-- The table has been read: the count of each other rank goes to it as a 4-byte packet, unless it has gone before. -/
def sendCounts (s : State) (n p i : Nat) : State :=
  match stepAt s n p i with
  | some (x, q, t, r) =>
    let k := countRanks s x
    let me := lidx s (s.group x.hdr.gid)
    let cs := sendHalf r k
    let s1 := modStep s n p i (setNeed 1 (k - 1))
    (otherRanks k me).foldl (fun y o =>
      let dst := memberChip s x o
      sendPacket y n p i 1 x true dst countSeq
        (mkPacket s n i x q 0 0 t.stage countSeq dst (leBytes 4 (cs.getD o (0, 0)).1) 0 0)) s1
  | none => s

/-- Take the count packet of rank `o` if it waits. -/
def takeCount (n p i : Nat) (x : Sched) (q : Pass) (t : Step) (r : StepRun) (s : State) (o : Nat) : State :=
  if r.got.any fun e => e.1 == 1 && e.2.1 == o then s
  else match findPacket s false (packetMatch s x q { t with peer := o } countSeq) with
    | none => s
    | some y =>
      let s1 := freePacket s y.1 false y.2.1 y.2.2
      if hOp y.2.1.head != 0 || hLenw y.2.1.head != 0 then raise s1 (passEvent s .postMismatch x y.2.1)
      else modStep s1 n p i fun r => { r with got := insPart (1, o, slice y.2.1.data 0 4, 0, 0) r.got }

/-- Counts of the receive half: from each rank, this one's own entry for itself. -/
def recvHalf (r : StepRun) (n me : Nat) : List Nat :=
  (List.range n).map fun o =>
    if o = me then ((sendHalf r n).getD me (0, 0)).1
    else match r.got.find? fun e => e.1 == 1 && e.2.1 == o with | some e => leAt e.2.2.1 0 4 | none => 0

/-- The count exchange goes on: the receive half is written once every count is there, unless it has no room. -/
def workCountx (s : State) (n p i : Nat) (x : Sched) (q : Pass) (t : Step) (r : StepRun) : State :=
  let k := countRanks s x
  if !r.issued.contains 0 then
    let y := askRead s n p i 0 x.hdr.gid (stepBase x t) (8 * k)
    modStep y.1 n p i (setNeed 0 y.2)
  else if needOf r 0 == some 0 then sendCounts (modStep s n p i fun y => { y with need := y.need.filter fun e => e.1 != 0 }) n p i
  else if !r.issued.contains 1 || r.issued.contains 2 then s
  else
    let me := lidx s (s.group x.hdr.gid)
    let s1 := (otherRanks k me).foldl (takeCount n p i x q t r) s
    match stepAt s1 n p i with
    | some (_, _, _, r1) =>
      if (partsGot r1 1).length + 1 < k then s1
      else
        let cr := recvHalf r1 k me
        let room := match x.coll with | some d => decide (cr.foldl (· + ·) 0 ≤ dNelem d) | none => true
        if !room then
          raise (modStep s1 n p i fun r => { r with issued := r.issued ++ [2, 3] }) { (mkEv .a2avRoom 6 16).onGroup s x.hdr.gid with cid := q.cid }
        else
          let bytes := (cr.zip (offsets 0 cr)).flatMap fun e => leBytes 4 e.1 ++ leBytes 4 e.2
          let y := askWrite s1 n p i 2 x.hdr.gid (stepBase x t + 8 * k) bytes
          modStep y.1 n p i fun r => { setNeed 2 y.2.1 r with ports := y.2.2 }
    | none => s1

/-- The exchange has ended: the data phase of the collective follows it (R251). -/
def endCountx (s : State) (n p i : Nat) : State :=
  match stepAt s n p i with
  | some (x, _, _, r) =>
    if r.issued.contains 2 && !r.issued.contains 3 && r.need.all (fun e => e.2 == 0) then
      let k := countRanks s x
      let me := lidx s (s.group x.hdr.gid)
      let cs := sendHalf r k
      let cr := recvHalf r k me
      let more := match x.coll with
        | some d => blockSteps (jobOf s x d) (cs.map (·.1)) (cs.map (·.2)) cr (offsets 0 cr)
        | none => []
      modPass (modStep s n p i fun r => { r with written := [0] }) n p fun q =>
        { q with desc := q.desc ++ more, steps := q.steps ++ more.map fun _ => {} }
    else s
  | none => s

/-! ## Combines (R106 to R108, R116, R232 to R234, R256, R419) -/

/-- Elements of a piece: a page of the packed operand, else an on-die chunk (R232, R265). -/
def pieceLen (fa fb : Nat) : Nat :=
  if isPacked fa && isPacked fb then min (pageElems fa) (pageElems fb)
  else if isPacked fa then pageElems fa
  else if isPacked fb then pageElems fb
  else min (chunkElems fa) (chunkElems fb)

/-- The formats of the data operands of a slice step: those of A and B, of A alone for a chunk taken alone. -/
def pieceFmts (s : State) (x : Sched) (q : Pass) (i : Nat) (t : Step) : Nat × Nat :=
  let fa := fmtAt s x q i t.ua
  (fa, if isAlone t.kind then fa else fmtAt s x q i t.ub)

/-- Accumulation format of a slice step (Table 4-3), the weight operand of a term being one of its operands (R113). -/
def pieceAcc (s : State) (x : Sched) (q : Pass) (i : Nat) (t : Step) : Acc :=
  let f := pieceFmts s x q i t
  mrvAcc t.op (f.1 :: f.2 :: (if t.wa || t.wb then [fmtAt s x q i t.uw] else [])) t.fmt t.narrow

/-- Positions at which the pieces of chunk `j` begin. -/
def piecePos (s : State) (x : Sched) (q : Pass) (i : Nat) (t : Step) (j : Nat) : List Nat :=
  let l := (fun f => pieceLen f.1 f.2) (pieceFmts s x q i t)
  (List.range (ceilDiv (stepLen s x t j) l)).map fun k => k * l

/-- The exact weights of a step for the elements from `pos` of chunk `j`: decoded with G = 1.0 (R247). DESIGN CHOICE (log entry 116): weights
in I80 are decoded under the S of the pass, which is that of the context they are loaded with; the manual names no other. -/
def weightsAt (s : State) (x : Sched) (q : Pass) (i : Nat) (t : Step) (j pos len : Nat) : List Exact :=
  if t.ws then
    let w := match chunkAt s x q i t.uw 0 with | some c => (chunkVals one32 (q.s.getD 0) c).headD (.zero false) | none => .zero false
    List.replicate len w
  else match chunkAt s x q i t.uw j with
    | some c => ((chunkVals one32 (q.s.getD 0) c).drop pos).take len
    | none => []

/-- One operand chunk as it enters comb: integers under I80, terms where it is data to be weighted, else exact values. -/
def pieceOperands (acc : Acc) (g : BitVec 32) (sx : Int) (ck : PChunk) (ws : Option (List Exact)) (pos len : Nat) : List Operand × BitVec 7 :=
  if acc = .i80 then
    (if ck.fmt == fmtI80 then ((wireOperands fmtI80 ck.n ck.data).drop pos |>.take len, 0)
     else (((chunkVals g sx ck).drop pos |>.take len).map (fun v => Operand.int (encodeI80 v sx).1), 0))
  else
    let vs := (chunkVals g sx ck).drop pos |>.take len
    match ws with
    | none => (vs.map Operand.part, 0)
    | some l =>
      let ts := vs.zip l |>.map fun e => mulTerm e.2 e.1
      (ts.map fun t => .term t.1, ts.foldl (fun (a : BitVec 7) t => a ||| t.2) 0)

/-- comb over the elements of a piece. -/
def combAll (acc : Acc) (op : Nat) : List Operand → List Operand → List Operand × BitVec 7
  | a :: as, b :: bs => let r := comb acc op a b; let t := combAll acc op as bs; (r.1 :: t.1, r.2 ||| t.2)
  | as, [] => let rs := as.map (lone acc); (rs.map (·.1), rs.foldl (fun (a : BitVec 7) t => a ||| t.2) 0)
  | [], _ => ([], 0)

/-- G of the combine context of a step (R419). -/
def combG (x : Sched) (t : Step) : BitVec 32 := ctxG (x.hdr.ctx.getD t.ctx 0)

/-- The result of a piece and its flags. -/
def pieceResult (s : State) (x : Sched) (q : Pass) (i : Nat) (t : Step) (j pos len : Nat) : List Operand × BitVec 7 :=
  let acc := pieceAcc s x q i t
  let sx := q.s.getD 0
  let ws (b : Bool) : Option (List Exact) := if b then some (weightsAt s x q i t j pos len) else none
  let a := match chunkAt s x q i t.ua j with | some c => pieceOperands acc (combG x t) sx c (ws t.wa) pos len | none => ([], 0)
  let b := if isAlone t.kind then ([], 0)
    else match chunkAt s x q i t.ub j with | some c => pieceOperands acc (combG x t) sx c (ws t.wb) pos len | none => ([], 0)
  if t.kind == kTERM then a
  else
    let r := combAll acc t.op a.1 b.1
    (r.1, a.2 ||| b.2 ||| r.2)

/-- What an operand chunk brings to an I80 result: its positions, or those of the elements it quantises, with the flags (R117, R125). -/
def i80Status (g : BitVec 32) (sx : Int) (ck : PChunk) : BitVec 64 :=
  if ck.fmt == fmtI80 then ck.status
  else
    let vs := chunkVals g sx ck
    posStatus 0 vs ||| addFlags (flagPart ck.status) (vs.foldl (fun (a : BitVec 8) v => a ||| (encodeI80 v sx).2) 0) 0

/-- Terms that leave the chip in format `f` (R115, R256): R114 rounds a term in no conversion, and the manual gives no form in which a
product that the format does not hold crosses a link, so such an element, and a whole chunk of a format of more than one element to the
block, is a free value, from the `fr`-th on (log entry 23). The bytes, the flags of those held, and VANISH. -/
def termBytes (fr f : Nat) (sx : Int) (vals : List Exact) : List Byte × BitVec 8 × Nat :=
  let r := encodeElems f sx one32 vals
  if f == fmtFP32 || f == fmtFP16 then
    let b := elemBytes f
    let es := vals.zipIdx.map fun v =>
      let e := encodeElems f sx one32 [v.1]
      if e.2.1 &&& ~~~fNAN = 0 then (e.1, e.2.1) else (freeBytes (fr + v.2) b, 0)
    (es.flatMap (·.1), es.foldl (fun a e => a ||| e.2) 0, 0)
  else if r.2.1 = 0 then r
  else (freeBytes fr r.1.length, 0, if isPacked f then Config.freeNat (fr + 1) % (min 0xFFFF vals.length + 1) else 0)

/-- The output chunk of a slice step from the elements of its pieces (R89, R116, R124, R125, R234); VANISH counts its own encoding (R93). -/
def combChunk (s : State) (x : Sched) (q : Pass) (i : Nat) (t : Step) (j : Nat) (es : List Operand) (afl : BitVec 7) : PChunk :=
  let sx := q.s.getD 0
  let cks := (chunkAt s x q i t.ua j).toList ++ (if isAlone t.kind then [] else (chunkAt s x q i t.ub j).toList)
  let n := stepLen s x t j
  if pieceAcc s x q i t = .i80 then
    let st := match cks.map (i80Status (combG x t) sx) with | w :: r => r.foldl mergeI80 w | [] => 0
    let ck : PChunk := { fmt := fmtI80, n := n, data := es.flatMap fun e => leBytes 16 (uns 80 (opdInt e)), status := addFlags st 0 afl }
    if t.fmt == fmtI80 then ck
    else
      let r := encodeElems t.fmt sx one32 (chunkVals one32 sx ck)
      { fmt := t.fmt, n := n, data := r.1, status := chunkStatus t.fmt n r.1 0 (addFlags (flagPart ck.status) r.2.1 0), vanish := min 0xFFFF r.2.2 }
  else
    let vals := es.map opdVal
    let r := if t.kind == kTERM then termBytes s.freeCtr t.fmt sx vals else encodeElems t.fmt sx one32 vals
    let fl := cks.foldl (fun a c => a ||| flagPart c.status) (0 : BitVec 64)
    { fmt := t.fmt, n := n, data := r.1, status := chunkStatus t.fmt n r.1 (posStatus 0 vals) (addFlags fl r.2.1 afl), vanish := min 0xFFFF r.2.2 }

/-- A chunk all of whose pieces are combined is written, and its encoding enters the record (R240). -/
def endComb (s : State) (n p i j : Nat) : State :=
  match stepAt s n p i with
  | some (x, q, t, r) =>
    let ps := piecePos s x q i t j
    let got := ps.filterMap fun a => (r.pieces.find? fun e => e.1 == j && e.2.1 == a).map (·.2.2)
    if got.length == ps.length then
      let ck := combChunk s x q i t j (got.flatMap (·.1)) (got.foldl (fun a e => a ||| e.2) 0)
      let s1 := if t.kind == kTERM then { s with freeCtr := s.freeCtr + ck.n + 2 } else s
      putChunk (modStep s1 n p i fun r => { r with crec := recConv (BitVec.ofNat 8 (fld ck.status 56 8)) ck.vanish r.crec }) n p i j ck
    else s
  | none => s

/-! ## The sweep -/

/-- The work due on chunk `j` of a started step. No LOAD or DIE_IN reads while the power brake holds (R387). -/
def workChunk (n p i : Nat) (s : State) (j : Nat) : State :=
  match stepAt s n p i with
  | some (x, q, t, r) =>
    if r.written.contains j || (s.boot.brake && keptKind t.kind) then s
    else if t.kind == kLOAD then workLoad s n p i j x q t r
    else if t.kind == kSTORE then workStore s n p i j x q t r
    else if t.kind == kDIEIN then workDieIn s n p i j x q t r
    else if t.kind == kSEND then workSend s n p i j x q t r
    else if t.kind == kRECV then workRecv s n p i j x q t r
    else if t.kind == kCOPY then workCopy s n p i j x q t r
    else s
  | none => s

/-- The work due on a step. -/
def workStep (n p : Nat) (s : State) (i : Nat) : State :=
  match stepAt s n p i with
  | some (x, q, t, r) =>
    if !r.started || r.completed || !passHeld s x q || (q.stopped && !keptKind t.kind) then s
    else if t.kind == kNOTE then workNote s n p i x q t r
    else if t.kind == kCELLPOST then workCellpost s n p i x q r
    else if t.kind == kCOUNTX then workCountx s n p i x q t r
    else if t.kind == kDIEOUT then workDieOut n p i (dieCount s x q t + 1) s
    else (List.range t.nchk).foldl (workChunk n p i) s
  | none => s

/-- The work due on every step of a pass, in order. -/
def workPass (s : State) (n p : Nat) : State :=
  match s.pass n p with
  | some q => (List.range q.desc.length).foldl (workStep n p) s
  | none => s

/-- The work due on every pass of a schedule; none in block stop or reset (R309, R373). -/
def workSched (s : State) (n : Nat) : State :=
  if s.stopped then s
  else match s.sched n with
    | some x => x.passes.foldl (fun t q => workPass t n q.p) s
    | none => s

/-- The work due on every schedule of a group. -/
def workGroup (s : State) (g : Nat) : State :=
  (s.mrv.scheds.filter fun e => match e.2 with | some x => x.hdr.gid == g | none => false).foldl (fun t e => workSched t e.1) s

end Sys2Proof.Machine
end

