-- ==== Sys2Proof/Machine/Passes.lean ====
section
/-! DEFINITION. The passes of schedules (R216, R237 to R241, R245, R248, R265, R281 to R283): admission, starts, completions, ends. -/
namespace Sys2Proof.Machine

/-! ## Admission (R216, R237, R245, R248) -/

/-- The CID of pass `p` of a schedule, and the SCALEPASS that it names. -/
def passCid (x : Sched) (p : Nat) : BitVec 32 := x.hdr.cid0 + BitVec.ofNat 32 p
def passSpcid (x : Sched) (p : Nat) : BitVec 32 := x.hdr.spcid0 + BitVec.ofNat 32 p

/-- The group admits a new pass: it is ENABLED, or DRAINING with the posting accepted before (R198). -/
def groupAdmits (e : Group) (x : Sched) (p : Nat) : Bool :=
  e.st == .enabled || (e.st == .draining && (collOf e (passCid x p)).isSome)

/-- Step 0 of the next pass of a schedule is ready to start: its trigger has a pending count, the pass before has completed its own,
nothing holds the group's postings, a group between chips has the service level FULL (R26), and the SCALEPASS named is known or
gone. -/
def passDue (s : State) (x : Sched) : Bool :=
  let e := s.group x.hdr.gid
  let p := x.nextPass
  x.unloading.isNone && groupAdmits e x p && postingsFree e && (x.hdr.stand || p == 0)
  && (!isXchip e || s.boot.level == .full)
  && (match x.steps with | t :: _ => !t.tv || 0 < x.pend.getD 0 0 | [] => false)
  && x.passes.all (fun q => q.steps.head?.any fun r => r.completed)
  && (!x.hdr.spp || (scaleFor e (passSpcid x p)).isSome || scaleStale e (passSpcid x p))

/-- The next pass of a schedule waits for its reservation from the count at which its step 0 became ready. -/
def admitPass (s : State) (n : Nat) : State :=
  match s.sched n with
  | some x =>
    if passDue s x then
      let e := s.group x.hdr.gid
      let p := x.nextPass
      let ts := x.steps ++ x.more
      let q : Pass := { p := p, cid := passCid x p, epoch := e.epoch, since := s.tb, desc := ts, steps := ts.map fun _ => {}, s := some x.hdr.s }
      let t := s.setSched n (some { x with passes := x.passes ++ [q], nextPass := p + 1 })
      { t with mrv := { t.mrv with order := t.mrv.order ++ [(n, p)] } }
    else s
  | none => s

/-- Numbers of the resident schedules. -/
def schedKeys (s : State) : List Nat := s.mrv.scheds.map (·.1)

/-- Every pass that may wait waits, and those that fit have their reservation. Nothing begins in block stop or reset. -/
def admitAll (s : State) : State := if s.stopped then s else reserveAll ((schedKeys s).foldl admitPass s)

/-! ## Starts (R237) -/

/-- The collective that a pass is, at its place in the issue order when it starts: its posting's, or (a loaded schedule) one whose
descriptor the manual does not give, a free value but for GID, CID and TFMT (log entry 20). -/
def passColl (s : State) (n : Nat) (x : Sched) (q : Pass) : State :=
  if (collOf (s.group x.hdr.gid) q.cid).isSome then s
  else
    let named (d : Desc) : Desc := setFld (setFld (setFld d 8 12 x.hdr.gid) 40 32 q.cid.toNat) 72 32 (passSpcid x q.p).toNat
    match x.coll with
    | some d => addColl s x.hdr.gid (mkColl s x.hdr.gid (named d) true (some n) x.wfmt)
    | none =>
      let r := takeFree (takeMarver s x.hdr.gid)
      let d := setFld (named (BitVec.ofNat 1024 r.1)) 104 4 x.tfmt
      addColl r.2 x.hdr.gid (mkColl r.2 x.hdr.gid d (x.steps.any fun t => t.kind == kCELLPOST) (some n) x.wfmt)

/-- Step `i` of the pass before has completed, or that pass has ended. -/
def prevDone (x : Sched) (p i : Nat) : Bool :=
  x.passes.all fun q => q.p + 1 != p || (q.steps[i]?.all fun r => r.completed)

/-- A descriptor slot is free for the next step of a pass: of a schedule that firmware builds, at most 128 steps are in the store (R237, log
entry 62). -/
def slotFree (q : Pass) : Bool := decide (q.steps.length ≤ 128) || decide ((q.steps.filter fun r => r.started && !r.completed).length < 128)

/-- The start conditions of R237 hold. -/
def canStart (s : State) (n p i : Nat) : Bool :=
  match stepAt s n p i with
  | some (x, q, t, r) =>
    !r.started && passLive s x q && (!t.tv || 0 < x.pend.getD i 0) && prevDone x p i
    && (i == 0 || (q.steps[i - 1]?.any fun y => y.started)) && slotFree q
  | none => false

/-- Start a step: one pending count is consumed. S of a pass that names a SCALEPASS is fixed as it starts; one that names a SCALEPASS no longer
kept ends with W_ABORT instead (R248). -/
def startStep (s : State) (n p i : Nat) : State :=
  match stepAt s n p i with
  | some (x, q, t, _) =>
    let s1 := if t.tv then s.modSched n fun y => { y with pend := y.pend.modify i (· - 1) } else s
    let s2 := modStep s1 n p i fun r => { r with started := true }
    if i == 0 then
      let s3 := passColl s2 n x q
      if !x.hdr.spp then workSched s3 n
      else match scaleFor (s.group x.hdr.gid) (passSpcid x p) with
        | some sx => workSched (modPass s3 n p fun q => { q with s := some sx }) n
        | none => raise (modPass s3 n p fun q => { q with res := .abort }) (staleEvent s3 x.hdr.gid (passSpcid x p))
    else workSched s2 n
  | none => s

/-- PASS_START: the pass of a schedule whose reservation is free starts its step 0. -/
def passStart (s : State) (n : Nat) : State :=
  let t := admitAll s
  if t.stopped then t
  else match (t.sched n).bind fun x => x.passes.find? fun q => canStart t n q.p 0 with
    | some q => startStep t n q.p 0
    | none => t

/-- STEP_START. -/
def stepBegin (s : State) (n p i : Nat) : State := if !s.stopped && canStart s n p i then startStep s n p i else s

/-- RESERVATION_AGE: the pass of a schedule has waited 100 us, and none overtakes it any more. -/
def ageReservation (s : State) (n : Nat) : State :=
  s.modSched n fun x => { x with passes := x.passes.map fun q =>
    if !q.reserved && q.since + 100000 ≤ s.tb then { q with aged := true } else q }

/-! ## Delivery control packets (R281, Table 10-3) -/

def dkDone : Nat := 1
def dkCommit : Nat := 2
def dkBumped : Nat := 3
def dkGo : Nat := 4

/-- Send a delivery control packet of a group to a chip. -/
def sendDelivery (s : State) (g dst kind : Nat) (cid : BitVec 32) (word1 : Nat) : State :=
  let e := s.group g
  let data := leBytes 4 kind ++ leBytes 4 word1
  let head : BitVec 512 := pack 512
    [(0, 32, e.gtag.toNat), (32, 16, e.epoch.toNat), (48, 32, cid.toNat), (80, 32, 0xFFFFFFFE), (112, 12, s.self), (124, 12, dst),
     (144, 18, 1), (187, 6, s.hopsTo dst), (193, 1, 1), (195, 3, 4)]
  match s.routePort dst false 0 with
  | none => s
  | some p => queueItem s p false { item := .pkt ⟨head, data, tailFlit 0 0 data head⟩, tid := e.tid }

/-- Delivery is EARLY: the group's mode, where it has more than one chip (R283). -/
def isEarly (e : Group) : Bool := e.dmode && isXchip e

/-- Member 0 of a group (R281). -/
def member0 (e : Group) : Nat := e.chips.headD 0

/-! ## Ends (R240, R241, R270, R282) -/

/-- Memory ports that carried a write of the pass. -/
def passPorts (q : Pass) : List Nat := (q.steps.flatMap fun r => r.ports).eraseDups

/-- Requests of a pass that have their tag hold it until the last response, which is discarded; the others are withdrawn. What the
pass has on the link ports and has not been sent is withdrawn too, and what is retained there no longer belongs to it (R228, R305). -/
def detachPass (s : State) (n p : Nat) : State :=
  let mine (r : MemReq) : Bool := r.sched == n && r.pass == p && !r.abandoned
  let own (x : TxItem) : Bool := match x.src with | some y => y.1 == n && y.2.1 == p | none => false
  let cls (c : LinkClassState) : LinkClassState :=
    { c with wait := c.wait.filter (fun x => !own x), retain := c.retain.map fun x => if own x then { x with src := none } else x,
             early := c.early.filter fun e => e.1 != n || e.2.1 != p }
  { s with
    mrv := { s.mrv with mps := tabMap {} (fun _ m => { m with
      queue := m.queue.filter fun r => !mine r
      tags := tabMap none (fun _ o => o.map fun r => if mine r then { r with abandoned := true } else r) m.tags }) s.mrv.mps }
    lps := tabMap {} (fun _ l => { l with vcu := cls l.vcu, vcb := cls l.vcb }) s.lps }

/-- The pass has performed its completion actions and leaves; what waited for it goes on (R216, R261, R270). -/
def finishPass (s : State) (n p : Nat) : State :=
  match s.sched n, s.pass n p with
  | some x, some q =>
    let g := x.hdr.gid
    let s1 := match x.coll with
      | some d => if dDv d then
          sendOp s { soid := dDsoid d, kind := .arrive, opnd := 1, tid := (s.group g).tid, tag := x.tag, caller := .marver n, psn := q.res == .poison }
        else s
      | none => s
    let s2 := modColl s1 g q.cid fun c => { c with sched := none }
    admitAll (workGroup (settle (sweep (dropPass s2 n p) g) g) g)
  | _, _ => s

/-- The address of the completion record of pass `p` (Table 9-6). -/
def recordAddr (x : Sched) (p : Nat) : Nat := x.hdr.raddr + 32 * (p % 2 ^ x.hdr.rlog)

/-- Every store of the pass is fenced: its record is written, if it has one, before its completion actions (R241). -/
def recordPass (s : State) (n p : Nat) : State :=
  match s.sched n, s.pass n p with
  | some x, some q =>
    if x.hdr.rv then
      let y := askWrite s n p finStep 0 x.hdr.gid (recordAddr x p) (passRecord s x q)
      modPass y.1 n p fun q => { q with fin := 2, fwait := y.2.1 }
    else finishPass s n p
  | _, _ => s

/-- A pass all of whose steps have completed, and whose turn in the issue order it is (R265, R270). -/
def passOver (s : State) (x : Sched) (q : Pass) : Bool :=
  q.fin == 0 && passLive s x q && q.steps.all (fun r => r.completed) && isOldest s x.hdr.gid q.cid

/-- PASS_END: fences on every port that carried a write of the pass, then the record, then the completion actions. -/
def passEnd (s : State) (n p : Nat) : State :=
  if s.stopped then s
  else match s.sched n, s.pass n p with
    | some x, some q =>
      if passOver s x q then
        let psn := (collOf (s.group x.hdr.gid) q.cid).any fun c => 0 < c.poisons
        let ports := passPorts q
        let s1 := modPass s n p fun q => { q with fin := 1, fwait := ports.length, res := if psn then .poison else .ok }
        if ports.isEmpty then recordPass s1 n p else askFences s1 n p finStep x.hdr.gid ports
      else s
    | _, _ => s

/-- A response of the completion stage: fences, record write, the fence after it. -/
def finResponse (s : State) (n p : Nat) : State :=
  match s.sched n, s.pass n p with
  | some x, some q =>
    if 1 < q.fwait then modPass s n p fun q => { q with fwait := q.fwait - 1 }
    else if q.fin == 1 then recordPass s n p
    else if q.fin == 2 then
      askFences (modPass s n p fun q => { q with fin := 3, fwait := 1 }) n p finStep x.hdr.gid [portOf (recordAddr x p)]
    else if q.fin == 3 then finishPass s n p
    else s
  | _, _ => s

/-! ## The commit (R281, R282) -/

/-- The schedule and pass that carry a collective of a group. -/
def passOf (s : State) (g : Nat) (cid : BitVec 32) : Option (Nat × Pass) :=
  s.mrv.scheds.findSome? fun e => match e.2 with
    | some x => if x.hdr.gid == g then (x.passes.find? fun q => q.cid == cid).map fun q => (e.1, q) else none
    | none => none

/-- A chip commits a collective: its last step completes, the cells of its member cores are told, and the pass ends. -/
def commitColl (s : State) (g : Nat) (cid : BitVec 32) : State :=
  match passOf s g cid with
  | some (n, q) =>
    if q.committed || !q.doneSent then s
    else
      let last := q.desc.length - 1
      let s1 := modPass s n q.p fun y => { y with committed := true, steps := y.steps.modify last fun r => { r with completed := true } }
      let cells := match collOf (s.group g) cid with | some c => (c.cellsAt ++ c.cellsTo).eraseDups | none => []
      let s2 : State := { s1 with mrv := { s1.mrv with commits := s1.mrv.commits ++ cells.map fun c => (c, g, cid) } }
      passEnd (closePass (modColl s2 g cid fun c => { c with early := false }) n q.p) n q.p
  | none => s

/-- Member 0 holds DONE from every other member, and its own pass has completed every step. -/
def commitDue (s : State) (g : Nat) (cid : BitVec 32) : Bool :=
  (passOf s g cid).any (fun y => y.2.doneSent && !y.2.committed && !y.2.stopped)
  && (s.group g).chips.all fun c => c == s.self || (s.group g).dones.contains (cid, c)

/-- A collective of the group has been committed: its pass says so, or has ended and left. -/
def committedColl (s : State) (g : Nat) (cid : BitVec 32) : Bool :=
  match passOf s g cid with
  | some y => y.2.committed
  | none => (collOf (s.group g) cid).any fun c => c.carried && c.sched.isNone

/-- Member 0 sends COMMIT for collectives in issue order and commits them (R281). -/
def commitRun (g : Nat) : List (BitVec 32) → State → State
  | [], s => s
  | cid :: r, s =>
    if committedColl s g cid then commitRun g r s
    else if commitDue s g cid then
      let s1 := ((s.group g).chips.filter (· != s.self)).foldl (fun t c => sendDelivery t g c dkCommit cid 0) s
      let s2 := s1.modGroup g fun e => { e with dones := e.dones.filter fun d => d.1 != cid }
      commitRun g r (commitColl s2 g cid)
    else s

/-- What member 0 may commit. -/
def commitTry (s : State) (g : Nat) : State := if s.stopped then s else commitRun g ((s.group g).colls.map (·.cid)) s

/-- An EARLY pass that has completed every step but the last, whose work is done, sends DONE to member 0 (R281). -/
def earlyDone (s : State) (n p : Nat) : State :=
  match s.sched n, s.pass n p with
  | some x, some q =>
    let g := x.hdr.gid
    let e := s.group g
    let last := q.desc.length - 1
    let rest := (q.steps.take last).all fun r => r.completed
    let fin := match q.desc[last]?, q.steps[last]? with
      | some t, some r => r.started && (List.range t.nchk).all fun j => r.written.contains j
      | _, _ => false
    if !isEarly e || q.doneSent || q.committed || q.stopped || !rest || !fin then s
    else
      let s1 := modPass s n p fun q => { q with doneSent := true }
      if member0 e == s.self then commitTry s1 g else sendDelivery s1 g (member0 e) dkDone q.cid 0
  | _, _ => s

/-! ## Completion of a step (R265) -/

/-- The work of a step is done on all its chunks. -/
def stepFinished (t : Step) (r : StepRun) : Bool :=
  r.started && !r.completed && (List.range t.nchk).all fun j => r.written.contains j

/-- STEP_COMPLETE: the step completes, but for the last of an EARLY pass, which completes at the commit; what it enabled goes on. -/
def stepComplete (s : State) (n p i : Nat) : State :=
  if s.stopped then s
  else
    let s0 := workSched s n
    match stepAt s0 n p i with
    | some (x, q, t, r) =>
      if passLive s0 x q && stepFinished t r then
        let held := isEarly (s0.group x.hdr.gid) && !q.committed && i + 1 == q.desc.length
        let s1 := if held then s0 else modStep s0 n p i fun r => { r with completed := true }
        earlyDone (admitAll (workSched (closePass s1 n p) n)) n p
      else s0
    | none => s0

end Sys2Proof.Machine
end

