-- ==== Sys2Proof/Machine/Delivery.lean ====
section
/-! DEFINITION. EARLY delivery (R277 to R279, R284 to R293): pieces delivered before the verdict, POISON, restart. -/
namespace Sys2Proof.Machine

/-! ## What a POISON does to the passes (R286, R288) -/

/-- On-die chunk `m` of the collective is one that every member core has counted in DONEN (R288): core parts ended, or the pull has counted it. -/
def countedAll (s : State) (g : Nat) (c : Coll) (m : Nat) : Bool :=
  c.coresLeft.all fun v =>
    v % 2 == 0 ||
    let p := s.port (v / 2)
    (p.pull.run.toList ++ p.pull.opened).any fun y => y.gid == g && y.cid == c.cid && m < pullChunk0 (s.group g) c (v / 2) + y.prog

/-- Chunks that the restarted step passes over: delivered before the increment and not named (R288, R289). -/
def skipOf (s : State) (g : Nat) (x : Sched) (q : Pass) (t : Step) (r : StepRun) (named : List Nat) : List Nat :=
  let done :=
    if t.kind == kSTORE then r.written ++ r.skip
    else if t.kind == kDIEOUT then
      match collOf (s.group g) q.cid with
      | some c => ((List.range r.waits).filter fun m => countedAll s g c (dieFirst s x t + m)) ++ r.skip
      | none => r.skip
    else []
  let all := done.eraseDups.filter fun j => !named.contains j
  if x.hdr.gid == g then all else []

/-- Progress of a step after a POISON: LOAD and DIE_IN go on, the count exchange too, CELLPOST stands; every other step starts over, a fired NOTE
not to fire again (R286, R288). The ports of stores made before are still to be fenced (R268, R272). -/
def restartStep (s : State) (g : Nat) (x : Sched) (q : Pass) (t : Step) (r : StepRun) (named : List Nat) : StepRun :=
  if keptKind t.kind || t.kind == kCOUNTX || (t.kind == kCELLPOST && r.written.contains 0) then r
  else { started := r.started, fired := r.fired, ports := r.ports, skip := skipOf s g x q t r named }

/-- The requests and packets of a pass but for those of its LOAD steps and its count exchange are abandoned, and its slices drop its
pieces. -/
def stopWork (s : State) (n : Nat) (q : Pass) : State :=
  let kept (i : Nat) : Bool := match q.desc[i]? with | some t => t.kind == kLOAD || t.kind == kCOUNTX | none => false
  let mine (r : MemReq) : Bool := r.sched == n && r.pass == q.p && !r.abandoned && !kept r.step
  let own (x : TxItem) : Bool := match x.src with | some y => y.1 == n && y.2.1 == q.p && !kept y.2.2.1 | none => false
  let cls (c : LinkClassState) : LinkClassState :=
    { c with wait := c.wait.filter (fun x => !own x), retain := c.retain.map fun x => if own x then { x with src := none } else x,
             early := c.early.filter fun e => e.1 != n || e.2.1 != q.p }
  { s with
    mrv := { s.mrv with
      mps := tabMap {} (fun _ m => { m with
        queue := m.queue.filter fun r => !mine r
        tags := tabMap none (fun _ o => o.map fun r => if mine r then { r with abandoned := true } else r) m.tags }) s.mrv.mps
      redo := s.mrv.redo.filter fun e => e.1.sched != n || e.1.pass != q.p
      slices := tabMap {} (fun _ y => match y.piece with
        | some c => if c.sched == n && c.pass == q.p then { y with piece := none } else y
        | none => y) s.mrv.slices }
    lps := tabMap {} (fun _ l => { l with vcu := cls l.vcu, vcb := cls l.vcb }) s.lps }

/-- Stop one uncommitted pass: its pool keeps what LOAD and DIE_IN wrote, its steps' progress is cleared, its reservation stays. -/
def stopPass (g : Nat) (epoch : BitVec 16) (named : List (Nat × Nat × Nat × Nat)) (n : Nat) (s : State) (q : Pass) : State :=
  match s.sched n with
  | some x =>
    if q.committed then s
    else
      let mine (i : Nat) : List Nat := (named.filter fun e => e.1 == n && e.2.1 == q.p && e.2.2.1 == i).map fun e => e.2.2.2
      modPass (stopWork s n q) n q.p fun y => { y with
        stopped := true, doneSent := false, epoch := epoch
        units := y.units.filter fun u => match u.2 with | some c => c.loaded | none => false
        steps := (y.desc.zip y.steps).zipIdx.map fun e => restartStep s g x q e.1.1 e.1.2 (mine e.2) }
  | none => s

/-- Stop every uncommitted pass of a group. -/
def stopPasses (s : State) (g : Nat) (epoch : BitVec 16) (named : List (Nat × Nat × Nat × Nat)) : State :=
  s.mrv.scheds.foldl (fun t e => match e.2 with
    | some x => if x.hdr.gid == g then x.passes.foldl (stopPass g epoch named e.1) t else t
    | none => t) s

/-- Checked packets of a group that wait on the link ports are discarded, and their units returned (R229, R230, R305). -/
def purgeClass (g : Nat) (vcb : Bool) (s : State) (p : Nat) : State :=
  let c := (s.lport p).cls vcb
  let hit (e : Packet × Nat × Nat) : Bool := findTag s (hTag e.1.head) == some g
  let units := (c.parked.filter hit).foldl (fun a e => a + e.2.2) 0
  if units = 0 then s
  else returnUnits (s.modLport p fun l => l.modCls vcb fun c => { c with parked := c.parked.filter fun e => !hit e }) p vcb units

/-- The same on every port and class. -/
def purgeParked (s : State) (g : Nat) : State :=
  (List.range 6).foldl (purgeClass g true) ((List.range 6).foldl (purgeClass g false) s)

/-! ## The steps of R286 and R287 -/

/-- The poison log entry of a POISON (Table 10-4). -/
def poisonRec (s : State) (cid : BitVec 32) (pcseq : BitVec 32) (oepoch : BitVec 16) (det : Bool) (named : List (Nat × Nat × Nat × Nat)) : PoisonRec :=
  let kindOf (e : Nat × Nat × Nat × Nat) : Nat :=
    match stepAt s e.1 e.2.1 e.2.2.1 with | some (_, _, t, _) => t.kind | none => 0
  let js := named.map fun e => e.2.2.2
  { cid := cid, pcseq := pcseq, first := BitVec.ofNat 32 (js.foldl min (js.headD 0)), nchk := min 0xFFFF js.length, oepoch := oepoch, det := det,
    mem := named.any fun e => kindOf e == kSTORE, cores := named.any fun e => kindOf e == kDIEOUT, tb := s.tb }

/-- The eight most recent entries are kept (R290). -/
def logPoison (s : State) (g : Nat) (r : PoisonRec) : State := s.modGroup g fun e => { e with plog := (r :: e.plog).take 8 }

/-- Step 3 of R287: held postings and stopped passes go on. -/
def poisonGo (s : State) (g : Nat) : State :=
  let s1 := s.modGroup g fun e => { e with pwork := none }
  let s2 : State := { s1 with mrv := { s1.mrv with scheds := tabMap none (fun _ o => o.map fun x =>
    if x.hdr.gid == g then { x with passes := x.passes.map fun q => { q with stopped := false } } else x) s1.mrv.scheds } }
  admitAll (workGroup (postHeld s2 g) g)

/-- Member 0 sends GO when it holds BUMPED from every other member and has itself completed step 4 (R287). -/
def goTry (s : State) (g : Nat) : State :=
  let e := s.group g
  match e.pwork with
  | some w =>
    if w.quiesced && member0 e == s.self && e.chips.all fun c => c == s.self || w.got.contains c then
      poisonGo ((e.chips.filter (· != s.self)).foldl (fun t c => sendDelivery t g c dkGo 0 w.epoch.toNat) s) g
    else s
  | none => s

/-- Step 4 and 5 of R286: with no up frame of the group left on the die, e + 1 is written to its nodes, the down chunks in node
buffers are discarded, and BUMPED goes to member 0. -/
def poisonQuiesce (s : State) (g : Nat) : State :=
  let e := s.group g
  match e.pwork with
  | some w =>
    if w.quiesced || dieHoldsUp s g then s
    else
      let s1 := discardDown s g
      let s2 : State := { s1 with fab := { s1.fab with masks := tabMap none (fun k m =>
        if k % 4096 == g then m.map fun x => { x with epoch := w.epoch } else m) s1.fab.masks } }
      let s3 := s2.modGroup g fun e => { e with pwork := some { w with quiesced := true } }
      if member0 e == s.self then goTry s3 g else sendDelivery s3 g (member0 e) dkBumped 0 w.epoch.toNat
  | none => s

/-- F_POISON_LIMIT when the collective is named for the fifth time (R293). -/
def poisonLimit (s : State) (g : Nat) (cid pcseq : BitVec 32) : State :=
  if (collOf (s.group g) cid).any fun c => 5 ≤ c.poisons then
    raise s (((mkEv .poisonLimit 6 16).onGroup s g).onChunk cid pcseq)
  else s

/-- CSEQ of the named chunks that a DIE_OUT of collective `cid` handed to the die (R289). -/
def namedSeqs (s : State) (cid : BitVec 32) (named : List (Nat × Nat × Nat × Nat)) : List Nat :=
  named.filterMap fun e => match stepAt s e.1 e.2.1 e.2.2.1 with
    | some (x, q, t, _) => if t.kind == kDIEOUT && q.cid == cid then some (dieFirst s x t + e.2.2.2) else none
    | none => none

/-- A chunk that an earlier POISON named and that has not been handed again. -/
def stillNamed (s : State) (g : Nat) (cid : BitVec 32) (k : Nat) : Bool :=
  match passOf s g cid with
  | some (n, q) => match s.sched n with
    | some x => (q.desc.zip q.steps).any fun e => e.1.kind == kDIEOUT && decide (dieFirst s x e.1 + e.2.waits ≤ k)
    | none => false
  | none => false

/-- A chip applies a POISON of its current epoch (R286, R290). -/
def poisonApply (s : State) (g : Nat) (cid pcseq : BitVec 32) (det : Bool) (named : List (Nat × Nat × Nat × Nat)) : State :=
  let e := s.group g
  let e1 := e.epoch + 1
  let s1 := logPoison s g (poisonRec s cid pcseq e.epoch det named)
  let s2 := stopPasses s1 g e1 named
  let s3 := s2.modGroup g fun y => { y with
    epoch := e1, dones := [], pwork := some { since := s.tb, epoch := e1 }
    colls := y.colls.map fun c => { c with
      epoch := e1, poisons := if c.cid == cid then c.poisons + 1 else c.poisons
      named := ((c.named.filter (stillNamed s g c.cid)) ++ namedSeqs s c.cid named).eraseDups } }
  let s4 := poisonLimit (purgeParked s3 g) g cid pcseq
  if ncore e = 0 then poisonQuiesce s4 g else s4

/-- Send a POISON flit of epoch `e0` of a group to chips (Table 8-7). -/
def sendPoison (s : State) (g : Nat) (e0 : BitVec 16) (cid pcseq : BitVec 32) (chips : List Nat) : State :=
  chips.foldl (fun t c => sendCtrl t ckPoison (s.group g).gtag c (s.group g).tid
    [(128, 16, e0.toNat), (144, 32, cid.toNat), (176, 32, pcseq.toNat)]) s

/-- A chip detects a failure in data it has delivered: F_POISON, the flit to member 0 (which forwards its own to every member), and
R286 (R284, R285, R292). The flit leaves ahead of BUMPED. -/
def poisonRaise (s : State) (g : Nat) (cid pcseq : BitVec 32) (named : List (Nat × Nat × Nat × Nat)) : State :=
  let e := s.group g
  let s1 := raise s (((mkEv .poison 6 16).onGroup s g).onChunk cid pcseq)
  let dst := if member0 e == s.self then e.chips.filter (· != s.self) else [member0 e]
  poisonApply (sendPoison s1 g e.epoch cid pcseq dst) g cid pcseq true named

/-- A POISON flit that has come from another chip (R285, R286, R292). -/
def poisonIn (s : State) (f : BitVec 512) : State :=
  match findTag s (cTag f) with
  | none => s
  | some g =>
    let e := s.group g
    let e0 := BitVec.ofNat 16 (fld f 128 16)
    let cid := BitVec.ofNat 32 (fld f 144 32)
    let pcseq := BitVec.ofNat 32 (fld f 176 32)
    if !(e.st == .enabled || e.st == .draining) then s
    else if e.epoch == e0 then
      let s1 := if member0 e == s.self then sendPoison s g e0 cid pcseq (e.chips.filter fun c => c != s.self && c != cSrc f) else s
      poisonApply s1 g cid pcseq false []
    else if e.epoch == e0 + 1 then logPoison s g (poisonRec s cid pcseq e0 false [])
    else s

/-! ## Delivery control packets that arrive (R281, R282, R287) -/

/-- A POISON of the packet's group that the port has accepted and that has not been applied: what came after it waits for it (R285, R287). -/
def behindPoison (s : State) (p : Nat) (k : Packet) : Bool :=
  (s.lport p).inbox.any fun f => cKind f == ckPoison && cTag f == hTag k.head

/-- The oldest delivery control packet of a kind accepted on a port for this chip. -/
def takeDelivery (s : State) (p kind : Nat) : Option (Packet × State) :=
  match takeFirst (fun k => leAt k.data 0 1 == kind && !behindPoison s p k) (s.lport p).ctlPkts with
  | some y => some (y.1, s.modLport p fun l => { l with ctlPkts := y.2 })
  | none => none

/-- The group of a delivery control packet whose epoch is current; one that a POISON or an abort has overtaken is discarded. -/
def deliveryGroup (s : State) (k : Packet) : Option Nat :=
  (findTag s (hTag k.head)).bind fun g => if (s.group g).epoch == hEpoch k.head then some g else none

/-- Run `f` on the group of the packet taken. -/
def onDelivery (s : State) (p kind : Nat) (f : State → Nat → Packet → State) : State :=
  if s.stopped then s
  else match takeDelivery s p kind with
    | none => s
    | some y => match deliveryGroup y.2 y.1 with
      | some g => f y.2 g y.1
      | none => y.2

/-- DONE reaches member 0. -/
def doneIn (s : State) (g : Nat) (k : Packet) : State :=
  commitTry (s.modGroup g fun e => { e with dones := e.dones ++ [(hCid k.head, hSrc k.head)] }) g

/-- BUMPED reaches member 0. -/
def bumpedIn (s : State) (g : Nat) (k : Packet) : State :=
  goTry (s.modGroup g fun e => { e with pwork := e.pwork.map fun w => { w with got := (hSrc k.head :: w.got).eraseDups } }) g

/-- GO of the epoch that the chip holds. -/
def goIn (s : State) (g : Nat) (k : Packet) : State :=
  match (s.group g).pwork with
  | some w => if w.epoch.toNat == leAt k.data 4 2 then poisonGo s g else s
  | none => s

/-! ## Pieces delivered before the verdict (R279) -/

/-- The started RECV that a packet matches, and the chunk: schedule, pass, step, chunk. A chunk of I80, whose elements cannot be read without the
status word of its TAIL (R126), is delivered at the verdict; only chunks of I80 have several packets (R259; log entry 126). -/
def earlyRecv (s : State) (g : Nat) (h : BitVec 512) : Option (Nat × Nat × Nat × Nat) :=
  s.mrv.scheds.findSome? fun e => match e.2 with
    | none => none
    | some x => if x.hdr.gid != g || x.vcu then none
      else x.passes.findSome? fun q => if !passLive s x q then none
        else (q.desc.zip q.steps).zipIdx.findSome? fun y =>
          let t := y.1.1
          if t.kind != kRECV || !y.1.2.started || 1 < t.pk || t.fmt == fmtI80 || hFmt h != t.fmt || hOp h != t.op then none
          else (List.range t.nchk).findSome? fun j =>
            if !y.1.2.written.contains j && packetMatch s x q t (t.cseq0 + j) ⟨h, [], 0⟩ && ready s x q y.2 t j then some (e.1, q.p, y.2, j) else none

/-- Hand on-die chunks of a DIE_OUT whose bytes have landed. -/
def earlyDie (n p k j have' : Nat) : Nat → State × List (Nat × Nat × Nat × Nat) → State × List (Nat × Nat × Nat × Nat)
  | 0, y => y
  | b + 1, y =>
    match stepAt y.1 n p k with
    | some (x, q, t, r) =>
      let m := r.waits
      let sp := dieSpan y.1 x t m
      let e := fullElems y.1 x
      let f := fmtAt y.1 x q k t.ua
      let landed := bytesOf f (sp.1 - j * e + sp.2) ≤ have'
      if dieCount y.1 x q t ≤ m || dieChunks y.1 x t m != [j] || (dieMates y.1 x q (dieFirst y.1 x t + m)).length != 1 || !landed then y
      else match collOf (y.1.group x.hdr.gid) q.cid with
        | none => y
        | some c =>
          match handDie y.1 n p k x q t r c m with
          | none => y
          | some (false, s1) => (s1, y.2)
          | some (true, s1) =>
            let s2 := doneDie (modStep s1 n p k fun r => { r with waits := r.waits + 1 }) n p k x q t r (m + 1)
            earlyDie n p k j have' b (s2, if r.skip.contains m then y.2 else y.2 ++ [(n, p, k, m)])
    | none => y

/-- The STORE and DIE_OUT work on a chunk that is landing, at step `k`. -/
def earlyStep (n p i j have' tot : Nat) (y : State × List (Nat × Nat × Nat × Nat)) (k : Nat) : State × List (Nat × Nat × Nat × Nat) :=
  match stepAt y.1 n p i, stepAt y.1 n p k with
  | some (x, q, t, _), some (_, _, t2, r2) =>
    let u := (unitsAt y.1 x t.fmt t.uc j).1
    let j2 := (List.range t2.nchk).find? fun a => (unitsAt y.1 x (fmtAt y.1 x q k t2.ua) t2.ua a).1 == u
    if !r2.started || r2.completed || k ≤ i then y
    else match j2 with
      | none => y
      | some a =>
        if t2.kind == kSTORE && tot ≤ have' && !r2.issued.contains a then
          let s1 := workStore y.1 n p k a x q t2 r2
          let wrote := !r2.skip.contains a && match stepAt s1 n p k with | some (_, _, _, r3) => r3.issued.contains a | none => false
          (s1, if wrote then y.2 ++ [(n, p, k, a)] else y.2)
        else if t2.kind == kDIEOUT then earlyDie n p k a have' (dieCount y.1 x q t2) y
        else y
  | _, _ => y

/-- A flit of a VCB packet has landed in EARLY delivery: its landed pieces go to the STORE and DIE_OUT work of its chunk. The chunk
stands in the pool for that work alone; the RECV has it at the verdict. -/
def earlyLand (s : State) (port : Nat) : State :=
  let c := (s.lport port).vcb
  match c.hd with
  | none => s
  | some h =>
    match findTag s (hTag h) with
    | none => s
    | some g =>
      let e := s.group g
      if !isEarly e || !hDmode h || hEpoch h != e.epoch || e.pwork.isSome || hDst h != s.self || s.stopped then s
      else match earlyRecv s g h with
        | none => s
        | some (n, p, i, j) =>
          match stepAt s n p i with
          | some (x, _, t, r) =>
            let tot := bytesOf t.fmt (stepLen s x t j)
            let u := unitsAt s x t.fmt t.uc j
            let before := (s.pass n p).map (·.units)
            let ck : PChunk := { fmt := t.fmt, n := stepLen s x t j, data := padTo c.buf tot,
                                 status := posStatus 0 (decodeElems t.fmt 0 one32 (stepLen s x t j) (padTo c.buf tot)) }
            let s1 := modStep (modPass s n p (poolPut u.1 u.2 ck)) n p i fun r => { r with written := r.written ++ [j] }
            let y := (List.range ((s.pass n p).map (·.desc.length) |>.getD 0)).foldl (earlyStep n p i j c.buf.length tot) (s1, [])
            let s2 := modStep (modPass y.1 n p fun q => { q with units := before.getD q.units }) n p i fun r1 => { r1 with written := r.written }
            s2.modLport port fun l => { l with vcb := { l.vcb with early := l.vcb.early ++ y.2 } }
          | none => s

/-- The packet passed: the status word of its TAIL enters the records of the steps that delivered its chunk early. -/
def earlyPassed (s : State) (named : List (Nat × Nat × Nat × Nat)) (cseq : Nat) (sw : BitVec 64) : State :=
  ((named.map fun e => (e.1, e.2.1, e.2.2.1)).eraseDups).foldl (fun t e => modStep t e.1 e.2.1 e.2.2 fun r => { r with crec := recResult cseq sw r.crec }) s

end Sys2Proof.Machine
end

