-- ==== Sys2Proof/Machine/GafferOps.lean ====
section
/-! DEFINITION. Gaffer (12): the command being served, its payload, answers (R328), parked commands (R330), the ends of schedules and tasks (R267, R336). -/
namespace Sys2Proof.Machine

/-! ## The command header and payload (Table 12-1) -/

def cmdOp (c : BitVec 2048) : Nat := fld c 0 16
def cmdSeq (c : BitVec 2048) : Nat := fld c 16 16
def cmdTxid (c : BitVec 2048) : BitVec 32 := BitVec.ofNat 32 (fld c 32 32)
def cmdAtid (c : BitVec 2048) : Nat := fld c 64 6
def cmdAtv (c : BitVec 2048) : Bool := bit c 70
def cmdLen (c : BitVec 2048) : Nat := fld c 96 8
def cmdVmaj (c : BitVec 2048) : Nat := fld c 104 4

/-- The payload, its bytes beyond LEN read as 0 (R329). -/
def cmdPay (c : BitVec 2048) : BitVec 1920 := BitVec.ofNat 1920 (fld c 128 (8 * min 240 (cmdLen c)))

/-- Bytes `o` to `o + n` of a payload as a number. -/
def pby (p : BitVec 1920) (o n : Nat) : Nat := fld p (8 * o) (8 * n)

/-- The tenant as which a mailbox's command acts (R327, R332). -/
def callerTid (s : State) (mb : Nat) : Option Nat :=
  if mb = 0 then (if cmdAtv (s.mbox 0).cmd then some (cmdAtid (s.mbox 0).cmd) else none)
  else if 2 ≤ mb && mb < 66 then some (mb - 2)
  else none

/-! ## Answers (R328, Table 12-2) -/

/-- The response areas with a header and payload written; payload bytes beyond it keep their contents. -/
def respArea (m : Mailbox) (st : St) (det : Nat) (data : List Byte) : BitVec 2048 :=
  let n := min 240 data.length
  let head : BitVec 2048 := pack 2048 [(0, 16, cmdOp m.cmd), (16, 16, cmdSeq m.cmd), (32, 32, (cmdTxid m.cmd).toNat), (64, 4, st.code), (72, 8, n), (80, 16, det)]
  let old := fld m.rsp (128 + 8 * n) (1920 - 8 * n)
  BitVec.ofNat 2048 (head.toNat + (leNat (data.take n)) <<< 128 + old <<< (128 + 8 * n))

/-- The 64 words of a response area as it reads (R345). -/
def rspWords (m : Mailbox) : List (BitVec 32) := (List.range 64).map fun i => BitVec.ofNat 32 (fld (rspWord m (i / 2 * 8)) (32 * (i % 2)) 32)

/-- The response of MB1 goes out on channel 1 of the security sideband (R345). -/
def sendMb1 (s : State) (mb : Nat) : State :=
  if mb = 1 then { s with gaf := { s.gaf with secOut := s.gaf.secOut ++ [(true, rspWords (s.mbox 1))] } } else s

/-- Gaffer answers a mailbox: response written, DONE set and FULL cleared on one edge, and its message due (R328). -/
def respond (s : State) (mb : Nat) (st : St) (det : Nat) (data : List Byte) : State :=
  msgEvent (sendMb1 (s.modMbox mb fun m => { m with rsp := respArea m st det data, done := true, full := false }) mb) (srcMb + mb)

/-- An answer without payload or detail. -/
def reply (s : State) (mb : Nat) (st : St) : State := respond s mb st 0 []

/-- An answer without payload; with ST_RANGE, DETAIL is the byte offset in the payload of the field refused (Table 12-2). Which field of a check over
several is the one refused is a DESIGN CHOICE (log entry 130). -/
def replyAt (s : State) (mb : Nat) (st : St) (off : Nat) : State := respond s mb st (if st == .range then off else 0) []

/-- The least offset of the checks that fail, 0 when none does. -/
def firstBad (l : List (Nat × Bool)) : Nat :=
  match (l.filter fun e => !e.2).map (·.1) with | [] => 0 | x :: r => r.foldl min x

/-- The serve of the command ends with what `f` answers for its mailbox; nothing when the command being served is another. -/
def serveOp (s : State) (op : Nat) (f : State → Nat → BitVec 1920 → State) : State :=
  match s.gaf.serving with
  | some mb =>
    if cmdOp (s.mbox mb).cmd == op then
      f { s with gaf := { s.gaf with serving := none } } mb (cmdPay (s.mbox mb).cmd)
    else s
  | none => s

/-- Park the command of the mailbox (R330). -/
def park (s : State) (p : Parked) : State := { s with gaf := { s.gaf with parked := s.gaf.parked ++ [p] } }

/-- Take parked commands off the list. -/
def unpark (s : State) (p : Parked → Bool) : State := { s with gaf := { s.gaf with parked := s.gaf.parked.filter fun x => !p x } }

/-- Mailbox of a parked command. -/
def parkedMb : Parked → Nat
  | .commit mb => mb | .enable mb _ => mb | .unload mb _ => mb | .tenantReset mb _ => mb | .serviceReset => 0 | .fwUpdate mb => mb | .lehrWrite mb => mb

/-- Answer the parked commands that satisfy a condition. -/
def answerParked (s : State) (p : Parked → Bool) (st : St) : State :=
  (s.gaf.parked.filter p).foldl (fun t x => reply t (parkedMb x) st) (unpark s p)

/-! ## Ends of schedules (R239, R267, R308) -/

/-- Schedule n is no longer resident: trigger notices on their way for the SOIDs that it named find it gone. -/
def unloadSched (s : State) (n : Nat) : State :=
  match s.sched n with
  | some x =>
    let named (i : Nat) : Bool := x.steps.any fun t => t.tv && t.trig == i
    let t := s.setSched n none
    { t with sync := { t.sync with trig := t.sync.trig.map fun e => if named e.1 then (e.1, e.2.1, true) else e } }
  | none => s

/-- Unloads whose schedules have no pass left take place and are answered (R267). -/
def unloadTry (s : State) : State :=
  s.gaf.parked.foldl (fun t x => match x with
    | .unload mb n => (match t.sched n with
      | some y => if y.passes.isEmpty then reply (unpark (unloadSched t n) (· == x)) mb .ok else t
      | none => reply (unpark t (· == x)) mb .ok)
    | _ => t) s

/-! ## Tasks (R147, R308, R336) -/

/-- Core k is bound to no task. -/
def unbindCore (s : State) (k : Nat) : State := s.modPort k fun p => { p with tid := 0, tag := 0, tv := false }

/-- Cores of a task. -/
def taskCores (t : Task) : List Nat := onesOf t.cores

/-- Kill a task: its cores' transfers end with ABORT, they are unbound, its objects become ABANDONED. -/
def killTask (s : State) (t : Task) : State :=
  let s1 := (taskCores t).foldl (fun y k => unbindCore (endPort .abort (fun _ _ => true) y k) k) s
  let s2 := (objsWhere s1 fun o => o.tid == t.tid && o.tag == t.tag).foldl abandon s1
  { s2 with grp := { s2.grp with tasks := s2.grp.tasks.filter fun x => x.tid != t.tid || x.tag != t.tag } }

end Sys2Proof.Machine
end

