-- ==== Sys2Proof/Machine/Abort.lean ====
section
/-! DEFINITION. Containment (R305 to R309): group abort, tenant abort, block stop. -/
namespace Sys2Proof.Machine

/-! ## Group abort (R305, R307) -/

/-- A group that an abort takes to ABORTED (Table 7-5). -/
def abortable (e : Group) : Bool := e.st == .enabled || e.st == .draining

/-- Every pass of a schedule ends, and its pending counts are cleared (R239, R305). The numbers of passes not yet started are used again: p goes
on from the last pass started (R197). -/
def endPasses (s : State) (n : Nat) : State :=
  match s.sched n with
  | some x =>
    let t := x.passes.foldl (fun y q => dropPass (detachPass y n q.p) n q.p) s
    let next := x.passes.foldl (fun a q => if q.steps.all fun r => !r.started then min a q.p else a) x.nextPass
    if x.oneShot then t.setSched n none else t.modSched n fun y => { y with pend := y.pend.map (fun _ => 0), nextPass := next }
  | none => s

/-- Numbers of the schedules of a group. -/
def schedsOf (s : State) (g : Nat) : List Nat :=
  (s.mrv.scheds.filter fun e => match e.2 with | some x => x.hdr.gid == g | none => false).map (·.1)

/-- The ABORT flits of a group (R307). -/
def sendAbort (s : State) (g code : Nat) : State :=
  let e := s.group g
  if isXchip e then sendCtrlAll s ckAbort e.gtag e.chips e.tid [(128, 16, e.epoch.toNat), (144, 16, code)] else s

/-- The steps of a group abort; `code` goes into ABORT flits, none when another chip began the abort. -/
def abortGroup (s : State) (g : Nat) (code : Option Nat) : State :=
  if !abortable (s.group g) then s
  else
    let s0 := match code with | some c => sendAbort s g c | none => s
    let s1 := s0.modGroup g fun e =>
      { e with st := .aborted, enq := false, notify := none, cleanup := true, colls := [], dones := [], pwork := none }
    let s2 : State := { s1 with mrv := { s1.mrv with
      postOut := s1.mrv.postOut.filter fun x => x.2.1 != g
      commits := s1.mrv.commits.filter fun x => x.2.1 != g } }
    let s3 := endGroupXfers s2 g .abort
    let s4 := (objsWhere s3 fun o => o.gid == some g).foldl abandon s3
    let s5 := discardGroup (clearCane s4 g .abort) g
    unloadTry (purgeParked ((schedsOf s5 g).foldl endPasses s5) g)

/-- A packet of the group is landing on a link port. -/
def landing (s : State) (g : Nat) : Bool :=
  s.lps.any fun e => [e.2.vcu, e.2.vcb].any fun c => match c.hd with | some h => findTag s (hTag h) == some g | none => false

/-- A memory request of the group's passes still waits for a response. -/
def memWaits (s : State) (g : Nat) : Bool :=
  s.mrv.mps.any fun m => m.2.tags.any fun t => match t.2 with | some r => r.gid == g | none => false

/-- The clean-up has ended: no node, port or staging area holds a chunk of the group, and no memory request of its passes waits. -/
def cleanupOver (s : State) (g : Nat) : Bool := !dieHolds s g && !landing s g && !memWaits s g

/-- A tenant has no clean-up in progress. -/
def tenantClean (s : State) (t : Nat) : Bool := !s.grp.groups.any fun e => e.2.tid == t && e.2.st == .aborted

/-- Tenants whose clean-ups have all ended are released: timers stop, TENANT_RESET is answered (R308, R315). -/
def releaseTenants (s : State) : State :=
  (s.grp.resetT.filter (tenantClean s)).foldl (fun t i =>
    let u : State := { t with
      grp := { t.grp with resetT := t.grp.resetT.filter (· != i) }
      flt := { t.flt with timers := t.flt.timers.filter fun x => x.tid != some i } }
    answerParked u (fun p => match p with | .tenantReset _ j => j == i | _ => false) .ok) s

/-- A group's clean-up ends: the epoch increments and the group is DISABLED; its C2 timers stop (R305, R315). -/
def cleanupEnd (s : State) (g : Nat) : State :=
  if s.flt.bstop || (s.group g).st != .aborted || !cleanupOver s g then s
  else
    let s1 := (epochStep s g).modGroup g fun e => { e with st := .disabled, cleanup := false }
    releaseTenants { s1 with flt := { s1.flt with timers := s1.flt.timers.filter fun x => x.gid != some g } }

/-! ## Tenant abort (R308) -/

/-- Clock ratio in force of a half: true ÷4. -/
def slowHalf (s : State) (h : Nat) : Bool := if h = 0 then s.boot.h0slow else s.boot.h1slow

/-- What the staged commands of a commit pause (R339): channels on the tree links, halves whose ratio changes, VCB on link ports. -/
def pauseChans (t : Tx) : List Nat := t.staged.filterMap fun e => match e.1 with | .channelWeight _ p => some (fld p 0 8) | _ => none
def pauseHalves (s : State) (t : Tx) : List Nat :=
  t.staged.filterMap fun e => match e.1 with
    | .halfClock p => if slowHalf s (fld p 0 8) != bit p 8 then some (fld p 0 8) else none
    | _ => none
def pauseVcbs (t : Tx) : List Nat :=
  t.staged.flatMap fun e => match e.1 with | .vcbWeight _ _ => List.range 6 | .linkClass p => [fld p 0 8] | _ => []

/-- Transactions being committed. -/
def committing (s : State) : List Tx := s.gaf.txs.filterMap fun e => match e.2 with | some t => if t.committing.isSome then some t else none | none => none

/-- The pauses are those of the commits in progress; what they held goes on. -/
def repause (s : State) : State :=
  let ts := committing s
  let vs := ts.flatMap pauseVcbs
  let s1 : State := { s with fab := { s.fab with pauseCh := ts.flatMap pauseChans, pauseHalf := ts.flatMap (pauseHalves s) } }
  let s2 := (List.range 6).foldl (fun u p => u.modLport p fun l => { l with pauseVcb := vs.contains p }) s1
  (List.range 6).foldl pumpPort s2

/-- The transaction of a mailbox is gone. -/
def closeTx (s : State) (mb : Nat) : State := { s with gaf := { s.gaf with txs := tabSet none s.gaf.txs mb none } }

/-- The open transaction of a mailbox is discarded; one being committed ends with ST_BUSY (Table 12-5). -/
def dropTx (s : State) (mb : Nat) : State :=
  match tabGet none s.gaf.txs mb with
  | some x =>
    let t := closeTx s mb
    if x.committing.isSome then answerParked (repause t) (fun p => p == .commit mb) .busy else t
  | none => s

/-- Abort every group of a tenant, kill its tasks, unload its schedules. -/
def abortTenant (s : State) (i code : Nat) : State :=
  let gs := (s.grp.groups.filter fun e => e.2.tid == i && e.2.st != .free).map (·.1)
  let s1 := gs.foldl (fun t g => abortGroup t g (some code)) s
  let s2 := (s1.grp.tasks.filter fun x => x.tid == i).foldl killTask s1
  let ns := (s2.mrv.scheds.filter fun e => match e.2 with | some x => x.tid == i | none => false).map (·.1)
  let s3 := ns.foldl (fun t n => unloadSched t n) s2
  let s4 := dropTx (unloadTry s3) (i + 2)
  releaseTenants { s4 with grp := { s4.grp with resetT := (i :: s4.grp.resetT).eraseDups } }

/-! ## Block stop (R309, R319) -/

/-- Cores with a wait are woken with W_ABORT. -/
def abortWaits (s : State) : State := wakeAll s (waiters s) .abort

/-- Every transfer, scalar and wait ends with ABORT, and every Cane channel is cleared (R154, R160, R188, R309). -/
def abortCores (s : State) : State :=
  let s0 : State := { s with grp := { s.grp with groups := tabMap {} (fun _ e => { e with colls := [] }) s.grp.groups } }
  let s1 := (portKeys s0).foldl (endPort .abort fun _ _ => true) s0
  let s2 := abortWaits s1
  (s2.cane.chans.map (·.1)).foldl caneClear s2

/-- Groups that span chips. -/
def xgroups (s : State) : List Nat := (s.grp.groups.filter fun e => e.2.st != .free && isXchip e.2).map (·.1)

/-- Block stop, with the number of the code that began it. -/
def blockStop (s : State) (code : Nat) : State :=
  if s.flt.bstop then s
  else
    let s1 := (xgroups s).foldl (fun t g => sendAbort t g code) s
    abortCores { s1 with
      flt := { s1.flt with bstop := true, timers := [] }
      boot := { s1.boot with level := .dark, wave := 0 } }

end Sys2Proof.Machine
end

