-- ==== Sys2Proof/Machine/SyncCmds.lean ====
section
/-! DEFINITION. Commands of sync objects, waits and the Cane (R131 to R167) and the emission of messages (R401). -/
namespace Sys2Proof.Machine

/-! ## Sync objects -/

/-- The operations that reach one object on one edge, applied (R138). -/
def reachObject (s : State) (soid n : Nat) : State :=
  let t := takeOps soid n s.sync.ops
  if t.1.isEmpty then s else applyEdge { s with sync := { s.sync with ops := t.2 } } soid t.1

/-- SO_OP_APPLY: the first `n` operations on their way to object `soid` reach it on one edge (R133 to R138). -/
def execSoOpApply (soid n : Nat) (s : State) : Host.Outcome State Fault Refusal :=
  answer (.soOpApply soid n) (reachObject s soid n)

/-- The oldest notice on its way to a cell wakes the waiters it names (R153). -/
def noticeArrive (s : State) (cell : Nat) : State :=
  match takeFirst (fun n => n.cell == cell) s.sync.notices with
  | none => s
  | some x => x.1.cores.foldl (noticeCore x.1) { s with sync := { s.sync with notices := x.2 } }

/-- SO_NOTICE: the oldest notice on its way to the cell arrives (R153, R142). -/
def execSoNotice (cell : Nat) (s : State) : Host.Outcome State Fault Refusal := answer (.soNotice cell) (noticeArrive s cell)

/-- The event F_WAIT_TIMEOUT (R144, Table 11-9); its source is the cell, the channel or the port (DEDUCED, log entry 14). -/
def timeoutEvent (s : State) (k : Nat) (w : Wait) : Event :=
  let so := w.mode == .gen || w.mode == .count
  let e : Event := if so then mkEv .waitTimeout 1 (cellOf k) else if w.mode == .cane then mkEv .waitTimeout 9 w.id else mkEv .waitTimeout 0 k
  { e with
    waiter := some k
    soid := if so then some w.id else none
    gid := w.gid
    epoch := match w.gid with | some g => (s.group g).epoch | none => 0
    cseq := if w.mode == .cane then BitVec.ofNat 32 w.id else 0 }

/-- The deadline of core k's wait has passed. -/
def waitExpire (s : State) (k : Nat) : State :=
  match (s.port k).wait with
  | none => s
  | some w => if w.remain.isNone && decide (w.deadline ≤ s.tb) then raise (wakeWith s k .timeout) (timeoutEvent s k w) else s

/-- WAIT_TIMEOUT: core k's deadline has passed; nothing before it (R12, R141, R144). -/
def execWaitTimeout (core : Nat) (s : State) : Host.Outcome State Fault Refusal := answer (.waitTimeout core) (waitExpire s core)

/-- The oldest CTRL flit of a kind accepted on a port, and the state without it. -/
def takeCtrl (s : State) (p kind : Nat) : Option (BitVec 512 × State) :=
  (takeFirst (fun f => cKind f == kind) (s.lport p).inbox).map fun x => (x.1, s.modLport p fun l => { l with inbox := x.2 })

/-- Remote operations and the inter-chip Cane need FULL and a placed chip (R154). -/
def remoteReady (s : State) : Bool := s.boot.level == .full && s.boot.placed

/-- A remote operation reaches this chip and is applied or refused with SO_REFUSE (R150). -/
def remoteApply (s : State) (p : Nat) : State :=
  match takeCtrl s p ckSoOp with
  | none => s
  | some x =>
    match findTag s (cTag x.1) with
    | none => x.2
    | some g =>
      let op : SoOp :=
        { soid := fld x.1 128 15
          kind := if fld x.1 143 2 = 1 then .signal else .arrive
          opnd := fld x.1 145 16
          tid := (s.group g).tid
          tag := none
          caller := .remote (cSrc x.1) g p (cTag x.1) }
      if remoteReady s then applyEdge x.2 op.soid [op] else soReply x.2 op .busy

/-- SO_REMOTE_OP (R150): the oldest SO_OP flit accepted on the port for this chip. -/
def execSoRemoteOp (p : Nat) (s : State) : Host.Outcome State Fault Refusal := answer (.soRemoteOp p) (if s.stopped then s else remoteApply s p)

/-- F_SO_REMOTE on the group of a tag, naming the chip, the object and the reason (R150, Table 11-9). -/
def soRemoteEvent (s : State) (g chip soid reason : Nat) : Event :=
  { (mkEv .soRemote 14 chip).onGroup s g with
    soid := some soid, cid := BitVec.ofNat 32 reason, detail := BitVec.ofNat 16 chip }

/-- A refusal of a remote operation arrives (R150). -/
def refuseArrive (s : State) (p : Nat) : State :=
  match takeCtrl s p ckSoRefuse with
  | none => s
  | some x =>
    match findTag s (cTag x.1) with
    | none => x.2
    | some g => raise x.2 (soRemoteEvent s g (cSrc x.1) (fld x.1 128 15) (fld x.1 145 4))

/-- SO_REFUSE (R150): the oldest refusal accepted on the port for this chip. -/
def execSoRefuse (p : Nat) (s : State) : Host.Outcome State Fault Refusal := answer (.soRefuse p) (refuseArrive s p)

/-! ## The Cane -/

/-- The apex's output has reached the target sense and the block may release: not in block stop (R156, R309), not while the
channel is fenced (R158), and only when the channel is used. DESIGN CHOICE (log entry 117): a bound channel with no input that is not masked
(no member on this chip, no host leg, one chip) never releases; R156 does not say what it does. -/
def caneReady (s : State) (cn : Nat) : Bool :=
  let c := s.cchan cn
  !s.stopped && !c.lost && caneArrived s cn &&
    (bootBarrier s cn || match c.bound with
      | some g => ((s.group g).st == .enabled || (s.group g).st == .draining) && (c.xchip || c.hostm || !(caneMembers s cn).isEmpty)
      | none => false)

/-- Members of the ring of an axis: the other values of the product set on the axis of stage `a` (R163, R164). -/
def ringMembers (s : State) (g a : Nat) : List Nat :=
  (chipsOf s (s.group g)).filter fun n =>
    n != s.self && [0, 1, 2].all fun b => b == a || coord n b == coord s.self b

/-- Stages of an inter-chip channel: the axes that hold more than one value, in the order X, Y, Z (R164). -/
def stagesOf (s : State) (g : Nat) : List Nat :=
  [0, 1, 2].filter fun a => 2 ≤ ((chipsOf s (s.group g)).map fun n => coord n a).eraseDups.length

/-- Reach of a stage: the greatest shorter-way distance between two values of the axis's set (R164). -/
def stageReach (s : State) (g a : Nat) : Nat :=
  let vs := ((chipsOf s (s.group g)).map fun n => coord n a).eraseDups
  (vs.flatMap fun x => vs.map fun y => ringDist (s.ring a) x y).foldl max 0

/-- A token: T, STG and ORIG of Table 8-7. Its DST is the chip at the end of its reach (DEDUCED, log entry 16). -/
def tokenFlit (s : State) (g a : Nat) (t plus : Bool) : BitVec 512 :=
  let h := stageReach s g a
  let n := s.ring a
  let c := coord s.self a
  let e := if plus then (c + h) % n else (c + n * h - h) % n
  let dst := match a with
    | 0 => chipIndex e s.boot.y s.boot.z
    | 1 => chipIndex s.boot.x e s.boot.z
    | _ => chipIndex s.boot.x s.boot.y e
  ctrlFlit ckToken (s.group g).gtag s.self dst h [(128, 1, b2n t), (129, 2, a), (131, 12, s.self)]

/-- Send one token each way round the ring of a stage (R164); on a Y or Z ring of size 2 both go on the + port (R16). -/
def sendTokens (s : State) (g a : Nat) (t : Bool) : State :=
  let one (u : State) (plus : Bool) : State :=
    queueItem u (u.wayPort a plus) false { item := .ctrl (tokenFlit u g a t plus), tid := (u.group g).tid }
  one (one s true) false

/-- The chip holds the tokens of every other member of its ring for the phase of parity t (R164). -/
def stageHeld (s : State) (cn g a : Nat) (t : Bool) : Bool :=
  (ringMembers s g a).all fun n => (s.cchan cn).tokens.any fun k => k.parity == t && k.stage == a && k.orig == n

/-- Enter the stages of a channel from number `i` of the list on, as far as tokens held allow; at the end, release (R164).
`stage` of the channel is the number of the stage the chip is in, counted from 1. -/
def enterStages (cn g : Nat) (t : Bool) (i : Nat) : List Nat → State → State
  | [], s => caneRelease s cn
  | a :: r, s =>
    let s1 := (sendTokens s g a t).modCchan cn fun c => { c with stage := i + 1 }
    if stageHeld s1 cn g a t then enterStages cn g t (i + 1) r s1 else s1

/-- The channel's die is complete: release, or enter the first inter-chip stage (R156, R164). -/
def caneComplete (s : State) (cn : Nat) : State :=
  if !caneReady s cn then s
  else
    let c := s.cchan cn
    match c.bound, c.xchip && !bootBarrier s cn with
    | some g, true => if c.stage = 0 && remoteReady s then enterStages cn g (caneTarget c) 0 (stagesOf s g) s else s
    | _, _ => caneRelease s cn

/-- CANE_RELEASE (R156, R164): the channel's apex output reaches the target sense. -/
def execCaneRelease (cn : Nat) (s : State) : Host.Outcome State Fault Refusal := answer (.caneRelease cn) (caneComplete s cn)

/-- Core k's CANE wait on the channel ends with W_OK and the phase count (R142, R185). -/
def caneWake (cn : Nat) (phase : BitVec 32) (s : State) (k : Nat) : State :=
  match (s.port k).wait with
  | some w => if w.mode == .cane && w.id == cn then wakePlain s k .ok phase else s
  | none => s

/-- The release leg changes at a cell (R156, R157): its members are released and their waiters wake. -/
def releaseArrive (s : State) (cn cell : Nat) : State :=
  match takeFirst (fun r => r.1 == cn && r.2.1 == cell) s.cane.rel with
  | none => s
  | some x =>
    let s1 : State := { s with cane := { s.cane with rel := x.2 } }
    let s2 := s1.modCchan cn fun c => { c with relLeg := tabSet false c.relLeg cell x.1.2.2.1 }
    [0, 1, 2, 3].foldl (fun t q => caneWake cn x.1.2.2.2 t (4 * cell + q)) s2

/-- CANE_RELEASE_ARRIVE (R157). -/
def execCaneReleaseArrive (cn cell : Nat) (s : State) : Host.Outcome State Fault Refusal :=
  answer (.caneReleaseArrive cn cell) (releaseArrive s cn cell)

/-- End every CANE wait on a channel with a result (R142, R160). -/
def caneWakeAll (s : State) (cn : Nat) (code : WCode) : State := wakeAll s (caneWaiters s cn) code

/-- A copy of a Cane wire is flagged: F_CANE_VOTE, and, when a second copy of the channel on the link is flagged too, F_CANE_LOST besides
and the fence of the channel (R158). -/
def caneVote (s : State) (level node slot cn copy : Nat) : State :=
  if s.cane.flags.contains (level, node, slot, cn, copy) then s
  else
    let second := s.cane.flags.any fun f => f.1 == level && f.2.1 == node && f.2.2.1 == slot && f.2.2.2.1 == cn
    let pos := pack 32 [(0, 3, level + 2), (3, 13, node), (16, 6, slot)]
    let s1 : State := { s with cane := { s.cane with flags := s.cane.flags ++ [(level, node, slot, cn, copy)] } }
    let ev (c : FCode) : Event := { mkEv c 9 cn with cseq := pos, detail := BitVec.ofNat 16 copy }
    let sv := raise s1 (ev .caneVote)
    if !second then sv
    else
      let s2 := caneWakeAll (sv.modCchan cn fun c => { c with lost := true }) cn .abort
      match (s.cchan cn).bound with
      | some g => raise s2 ((ev .caneLost).onGroup s g)
      | none => raise s2 (ev .caneLost)

/-- CANE_VOTE_DISAGREE (R158). -/
def execCaneVoteDisagree (level node slot cn copy : Nat) (s : State) : Host.Outcome State Fault Refusal :=
  answer (.caneVoteDisagree level node slot cn copy) (caneVote s level node slot cn copy)

/-- Channel of a group that spans chips. -/
def caneOfX (s : State) (g : Nat) : Option Nat := (caneOf s g).find? fun cn => (s.cchan cn).xchip

/-- A token recorded for a channel may complete the stage the chip is in (R164, R165). -/
def tokenRecord (s : State) (cn g : Nat) (k : Token) : State :=
  let s1 := s.modCchan cn fun c => { c with tokens := if c.tokens.contains k then c.tokens else c.tokens ++ [k] }
  let c := s1.cchan cn
  let t := caneTarget c
  let st := stagesOf s1 g
  if c.stage = 0 then s1
  else match st[c.stage - 1]? with
    | some a => if stageHeld s1 cn g a t then enterStages cn g t c.stage (st.drop c.stage) s1 else s1
    | none => s1

/-- A token kept for this chip is recorded by the member channel of its group (R164, R165). DEDUCED (log entry 54): 'a group tag it does not
hold, while it is a member' is a tag of a group that no channel spanning chips is bound to here. -/
def tokenArrive (s : State) (p : Nat) : State :=
  match takeCtrl s p ckToken with
  | none => s
  | some x =>
    match findTag s (cTag x.1) with
    | none => x.2
    | some g =>
      match caneOfX s g with
      | none => raise x.2 { (mkEv .soRemote 14 (fld x.1 131 12)).onGroup s g with detail := BitVec.ofNat 16 (fld x.1 131 12) }
      | some cn =>
        if fld x.1 131 12 == s.self then x.2
        else tokenRecord x.2 cn g ⟨bit x.1 128, fld x.1 129 2, fld x.1 131 12⟩

/-- CANE_TOKEN (R164, R165): the oldest token accepted on the port. -/
def execCaneToken (p : Nat) (s : State) : Host.Outcome State Fault Refusal := answer (.caneToken p) (if s.stopped then s else tokenArrive s p)

/-! ## Messages -/

/-- Data of a source's message: DBASE above SRC (R400). -/
def msgData (s : State) (src : Nat) : BitVec 32 := pack 32 [(0, 16, src), (16, 16, s.host.dbase.toNat)]

/-- Emit one due message (R400, R401): sources in the order in which their messages became due. -/
def emitMsg (s : State) : State :=
  match s.host.due with
  | [] => s
  | src :: r => { s with host := { s.host with due := r, msgOut := some (s.host.msgAddr, msgData s src) } }

/-- MSG_EMIT (R401): one edge of CK_MGT with hw_msg_rdy as given. -/
def execMsgEmit (rdy : Bool) (s : State) : Host.Outcome State Fault Refusal :=
  answer (.msgEmit rdy) (if rdy && s.host.msgen then emitMsg s else s)

end Sys2Proof.Machine
end

