-- ==== Sys2Proof/Machine/FaultCmds.lean ====
section
/-! DEFINITION. Reports, Cullet, the reaction by class and the escalation timers (R297 to R319). -/
namespace Sys2Proof.Machine

/-! ## Cullet (R301 to R303) -/

/-- Order in which events of one edge are written: descending class, ascending SKIND, ascending SIDX (R302). -/
def eventBefore (a b : Event) : Bool :=
  b.cls < a.cls || (a.cls == b.cls && (a.skind < b.skind || (a.skind == b.skind && a.sidx < b.sidx)))

/-- Insert an event after those that come before it or equal it. -/
def insEvent (e : Event) : List Event → List Event
  | [] => [e]
  | x :: r => if eventBefore e x then e :: x :: r else x :: insEvent e r

/-- Events in the order of R302. -/
def sortEvents (es : List Event) : List Event := es.foldl (fun a e => insEvent e a) []

/-- The event merges into the newest entry (R302). -/
def mergesInto (s : State) (e : Event) (x : Entry) : Bool :=
  e.cls ≤ 1 && x.ev.code == e.code && x.ev.skind == e.skind && x.ev.sidx == e.sidx && x.ev.gid == e.gid && x.ev.detail == e.detail
  && s.tb ≤ x.tb + 1024

/-- An entry has been written: the freeze count begins, goes on or ends (R303). -/
def freezeCount (s : State) (e : Event) : State :=
  match s.flt.fcount with
  | none => if 3 ≤ e.cls then { s with flt := { s.flt with fcount := some 16 } } else s
  | some k =>
    if k ≤ 1 then { s with flt := { s.flt with fcount := some 0, frozen := true } }
    else { s with flt := { s.flt with fcount := some (k - 1) } }

/-- Cullet takes an event: counted, and merged, written or dropped; a new entry sends its class's message (R301 to R303, R318). -/
def writeEntry (s : State) (e : Event) : State :=
  let f := { s.flt with total := satAdd 0xFFFFFFFF s.flt.total (1 + e.rep) }
  if f.frozen then { s with flt := { f with drop := satAdd 0xFFFF f.drop (1 + e.rep) } }
  else
    let fresh : State := { s with flt := { f with ring := ({ ev := e, tb := s.tb, wseq := f.wseq + 1 } :: f.ring).take 64, wseq := f.wseq + 1 } }
    match f.ring with
    | x :: r =>
      if mergesInto s e x then
        { s with flt := { f with ring := { x with ev := { x.ev with rep := satAdd 255 x.ev.rep (1 + e.rep) } } :: r } }
      else msgEvent (freezeCount fresh e) (srcFault + e.cls)
    | [] => msgEvent (freezeCount fresh e) (srcFault + e.cls)

/-! ## Reaction (R300, R305, R308, R309, R315, R319) -/

/-- Start a C2 timer (R315). -/
def startTimer (s : State) (e : Event) : State :=
  { s with flt := { s.flt with timers := s.flt.timers ++
      [{ code := e.code, gid := if e.tid.isSome then none else e.gid, tid := e.tid, start := s.tb, tesc := s.flt.tesc }] } }

/-- The group is still in the life in which an event of epoch `n` arose: its epoch is that one, or has moved from it by POISONs alone (R286). -/
def sameLife (e : Group) (n : BitVec 16) : Bool :=
  (List.range 9).any fun k => e.epoch == n + BitVec.ofNat 16 k
    && (List.range k).all fun i => e.plog.any fun r => r.oepoch == n + BitVec.ofNat 16 i

/-- A C2 event: the pending bit, and outside block stop the abort that it causes and its timer. F_LEHR_ABSENT aborts nothing. -/
def reactC2 (s : State) (e : Event) : State :=
  let s1 : State := { s with flt := { s.flt with c2pend := true } }
  if s1.flt.bstop || e.code == .lehrAbsent then s1
  else match e.tid, e.gid with
    | some i, _ =>
      let s2 := abortTenant s1 i e.code.num
      if s2.grp.resetT.contains i then startTimer s2 e else s2
    | none, some g =>
      let s2 := if sameLife (s1.group g) e.epoch then abortGroup s1 g (some e.code.num) else s1
      if (s2.group g).st == .aborted then startTimer s2 e else s2
    | none, none => s1

/-- A C3 event: block stop, the Lehr record, and the second timer, which a reset in progress keeps from starting (R309, R315). -/
def reactC3 (s : State) (e : Event) : State :=
  let s1 := lehrFault (blockStop s e.code.num) { ev := e, tb := s.tb, wseq := s.flt.wseq }
  if s1.flt.fatal || s1.flt.c3timer.isSome || e.code == .fatalOut || s1.boot.rst.isSome then s1
  else { s1 with flt := { s1.flt with c3timer := some (s.tb, s.flt.tesc) } }

/-- A C4 event: the latch, block stop, the fatal pair, the Lehr record (R319). -/
def reactC4 (s : State) (e : Event) : State :=
  let s1 := lehrFault (blockStop s e.code.num) { ev := e, tb := s.tb, wseq := s.flt.wseq }
  { s1 with flt := { s1.flt with c4 := true, fatal := true } }

/-- The reaction by class (Table 11-3). -/
def react (s : State) (e : Event) : State :=
  let s1 : State := if 2 ≤ e.cls then { s with flt := { s.flt with lastf := BitVec.ofNat 16 e.code.num } } else s
  match e.cls with
  | 0 => s1
  | 1 => s1
  | 2 => reactC2 s1 e
  | 3 => reactC3 s1 e
  | _ => reactC4 s1 e

/-- Report one event: entry, then reaction; the entry that freezes Cullet is followed by the SNAPSHOT, whose FSEQ counts it too (R303). -/
def report (s : State) (e : Event) : State :=
  let t := react (writeEntry s e) e
  if t.flt.frozen && !s.flt.frozen then lehrSnapshot t ((t.flt.ring.take 16).filter fun x => 3 ≤ x.ev.cls).length else t

/-- The source's pair is faulty and is polled (R298). -/
def isPolled (s : State) (e : Event) : Bool := s.flt.polled.contains (e.skind, e.sidx)

/-- Report the events of the sources that satisfy a condition, in the order of R302; their syndrome registers are read. -/
def reportWhere (s : State) (p : Event → Bool) : State :=
  (sortEvents (s.flt.synd.filter p)).foldl report { s with flt := { s.flt with synd := s.flt.synd.filter fun e => !p e } }

/-- FAULT_REPORT (R297, R299): the collectors sample every pair that stands at 1/0, and Cullet and the block react. -/
def execFaultReport (s : State) : Host.Outcome State Fault Refusal := answer .faultReport (reportWhere s fun e => !isPolled s e)

/-- ERR_WIRE_FAULT (R298): a pair read 0/0 or 1/1 on 4 edges: F_WIRE, which the collector itself writes, and polling from then on. -/
def execErrWireFault (skind sidx : Nat) (s : State) : Host.Outcome State Fault Refusal :=
  answer (.errWireFault skind sidx) (if s.flt.polled.contains (skind, sidx) then s
    else report { s with flt := { s.flt with polled := s.flt.polled ++ [(skind, sidx)] } } (mkEv .wire skind sidx))

/-- SYNDROME_POLL (R298): the collector reads the syndrome register of a source whose pair is faulty. -/
def execSyndromePoll (skind sidx : Nat) (s : State) : Host.Outcome State Fault Refusal :=
  answer (.syndromePoll skind sidx) (if s.flt.polled.contains (skind, sidx) then
    reportWhere s fun e => e.skind == skind && e.sidx == sidx else s)

/-- Disagreements of a collector node within 1 ms, this one included (R312). -/
def colRecent (s : State) (node : Nat) : List Nat := s.tb :: (tabGet [] s.flt.colMis node).filter fun t => s.tb < t + 1000000

/-- A collector node's copies disagree: the entry is written again, F_COLLECT_LOCKSTEP; the third within 1 ms raises F_COLLECTOR too,
and so does a spine collector that has not written for 64 cycles (R312). -/
def collectorMismatch (s : State) (node : Nat) (unwritable : Bool) : State :=
  if unwritable && node == 0 then raise s (mkEv .collector 11 0)
  else
    let l := colRecent s node
    let t : State := { s with flt := { s.flt with colMis := tabSet [] s.flt.colMis node l } }
    let t1 := raise t (mkEv .collectLockstep 11 node)
    if 3 ≤ l.length then raise t1 (mkEv .collector 11 node) else t1

/-- COLLECTOR_MISMATCH (R312). -/
def execCollectorMismatch (node : Nat) (unwritable : Bool) (s : State) : Host.Outcome State Fault Refusal :=
  answer (.collectorMismatch node unwritable) (collectorMismatch s node unwritable)

/-! ## Escalation (R315, R317) -/

/-- The timer belongs to the group of a number below 4,096, or to the tenant of the number less 4,096. -/
def timerOf (idx : Nat) (x : C2Timer) : Bool := x.gid == some idx || (4096 ≤ idx && x.tid == some (idx - 4096))

/-- A C2 timer expires before its clean-up has ended: F_ESCALATED, and block stop (R315). -/
def escalate (s : State) (idx : Nat) : State :=
  match s.flt.timers.find? fun x => timerOf idx x && x.start + 1000 * x.tesc ≤ s.tb with
  | some x => raise (blockStop s FCode.escalated.num) { mkEv .escalated 10 0 with detail := BitVec.ofNat 16 x.code.num }
  | none => s

/-- ESC_TIMER_C2 (R315). -/
def execEscTimerC2 (idx : Nat) (s : State) : Host.Outcome State Fault Refusal := answer (.escTimerC2 idx) (escalate s idx)

/-- The C3 timer expires before a reset: the fatal pair is driven, F_FATAL_OUT (R315, R317). -/
def fatalOut (s : State) : State :=
  match s.flt.c3timer with
  | some x => if x.1 + 1000 * x.2 ≤ s.tb then raise { s with flt := { s.flt with fatal := true, c3timer := none } } (mkEv .fatalOut 10 0) else s
  | none => s

/-- ESC_TIMER_C3 (R315). -/
def execEscTimerC3 (s : State) : Host.Outcome State Fault Refusal := answer .escTimerC3 (fatalOut s)

/-! ## Aborts -/

/-- The oldest ABORT flit accepted on a port: of the current epoch, the group is aborted and F_PEER_ABORT names the sender; an older
one is discarded (R307). -/
def abortIn (s : State) (p : Nat) : State :=
  match takeCtrl s p ckAbort with
  | none => s
  | some x => match findTag s (cTag x.1) with
    | none => x.2
    | some g =>
      let e := s.group g
      if e.epoch.toNat != fld x.1 128 16 || !abortable e then x.2
      else raise (abortGroup x.2 g none)
        { (mkEv .peerAbort 14 (cSrc x.1)).onGroup s g with cid := BitVec.ofNat 32 (fld x.1 144 16), detail := BitVec.ofNat 16 (cSrc x.1) }

/-- ABORT (R307). -/
def execAbort (p : Nat) (s : State) : Host.Outcome State Fault Refusal := answer (.abort p) (abortIn s p)

/-- ABORT_CLEANUP_END (R305): the clean-up of the group has ended; nothing before that. -/
def execAbortCleanupEnd (gid : Nat) (s : State) : Host.Outcome State Fault Refusal := answer (.abortCleanupEnd gid) (cleanupEnd s gid)

/-! ## Scrub and time base -/

/-- SRAM_SCRUB (R310): a scrub reads every array; what it finds in error comes as ECC_ERROR, and it changes nothing else. -/
def execSramScrub (s : State) : Host.Outcome State Fault Refusal := answer .sramScrub s

/-- A window of 1,024 cycles in which the count moved by `ticks`: F_TIMEBASE and the substitute count (R314). -/
def windowCheck (s : State) (ticks : Int) : State :=
  if ticks < 0 || ticks + 16 < 1463 || 1479 < ticks then
    raise { s with boot := { s.boot with tbsub := true } } { mkEv .timebase 11 0 with detail := BitVec.ofNat 16 (min 0xFFFF ticks.toNat) }
  else s

/-- TB_WINDOW_CHECK (R314). -/
def execTbWindowCheck (ticks : Int) (s : State) : Host.Outcome State Fault Refusal := answer (.tbWindowCheck ticks) (windowCheck s ticks)

end Sys2Proof.Machine
end

