-- ==== Sys2Proof/Machine/MarverCmds.lean ====
section
/-! DEFINITION. Commands of Marver (R216 to R241, R265, R281 to R293, R372): memory responses, triggers, passes, steps, slices, deliveries. -/
namespace Sys2Proof.Machine

/-! ## Memory responses (R218 to R221) -/

/-- The request that holds a tag. -/
def tagOf (s : State) (port tag : Nat) : Option MemReq := tabGet none (s.mport port).tags tag

/-- Write what a tag holds. -/
def setTag (s : State) (port tag : Nat) (r : Option MemReq) : State := s.modMport port fun m => { m with tags := tabSet none m.tags tag r }

/-- A tag is free again after its last response, and the next request takes it. -/
def freeTag (s : State) (port tag : Nat) : State := pumpMem (setTag s port tag none) port

/-- F_MEM_PORT, form M (R221). -/
def memEvent (s : State) (port tag : Nat) (r : MemReq) : Event :=
  { (mkEv .memPort 7 port).onGroup s r.gid with
    cseq := BitVec.ofNat 32 (r.addr % 2 ^ 32), cid := BitVec.ofNat 32 (r.addr / 2 ^ 32), detail := BitVec.ofNat 16 tag }

/-- A response in error: F_MEM_PORT on the group of the pass; what the request was for stays unanswered, and the rest of its
responses is discarded. -/
def memFail (s : State) (port tag : Nat) (r : MemReq) : State :=
  if r.abandoned then s else raise (setTag s port tag (some { r with abandoned := true })) (memEvent s port tag r)

/-- Responses still due for chunk `j` of a step: none. -/
def needDone (s : State) (n p i j : Nat) : Bool :=
  match stepAt s n p i with | some (_, _, _, r) => needOf r j == some 0 | none => false

/-- The bytes of a read have come: kept as a part of its chunk; the last part completes a load; a count
table read whole goes on with the work that is due. -/
def readDone (s : State) (r : MemReq) : State :=
  let n := r.sched
  let s1 := modStep s n r.pass r.step fun y =>
    decNeed r.chunk { y with got := insPart (r.chunk, r.off, slice r.data (r.addr % 128) r.len, 0, 0) y.got }
  let s2 := if !needDone s1 n r.pass r.step r.chunk then s1
    else match stepAt s1 n r.pass r.step with
      | some (_, _, t, _) =>
        if t.kind == kCOUNTX then s1 else endLoad s1 n r.pass r.step r.chunk
      | none => s1
  workSched s2 n

/-- A beat of a read (R219). -/
def memRdata (s : State) (port tag : Nat) (data : BitVec 1024) (last err : Bool) : State :=
  match tagOf s port tag with
  | none => s
  | some r =>
    if r.op != 0 then s
    else
      let r1 := { r with data := r.data ++ leBytes 128 data.toNat }
      let s1 := if err then memFail s port tag r1 else setTag s port tag (some r1)
      if !last then s1
      else if err || r.abandoned then freeTag s1 port tag
      else readDone (freeTag s1 port tag) r1

/-- MEM_RDATA (R219, R221). -/
def execMemRdata (port tag : Nat) (data : BitVec 1024) (last err : Bool) (s : State) : Host.Outcome State Fault Refusal :=
  answer (.memRdata port tag data last err) (memRdata s port tag data last err)

/-- A write has its WACK: one response of its chunk, or of the completion record. -/
def writeDone (s : State) (r : MemReq) : State :=
  let n := r.sched
  if r.step == finStep then finResponse s n r.pass
  else
    let s1 := modStep s n r.pass r.step (decNeed r.chunk)
    let s2 := if !needDone s1 n r.pass r.step r.chunk then s1
      else match stepAt s1 n r.pass r.step with
        | some (_, _, t, _) => if t.kind == kCOUNTX then endCountx s1 n r.pass r.step else modStep s1 n r.pass r.step (markWritten r.chunk)
        | none => s1
    workSched s2 n

/-- MEM_WACK's effect. -/
def memWack (s : State) (port tag : Nat) (err : Bool) : State :=
  match tagOf s port tag with
  | none => s
  | some r =>
    if r.op != 1 then s
    else if err then freeTag (memFail s port tag r) port tag
    else
      let s1 := freeTag s port tag
      if r.abandoned then s1 else unloadTry (writeDone s1 r)

/-- MEM_WACK (R219, R221). -/
def execMemWack (port tag : Nat) (err : Bool) (s : State) : Host.Outcome State Fault Refusal :=
  answer (.memWack port tag err) (memWack s port tag err)

/-- A fence has its FACK: the NOTE that waits for the last acts, or the pass's end goes on (R220, R241). -/
def fenceDone (s : State) (r : MemReq) : State :=
  let n := r.sched
  if r.step == finStep then finResponse s n r.pass
  else
    let s1 := modStep s n r.pass r.step fun y => { y with waits := y.waits - 1 }
    let s2 := match stepAt s1 n r.pass r.step with
      | some (_, _, t, y) => if t.kind == kNOTE && y.waits == 0 then fireNote s1 n r.pass r.step else s1
      | none => s1
    workSched s2 n

/-- MEM_FACK's effect. -/
def memFack (s : State) (port tag : Nat) : State :=
  match tagOf s port tag with
  | none => s
  | some r =>
    if r.op != 2 then s
    else
      let s1 := freeTag s port tag
      if r.abandoned then s1 else unloadTry (fenceDone s1 r)

/-- MEM_FACK (R220). -/
def execMemFack (port tag : Nat) (s : State) : Host.Outcome State Fault Refusal := answer (.memFack port tag) (memFack s port tag)

/-! ## Triggers (R197, R238, R239) -/

/-- The schedule takes notices: step 0 of a standing posting takes none while its group is not ENABLED (R197). -/
def takesNotice (s : State) (x : Sched) (i : Nat) : Bool :=
  !(i == 0 && x.coll.isSome && x.hdr.stand && (s.group x.hdr.gid).st != .enabled)

/-- Add k to the pending counts of the steps of schedule n that name the object; a count carried past 255 stays at 255 and raises
F_TRIG_OVF (R238). -/
def trigSched (soid k : Nat) (s : State) (n : Nat) : State :=
  match s.sched n with
  | some x =>
    let hit (i : Nat) : Bool := (match x.steps[i]? with | some t => t.tv && t.trig == soid | none => false) && takesNotice s x i
    let excess := (List.range x.steps.length).any fun i => hit i && 255 < x.pend.getD i 0 + k
    let t := s.modSched n fun y => { y with pend := y.pend.zipIdx.map fun e => if hit e.2 then min 255 (e.1 + k) else e.1 }
    if excess then raise t { (mkEv .trigOvf 6 16).onGroup s x.hdr.gid with soid := some soid, detail := BitVec.ofNat 16 n } else t
  | none => s

/-- The oldest batch of notices reaches Marver (R238, R239). -/
def triggerIn (s : State) : State :=
  match s.sync.trig with
  | [] => s
  | (soid, k, lost) :: r =>
    let s1 : State := { s with sync := { s.sync with trig := r } }
    let s2 := if lost then raise s1 { mkEv .trigLost 6 18 with soid := some soid } else s1
    admitAll ((schedKeys s2).foldl (trigSched soid k) s2)

/-- TRIGGER_NOTICE (R238, R239). -/
def execTriggerNotice (s : State) : Host.Outcome State Fault Refusal := answer .triggerNotice (triggerIn s)

/-! ## Passes and steps -/

/-- STEP_START (R237). -/
def execStepStart (sched pass step : Nat) (s : State) : Host.Outcome State Fault Refusal :=
  answer (.stepStart sched pass step) (stepBegin s sched pass step)

/-- PASS_START (R216, R237). -/
def execPassStart (sched : Nat) (s : State) : Host.Outcome State Fault Refusal := answer (.passStart sched) (passStart s sched)

/-- RESERVATION_AGE (R216). -/
def execReservationAge (sched : Nat) (s : State) : Host.Outcome State Fault Refusal :=
  answer (.reservationAge sched) (ageReservation s sched)

/-- STEP_COMPLETE (R265, R281). -/
def execStepComplete (sched pass step : Nat) (s : State) : Host.Outcome State Fault Refusal :=
  answer (.stepComplete sched pass step) (stepComplete s sched pass step)

/-- PASS_END (R241, R270). -/
def execPassEnd (sched pass : Nat) (s : State) : Host.Outcome State Fault Refusal :=
  answer (.passEnd sched pass) (unloadTry (passEnd s sched pass))

/-! ## Slices (R232, R235, R236, R238, R372) -/

/-- A slice that may take a piece: live and free. -/
def freeSlice (s : State) (i : Nat) : Bool := !(s.sliceOf i).retired && (s.sliceOf i).piece.isNone

/-- The first piece of a step that is ready and not given to a slice: lowest chunk, then lowest position. -/
def stepPiece (s : State) (n p i : Nat) : Option Piece :=
  match stepAt s n p i with
  | some (x, q, t, r) =>
    if !isSliceKind t.kind || !r.started || r.completed || !passLive s x q then none
    else (List.range t.nchk).findSome? fun j =>
      if r.written.contains j || !ready s x q i t j then none
      else ((piecePos s x q i t j).find? fun a => !r.taken.contains (j, a)).map fun a =>
        { sched := n, pass := p, step := i, chunk := j, pos := a,
          len := min (pieceLen (pieceFmts s x q i t).1 (pieceFmts s x q i t).2) (stepLen s x t j - a) }
  | none => none

/-- The next piece of a schedule: lowest step, then the earliest pass. -/
def schedPiece (s : State) (n : Nat) : Option Piece :=
  match s.sched n with
  | some x =>
    let m := x.passes.foldl (fun a q => max a q.desc.length) 0
    (List.range m).findSome? fun i => x.passes.findSome? fun q => stepPiece s n q.p i
  | none => none

/-- Schedules in the round-robin order of R238. -/
def robin (s : State) : List Nat :=
  let ks := schedKeys s
  ks.filter (fun n => s.mrv.rr ≤ n) ++ ks.filter (fun n => n < s.mrv.rr)

/-- A piece to be taken again that this slice may take: not one that it failed, unless no other slice is live (R235). -/
def redoPiece (s : State) (i : Nat) : Option ((Piece × Nat) × List (Piece × Nat)) :=
  takeFirst (fun e => e.2 != i || (List.range 16).all fun k => k == i || (s.sliceOf k).retired) s.mrv.redo

/-- Slice i takes a piece. -/
def givePiece (s : State) (i : Nat) (c : Piece) : State :=
  modStep (s.modSlice i fun y => { y with piece := some c, lastTake := s.tb }) c.sched c.pass c.step fun r =>
    { r with taken := if r.taken.contains (c.chunk, c.pos) then r.taken else r.taken ++ [(c.chunk, c.pos)] }

/-- Slice i takes the next piece, if there is one. -/
def takePiece (s : State) (i : Nat) : State :=
  match redoPiece s i with
  | some y => givePiece { s with mrv := { s.mrv with redo := y.2 } } i y.1.1
  | none =>
    match (robin s).findSome? (schedPiece s) with
    | some c => givePiece { s with mrv := { s.mrv with rr := c.sched + 1 } } i c
    | none => s

/-- A piece waits for a slice. -/
def pieceWaits (s : State) (i : Nat) : Bool := (redoPiece s i).isSome || ((robin s).findSome? (schedPiece s)).isSome

/-- Slice i frees, or is free: it takes the next piece. A gated slice is asked for only when every free slice is gated, the lowest
first (R372). Nothing starts in block stop, in a reset or while the power brake holds (R309, R387). -/
def pieceTake (s : State) (i : Nat) : State :=
  if s.stopped || s.boot.brake || !freeSlice s i then s
  else if (s.sliceOf i).powered then takePiece s i
  else
    let free := (List.range 16).filter (freeSlice s)
    if free.any (fun k => (s.sliceOf k).powered) || free.head? != some i || !pieceWaits s i then s
    else s.modSlice i fun y => { y with asked := true }

/-- PIECE_TAKE (R232, R238). -/
def execPieceTake (slice : Nat) (s : State) : Host.Outcome State Fault Refusal := answer (.pieceTake slice) (pieceTake s slice)

/-- A slice is retired: F_SLICE_RETIRED, Lehr is to be told; the last one raises F_ENGINE_LOST (R235, R236). -/
def retireSlice (s : State) (i : Nat) : State :=
  let t := s.modSlice i fun y => { y with retired := true, powered := false, asked := false }
  let t1 := raise (confDue { t with lehr := { t.lehr with slices := setBit t.lehr.slices i true } } 4)
    { mkEv .sliceRetired 6 i with detail := BitVec.ofNat 16 i }
  if (List.range 16).all fun k => (t1.sliceOf k).retired then raise t1 (mkEv .engineLost 6 16) else t1

/-- A failed piece of slice i goes to the lowest free live slice other than it, a powered one first; where every one is gated the lowest is
asked for, and the piece waits for it (R235, R372). -/
def movePiece (s : State) (i : Nat) (c : Piece) : State :=
  let ks := (List.range 16).filter fun k => k != i && freeSlice s k
  match ks.find? fun k => (s.sliceOf k).powered with
  | some k => givePiece s k c
  | none =>
    let t : State := { s with mrv := { s.mrv with redo := s.mrv.redo ++ [(c, i)] } }
    match ks with
    | k :: _ => t.modSlice k fun y => { y with asked := true }
    | [] => t

/-- Slice i's copies disagreed: the result is dropped, and the piece goes to another slice; the third time within 1 s retires it (R235). -/
def pieceFail (s : State) (i : Nat) (c : Piece) : State :=
  let m := s.tb :: (s.sliceOf i).mism.filter fun t => s.tb < t + 1000000000
  let s1 := raise (s.modSlice i fun y => { y with piece := none, mism := m }) { mkEv .sliceMismatch 6 i with detail := BitVec.ofNat 16 i }
  let s2 := movePiece s1 i c
  if 3 ≤ m.length then retireSlice s2 i else s2

/-- Slice i has finished its piece. -/
def pieceDone (s : State) (i : Nat) (mismatch : Bool) : State :=
  match (s.sliceOf i).piece with
  | none => s
  | some c =>
    if mismatch then pieceFail s i c
    else
      let s1 := s.modSlice i fun y => { y with piece := none }
      match stepAt s1 c.sched c.pass c.step with
      | some (x, q, t, _) =>
        let y := pieceResult s1 x q c.step t c.chunk c.pos c.len
        let s2 := modStep s1 c.sched c.pass c.step fun r => { r with pieces := r.pieces ++ [(c.chunk, c.pos, y.1, y.2)] }
        workSched (endComb s2 c.sched c.pass c.step c.chunk) c.sched
      | none => s1

/-- PIECE_DONE (R232, R235). -/
def execPieceDone (slice : Nat) (mismatch : Bool) (s : State) : Host.Outcome State Fault Refusal :=
  answer (.pieceDone slice mismatch) (pieceDone s slice mismatch)

/-- A slice that has taken no piece for 10 us is power-gated (R372). -/
def gateSlice (s : State) (i : Nat) : State :=
  if freeSlice s i && (s.sliceOf i).powered && (s.sliceOf i).lastTake + 10000 ≤ s.tb then s.modSlice i fun y => { y with powered := false } else s

/-- SLICE_GATE_TIMER (R372). -/
def execSliceGateTimer (slice : Nat) (s : State) : Host.Outcome State Fault Refusal := answer (.sliceGateTimer slice) (gateSlice s slice)

/-- A slice that was asked for is powered, and takes the piece (R372). -/
def slicePower (s : State) (i : Nat) : State :=
  if (s.sliceOf i).asked then pieceTake (s.modSlice i fun y => { y with asked := false, powered := true }) i else s

/-- SLICE_POWERED (R372). -/
def execSlicePowered (slice : Nat) (s : State) : Host.Outcome State Fault Refusal := answer (.slicePowered slice) (slicePower s slice)

/-! ## EARLY delivery (R281 to R293) -/

/-- DONE (R281). -/
def execDone (p : Nat) (s : State) : Host.Outcome State Fault Refusal := answer (.done p) (onDelivery s p dkDone doneIn)

/-- COMMIT (R282). -/
def execCommit (p : Nat) (s : State) : Host.Outcome State Fault Refusal :=
  answer (.commit p) (onDelivery s p dkCommit fun t g k => commitColl t g (hCid k.head))

/-- The oldest POISON accepted on a port. -/
def poisonArrive (s : State) (p : Nat) : State :=
  if s.stopped then s else match takeCtrl s p ckPoison with | some x => poisonIn x.2 x.1 | none => s

/-- POISON (R285, R286). -/
def execPoison (p : Nat) (s : State) : Host.Outcome State Fault Refusal := answer (.poison p) (poisonArrive s p)

/-- POISON_DIE_QUIESCE (R286, steps 4 and 5). -/
def execPoisonDieQuiesce (gid : Nat) (s : State) : Host.Outcome State Fault Refusal :=
  answer (.poisonDieQuiesce gid) (if s.stopped then s else poisonQuiesce s gid)

/-- BUMPED (R287). -/
def execBumped (p : Nat) (s : State) : Host.Outcome State Fault Refusal := answer (.bumped p) (onDelivery s p dkBumped bumpedIn)

/-- GO (R287). -/
def execGo (p : Nat) (s : State) : Host.Outcome State Fault Refusal := answer (.go p) (onDelivery s p dkGo goIn)

/-- GO has not come within 8 STALL periods of the POISON (R293). -/
def poisonLate (s : State) (g : Nat) : State :=
  let e := s.group g
  match e.pwork with
  | some w => if w.since + 8 * e.stall * 1024 ≤ s.tb then raise s ((mkEv .poisonStuck 6 16).onGroup s g) else s
  | none => s

/-- POISON_STUCK (R293). -/
def execPoisonStuck (gid : Nat) (s : State) : Host.Outcome State Fault Refusal := answer (.poisonStuck gid) (poisonLate s gid)

end Sys2Proof.Machine
end

