-- ==== Sys2Proof/Machine/LinkCmds.lean ====
section
/-! DEFINITION. Commands of the link ports (R223 to R231, R279, R284, R377) and the stall timers (R209, R230). -/
namespace Sys2Proof.Machine

/-- Change one class of a port. -/
def modCls (s : State) (p : Nat) (vcb : Bool) (f : LinkClassState → LinkClassState) : State := s.modLport p fun l => l.modCls vcb f

/-! ## Up and down (R224, R377) -/

/-- lpN_up is first sampled at 1: 64 credits of each class begin to go to the router. -/
def linkUp (s : State) (p : Nat) : State :=
  let l := s.lport p
  if l.up || l.rst then s
  else pumpPort (s.modLport p fun l => { l with up := true, vcu := { l.vcu with ret := 64 }, vcb := { l.vcb with ret := 64 } }) p

/-- LINK_UP (R224). -/
def execLinkUp (p : Nat) (s : State) : Host.Outcome State Fault Refusal := answer (.linkUp p) (linkUp s p)

/-- The port holds items: retained, relayed or received. -/
def holdsItems (c : LinkClassState) : Bool :=
  !c.retain.isEmpty || c.hd.isSome || !c.parked.isEmpty || c.wait.any fun x => x.relay.isSome

/-- A class after the link has gone down: what has not been sent and began at this chip stays. -/
def clsDown (c : LinkClassState) : LinkClassState :=
  { wait := c.wait.filter fun x => x.relay.isNone, last := c.last, wleft := c.wleft }

/-- Receive units of other ports that relayed items of a class hold. -/
def relayUnits (c : LinkClassState) : List (Nat × Nat) := (c.wait ++ c.retain).filterMap (·.relay)

/-- What came in on port p and waits on another port to be relayed is in p's receive area, and goes with it. -/
def dropRelays (p : Nat) (c : LinkClassState) : LinkClassState :=
  let mine (x : TxItem) : Bool := match x.relay with | some r => r.1 == p | none => false
  { c with wait := c.wait.filter (fun x => !mine x), retain := c.retain.map fun x => if mine x then { x with relay := none } else x }

/-- lpN_up falls: link sequence state, retained and relayed items and the receive area are gone, F_LINK_DOWN where there were any. A remote
operation that was leaving has left (log entry 120). -/
def linkDown (s : State) (p : Nat) : State :=
  let l := s.lport p
  if !l.up then s
  else
    let s0 := (l.vcu.retain.filterMap (·.tell)).foldl tellCore s
    let s1 := s0.modLport p fun l => { l with up := false, vcu := clsDown l.vcu, vcb := clsDown l.vcb }
    let s2 : State := { s1 with lps := tabMap {} (fun _ l => { l with vcu := dropRelays p l.vcu, vcb := dropRelays p l.vcb }) s1.lps }
    let back (vcb : Bool) (t : State) : State :=
      ((relayUnits (l.cls vcb)).filter fun r => r.1 != p).foldl (fun y r => returnUnits y r.1 vcb r.2) t
    let s3 := back true (back false s2)
    if holdsItems l.vcu || holdsItems l.vcb then raise s3 { mkEv .linkDown 8 p with detail := BitVec.ofNat 16 p } else s3

/-- LINK_DOWN (R377). -/
def execLinkDown (p : Nat) (s : State) : Host.Outcome State Fault Refusal := answer (.linkDown p) (linkDown s p)

/-- The router returns credits. -/
def routerCredit (s : State) (p u b : Nat) : State :=
  if !(s.lport p).up then s
  else pumpPort (s.modLport p fun l => { l with vcu := { l.vcu with crd := l.vcu.crd + u }, vcb := { l.vcb with crd := l.vcb.crd + b } }) p

/-- ROUTER_CREDIT (R224). -/
def execRouterCredit (p u b : Nat) (s : State) : Host.Outcome State Fault Refusal := answer (.routerCredit p u b) (routerCredit s p u b)

/-! ## Link sequence at the receiver (R228) -/

/-- ACK up to an LPSN, NAK for the expected one. -/
def sendAck (s : State) (p : Nat) (vcb : Bool) (n : BitVec 16) : State := queueImm s p vcb (nearFlit s p ckAck vcb [(72, 16, n.toNat)])
def sendNak (s : State) (p : Nat) (vcb : Bool) : State :=
  queueImm (modCls s p vcb fun c => { c with nakWait := true }) p vcb (nearFlit s p ckNak vcb [(72, 16, ((s.lport p).cls vcb).nextRx.toNat)])

/-- An event of a link port, form S (R229). -/
def portEvent (c : FCode) (p : Nat) : Event := { mkEv c 8 p with detail := BitVec.ofNat 16 p }

/-- The receiver's answer to an item that passed its check: accepted (true), or discarded as a duplicate, or as one that comes after a
gap. `again` says that the item is a resend, or cannot say. -/
def sequence (s : State) (p : Nat) (vcb : Bool) (n : BitVec 16) (again : Bool) : Bool × State :=
  let c := (s.lport p).cls vcb
  if n == c.nextRx then
    if c.nakWait && !again then (false, s)
    else (true, sendAck (modCls s p vcb fun c => { c with nextRx := n + 1, nakWait := false }) p vcb n)
  else if (c.nextRx - n).toNat ≤ 32768 then (false, sendAck s p vcb (c.nextRx - 1))
  else (false, if c.nakWait then s else sendNak s p vcb)

/-! ## Relays (R231) -/

/-- Forward an item that is not for this chip; `units` of the receive area of port p stay in use until the next hop acknowledges it. -/
def relayItem (s : State) (p : Nat) (vcb : Bool) (dst hops cseq units : Nat) (item : Nat → Item) : State :=
  if hops ≤ 1 then returnUnits (raise s (portEvent .xroute p)) p vcb units
  else match s.routePort dst vcb cseq with
    | some o => queueItem s o vcb { item := item (hops - 1), tid := 64, relay := some (p, units) }
    | none => returnUnits s p vcb units

/-! ## Packets (R229) -/

/-- A HEAD or DATA flit lands; the pieces of a VCB packet that is the one expected go to EARLY delivery (R279). -/
def flitLand (s : State) (p : Nat) (vcb head : Bool) (flit : BitVec 512) : State :=
  if !(s.lport p).up then s
  else
    let s1 := modCls s p vcb fun c =>
      let c1 := { c with ret := c.ret + 1 }
      if head then { c1 with hd := some flit, buf := [], early := [] }
      else if c.hd.isSome then { c1 with buf := c.buf ++ flitBytes flit } else c1
    let c := (s1.lport p).vcb
    let due := match c.hd with | some h => hLpsn h == c.nextRx && (!c.nakWait || hRply h) | none => false
    if vcb && !head && due then earlyLand s1 p else s1

/-- FLIT_LANDS (R223, R279). -/
def execFlitLands (p : Nat) (vcb head : Bool) (flit : BitVec 512) (s : State) : Host.Outcome State Fault Refusal :=
  answer (.flitLands p vcb head flit) (flitLand s p vcb head flit)

/-- Payload bytes of a packet by its HEAD. -/
def payBytes (h : BitVec 512) : Nat := 4 * (hLenw h + 1)

/-- CRCH, then CRCD (R229 step 1). -/
def crcOk (h tail : BitVec 512) (data : List Byte) : Bool :=
  fld tail 128 32 == (headCrc h tail).toNat && fld tail 96 32 == (crc32c (data.take (payBytes h))).toNat

/-- Reserved fields, and LENW against the position of the TAIL (R229 step 2). -/
def shapeOk (h tail : BitVec 512) (data : List Byte) : Bool :=
  zeros h [(214, 298)] && zeros tail [(80, 16), (160, 352)] && data.length == 64 * ceilDiv (payBytes h) 64

/-- TAG and SRC name a group and a member of it (R194). -/
def tagCheck (s : State) (tag : BitVec 32) (src : Nat) : Option Nat :=
  match findTag s tag with
  | some g => if (s.group g).chips.contains src then some g else none
  | none => none

/-- F_XTAG: the sender, and the tag (R194). -/
def xtagEvent (s : State) (tag : BitVec 32) (src : Nat) : Event :=
  let e := { mkEv .xtag 14 src with cid := tag, detail := BitVec.ofNat 16 src }
  match findTag s tag with
  | some g => e.onGroup s g
  | none => e

/-- A packet of the group is wanted: it is of the current epoch of a group that runs (R194, R305). -/
def packetWanted (s : State) (g : Nat) (h : BitVec 512) : Bool :=
  hEpoch h == (s.group g).epoch && abortable (s.group g)

/-- A delivery control packet (Table 10-3). -/
def isDelivery (vcb : Bool) (h : BitVec 512) : Bool := !vcb && hCseq h == 0xFFFFFFFE

/-- A packet for this chip that has passed: to the delivery control of its group, where its epoch is judged when its turn comes, or waiting
for its RECV (R229, R281). A VCB packet of the other delivery mode is discarded with F_POST_MISMATCH (R276). -/
def packetHere (s : State) (p : Nat) (vcb : Bool) (k : Packet) (units : Nat) (early : List (Nat × Nat × Nat × Nat)) : State :=
  let h := k.head
  match tagCheck s (hTag h) (hSrc h) with
  | none => returnUnits (raise s (xtagEvent s (hTag h) (hSrc h))) p vcb units
  | some g =>
    if isDelivery vcb h then returnUnits (s.modLport p fun l => { l with ctlPkts := l.ctlPkts ++ [k] }) p vcb units
    else if !packetWanted s g h then returnUnits s p vcb units
    else if vcb && hDmode h != (s.group g).dmode then
      returnUnits (raise s (((mkEv .postMismatch 6 16).onGroup s g).onChunk (hCid h) (hCseq h))) p vcb units
    else
      let s1 := modCls s p vcb fun c => { c with parked := c.parked ++ [(k, s.tb, units)] }
      let s2 := earlyPassed s1 early (hCseq h).toNat (BitVec.ofNat 64 (fld k.tail 0 64))
      workGroup s2 g

/-- A packet that has passed its check and is the one expected (R229 steps 2 to 5). -/
def packetIn (s : State) (p : Nat) (vcb : Bool) (h tail : BitVec 512) (data : List Byte) (units : Nat)
    (early : List (Nat × Nat × Nat × Nat)) : State :=
  let k : Packet := ⟨h, data.take (payBytes h), tail⟩
  if !shapeOk h tail data then
    let s1 := match findTag s (hTag h) with
      | some g => raise s (((portEvent .xframe p).onGroup s g).onChunk (hCid h) (hCseq h))
      | none => s
    returnUnits s1 p vcb units
  else if hDst h != s.self then
    relayItem s p vcb (hDst h) (hHops h) (hCseq h).toNat units fun n => .pkt (reHead k (setFld h 187 6 n))
  else packetHere s p vcb k units early

/-- A failed verdict: F_CHUNK_CRC, NAK unless one is awaited already, and POISON where pieces have been delivered (R228, R284). -/
def packetFail (s : State) (p : Nat) (vcb : Bool) (h : BitVec 512) (units : Nat) (early : List (Nat × Nat × Nat × Nat)) : State :=
  let s1 := returnUnits (raise s { portEvent .chunkCrc p with cseq := BitVec.ofNat 32 (hLpsn h).toNat }) p vcb units
  let s2 := if ((s1.lport p).cls vcb).nakWait && !hRply h then s1 else sendNak s1 p vcb
  match findTag s (hTag h) with
  | some g => if vcb && !early.isEmpty && packetWanted s g h then poisonRaise s2 g (hCid h) (hCseq h) early else s2
  | none => s2

/-- The verdict on the packet that has landed (R229). -/
def verdict (s : State) (p : Nat) (vcb : Bool) (tail : BitVec 512) : State :=
  let c := (s.lport p).cls vcb
  if !(s.lport p).up then s
  else match c.hd with
    | none => modCls s p vcb fun c => { c with ret := c.ret + 1 }
    | some h =>
      let units := itemUnits vcb (.pkt ⟨h, c.buf, tail⟩)
      let s1 := modCls s p vcb fun c => { c with ret := c.ret + 1, hd := none, buf := [], early := [], rxUsed := c.rxUsed + units }
      if !crcOk h tail c.buf then packetFail s1 p vcb h units c.early
      else
        let y := sequence s1 p vcb (hLpsn h) (hRply h)
        if y.1 then packetIn y.2 p vcb h tail c.buf units c.early else returnUnits y.2 p vcb units

/-- PACKET_VERDICT (R229). -/
def execPacketVerdict (p : Nat) (vcb : Bool) (tail : BitVec 512) (s : State) : Host.Outcome State Fault Refusal :=
  answer (.packetVerdict p vcb tail) (verdict s p vcb tail)

/-! ## CTRL flits (R227, R229) -/

/-- A token with hops left goes on in its direction of travel, in the order of arrival of its class and without a group entry (R164, R273): one
that came in on the - port travels the + way. -/
def tokenRelay (s : State) (p : Nat) (f : BitVec 512) : State :=
  if cHops f ≤ 1 then s
  else queueItem s (s.wayPort (fld f 129 2) (p % 2 == 1)) false { item := .ctrl (setFld (setFld f 480 32 0) 64 6 (cHops f - 1)), tid := 64 }

/-- A token of a group of this chip is kept, one from a chip that is not in CHIPS is counted (R194); one of a tag that maps to no group is
counted where it ends, and only relayed on its way (R164). -/
def tokenIn (s : State) (p : Nat) (f : BitVec 512) : State :=
  let s1 := tokenRelay s p f
  match tagCheck s (cTag f) (cSrc f) with
  | some _ => s1.modLport p fun l => { l with inbox := l.inbox ++ [f] }
  | none => if (findTag s (cTag f)).isNone && decide (1 < cHops f) then s1 else raise s1 (xtagEvent s (cTag f) (cSrc f))

/-- A sequenced CTRL flit that is the one expected: relayed, or kept for this chip. A token goes to every chip on its way (R164). -/
def ctrlIn (s : State) (p : Nat) (vcb : Bool) (f : BitVec 512) : State :=
  let keep (t : State) : State := t.modLport p fun l => { l with inbox := l.inbox ++ [f] }
  if cKind f == ckToken then returnUnits (tokenIn s p f) p vcb 1
  else if cDst f != s.self then
    relayItem s p vcb (cDst f) (cHops f) 0 1 fun n => .ctrl (setFld (setFld f 480 32 0) 64 6 n)
  else match tagCheck s (cTag f) (cSrc f) with
    | none => returnUnits (raise s (xtagEvent s (cTag f) (cSrc f))) p vcb 1
    | some _ => returnUnits (keep s) p vcb 1

/-- A CTRL flit lands (R227 to R229). -/
def ctrlReceive (s : State) (p : Nat) (vcb : Bool) (f : BitVec 512) : State :=
  if !(s.lport p).up then s
  else
    let s1 := modCls s p vcb fun c => { c with ret := c.ret + 1 }
    let k := cKind f
    if fld f 480 32 != (ctrlCrc f).toNat then
      let s2 := raise s1 (portEvent .ctrlCrc p)
      if vcb || ((s1.lport p).cls vcb).nakWait then s2 else sendNak s2 p vcb
    else if k == ckAck || k == ckNak || k == ckCredit then s1.modLport p fun l => { l with inbox := l.inbox ++ [f] }
    else if k == 0 || ckAbort < k then s1
    else
      let y := sequence (modCls s1 p vcb fun c => { c with rxUsed := c.rxUsed + 1 }) p vcb (cLpsn f) true
      if y.1 then ctrlIn y.2 p vcb f else returnUnits y.2 p vcb 1

/-- CTRL_FLIT_RECEIVE (R229). -/
def execCtrlFlitReceive (p : Nat) (vcb : Bool) (flit : BitVec 512) (s : State) : Host.Outcome State Fault Refusal :=
  answer (.ctrlFlitReceive p vcb flit) (ctrlReceive s p vcb flit)

/-! ## ACK, NAK, CREDIT, resends (R228, R230) -/

/-- An ACK up to `n` covers an item. -/
def covered (n : BitVec 16) (x : TxItem) : Bool := match x.lpsn with | some k => (n - k).toNat < 32768 | none => false

/-- An acknowledged item: the chunk it carried has one acknowledgement less to wait for, a relayed one frees its receive units. -/
def itemAcked (vcb : Bool) (s : State) (x : TxItem) : State :=
  let s1 := match x.relay with | some r => returnUnits s r.1 vcb r.2 | none => s
  match x.src with
  | none => s1
  | some (n, p, i, j) =>
    let s2 := modStep s1 n p i (decNeed j)
    let s3 := if !needDone s2 n p i j then s2
      else match stepAt s2 n p i with
        | some (_, _, t, _) => if t.kind == kCOUNTX then endCountx s2 n p i else modStep s2 n p i (markWritten j)
        | none => s2
    workSched s3 n

/-- The oldest ACK accepted on a port. -/
def ackIn (s : State) (p : Nat) : State :=
  match takeCtrl s p ckAck with
  | none => s
  | some y =>
    let vcb := bit y.1 128
    let n := cLpsn y.1
    let done := ((y.2.lport p).cls vcb).retain.filter (covered n)
    let s1 := modCls y.2 p vcb fun c => { c with
      retain := c.retain.filter (fun x => !covered n x)
      again := c.again.filter fun k => !done.any fun x => x.lpsn == some k }
    pumpPort (done.foldl (itemAcked vcb) s1) p

/-- ACK (R228). -/
def execAck (p : Nat) (s : State) : Host.Outcome State Fault Refusal := answer (.ack p) (ackIn s p)

/-- LPSNs of the retained items from `n` on. -/
def retainedFrom (c : LinkClassState) (n : BitVec 16) : List (BitVec 16) :=
  c.retain.filterMap fun x => match x.lpsn with | some k => if (k - n).toNat < 32768 then some k else none | none => none

/-- The item `n` and every later retained one are sent again, in order; one that is being sent goes on first. -/
def resendFrom (s : State) (p : Nat) (vcb : Bool) (n : BitVec 16) : State :=
  pumpPort (modCls s p vcb fun c => { c with again := retainedFrom c n }) p

/-- The oldest NAK accepted on a port. -/
def nakIn (s : State) (p : Nat) : State :=
  match takeCtrl s p ckNak with
  | none => s
  | some y => resendFrom y.2 p (bit y.1 128) (cLpsn y.1)

/-- NAK (R228). -/
def execNak (p : Nat) (s : State) : Host.Outcome State Fault Refusal := answer (.nak p) (nakIn s p)

/-- The oldest CREDIT accepted on a port: units returned since the one before (R230). -/
def creditIn (s : State) (p : Nat) : State :=
  match takeCtrl s p ckCredit with
  | none => s
  | some y =>
    let n := BitVec.ofNat 16 (fld y.1 129 16)
    pumpPort (modCls y.2 p (bit y.1 128) fun c => { c with txUsed := c.txUsed - (n - c.txCred).toNat, txCred := n }) p

/-- CREDIT (R230). -/
def execCredit (p : Nat) (s : State) : Host.Outcome State Fault Refusal := answer (.credit p) (creditIn s p)

/-- The oldest item that has gone 10 us after its last flit left without an ACK (R228). -/
def unacked (s : State) (c : LinkClassState) : Option (BitVec 16) :=
  c.retain.findSome? fun x => match x.lpsn with
    | some k => if x.tsent + 10000 ≤ s.tb && c.curN != some k && !c.again.contains k then some k else none
    | none => none

/-- RESEND_TIMEOUT's effect. -/
def resendLate (s : State) (p : Nat) (vcb : Bool) : State :=
  match unacked s ((s.lport p).cls vcb) with | some k => resendFrom s p vcb k | none => s

/-- RESEND_TIMEOUT (R228). -/
def execResendTimeout (p : Nat) (vcb : Bool) (s : State) : Host.Outcome State Fault Refusal :=
  answer (.resendTimeout p vcb) (resendLate s p vcb)

/-- CREDIT_OWED_PERIOD (R230): while receive units are in use, a CREDIT goes every 10 us of tb_count. -/
def execCreditOwedPeriod (p : Nat) (vcb : Bool) (s : State) : Host.Outcome State Fault Refusal :=
  answer (.creditOwedPeriod p vcb)
    (if 0 < ((s.lport p).cls vcb).rxUsed && ((s.lport p).cls vcb).credAt + 10000 ≤ s.tb then sendCredit s p vcb else s)

/-! ## Stalls (R209, R230) -/

/-- The oldest packet of a class that has waited its group's STALL for a free unit. -/
def stuckPacket (s : State) (c : LinkClassState) : Option (Nat × Packet) :=
  c.parked.findSome? fun e => match findTag s (hTag e.1.head) with
    | some g => if e.2.1 + (s.group g).stall * 1024 ≤ s.tb then some (g, e.1) else none
    | none => none

/-- F_STALL of a link port; a group that reports counts its next period from now. -/
def stallPort (s : State) (p : Nat) (vcb : Bool) : State :=
  if s.boot.brake then s
  else match stuckPacket s ((s.lport p).cls vcb) with
    | some (g, k) =>
      raise (modCls s p vcb fun c => { c with parked := c.parked.map fun e => if e.1 == k then (e.1, s.tb, e.2.2) else e })
        (stallEvent s 8 p 0 0 g (hCid k.head) (hCseq k.head))
    | none => s

/-- STALL_TIMEOUT (R54, R209, R230). -/
def execStallTimeout (site : StallSite) (s : State) : Host.Outcome State Fault Refusal :=
  answer (.stallTimeout site) (match site with
    | .child n ch ctx slot => stallChild s n ch ctx slot
    | .port p vcb => stallPort s p vcb)

end Sys2Proof.Machine
end

