-- ==== Sys2Proof/Machine/GafferCheck.lean ====
section
/-! DEFINITION. The command catalogue (Table 12-4), the common checks (R329, R332, R333, R338) and the choice of the next command (R330). -/
namespace Sys2Proof.Machine

/-! ## The catalogue -/

/-- A row of Table 12-4: opcode; level 0 any, 1 B, 2 E, 3 A, 4 S, 5 B or A, 6 E or A; TX 0 no, 1 yes, 2 only, 3 a transaction
command; payload fields as (low bit, width). -/
structure CmdRow where
  op : Nat
  level : Nat
  tx : Nat
  fields : List (Nat × Nat)
  deriving DecidableEq, Repr

/-- Queries, transactions, groups and collectives. -/
def rowsGroup : List CmdRow :=
  [⟨0x0001, 0, 0, []⟩, ⟨0x0010, 5, 3, []⟩, ⟨0x0011, 5, 3, []⟩, ⟨0x0012, 5, 3, []⟩,
   ⟨0x0101, 1, 0, [(0, 12), (15, 1), (64, 48), (128, 3), (136, 8), (160, 20), (192, 20)]⟩,
   ⟨0x0102, 1, 1, [(0, 12), (15, 1), (64, 48), (128, 3), (136, 8), (160, 20), (192, 20)]⟩,
   ⟨0x0103, 1, 0, [(0, 12), (16, 16)]⟩, ⟨0x0104, 1, 0, [(0, 12)]⟩, ⟨0x0105, 1, 0, [(0, 12)]⟩, ⟨0x0106, 1, 0, [(0, 12)]⟩,
   ⟨0x0107, 1, 0, [(0, 12), (16, 8)]⟩, ⟨0x0201, 1, 0, [(0, 190), (191, 16), (208, 4), (256, 48), (320, 48), (384, 48), (448, 48), (512, 48), (576, 128), (704, 128)]⟩]

/-- Objects, the Cane, host slots, tasks and schedules. -/
def rowsItem : List CmdRow :=
  [⟨0x0301, 1, 0, [(0, 16), (16, 2), (24, 8), (32, 32), (64, 16), (80, 12), (95, 1)]⟩, ⟨0x0302, 1, 0, [(0, 15)]⟩, ⟨0x0303, 1, 0, [(0, 15)]⟩,
   ⟨0x0310, 1, 0, [(0, 8), (16, 12), (32, 2)]⟩, ⟨0x0311, 1, 0, [(0, 8)]⟩, ⟨0x0320, 1, 0, [(0, 16), (16, 15), (32, 16), (48, 1)]⟩,
   ⟨0x0321, 1, 0, [(0, 16)]⟩, ⟨0x0401, 1, 0, [(0, 16), (64, 48)]⟩, ⟨0x0402, 1, 0, [(0, 16)]⟩, ⟨0x0403, 1, 0, [(0, 16)]⟩,
   ⟨0x0404, 1, 0, [(0, 16)]⟩, ⟨0x0405, 1, 0, [(0, 16)]⟩, ⟨0x0501, 2, 0, [(0, 9), (15, 1), (64, 48)]⟩, ⟨0x0502, 1, 0, [(0, 9)]⟩]

/-- Settings, resets, repairs, faults, firmware and protection. -/
def rowsAdmin : List CmdRow :=
  [⟨0x0503, 2, 1, [(0, 12), (16, 4), (23, 1), (24, 4), (31, 1)]⟩, ⟨0x0504, 6, 1, [(0, 16)]⟩, ⟨0x0505, 2, 1, [(0, 8)]⟩,
   ⟨0x0506, 2, 1, [(0, 12), (16, 8)]⟩, ⟨0x0507, 2, 1, [(0, 12), (16, 1)]⟩, ⟨0x0601, 3, 1, [(0, 48), (64, 96)]⟩,
   ⟨0x0602, 3, 1, [(0, 40)]⟩, ⟨0x0603, 3, 2, [(0, 16)]⟩, ⟨0x0604, 3, 1, [(0, 32)]⟩, ⟨0x0605, 3, 1, [(0, 8)]⟩, ⟨0x0606, 3, 0, [(0, 8)]⟩,
   ⟨0x0607, 3, 0, []⟩, ⟨0x0608, 3, 0, [(0, 48)]⟩, ⟨0x0609, 3, 0, [(0, 32)]⟩, ⟨0x060A, 3, 0, [(0, 8), (16, 16)]⟩,
   ⟨0x060B, 3, 0, [(0, 1), (64, 48), (128, 32)]⟩, ⟨0x060C, 3, 0, [(0, 8)]⟩, ⟨0x060D, 3, 0, [(0, 48), (64, 64)]⟩,
   ⟨0x0701, 3, 0, [(0, 48), (64, 32), (128, 256)]⟩, ⟨0x0702, 4, 0, [(0, 32), (128, 256)]⟩, ⟨0x0703, 0, 0, []⟩]

/-- The row of an opcode. -/
def cmdRow (op : Nat) : Option CmdRow := (rowsGroup ++ rowsItem ++ rowsAdmin).find? fun r => r.op == op

/-! ## Step 4: LEN, reserved fields, ranges -/

/-- Range checks on the payload of a command, with the byte offset of each field. -/
def rangeChecks (op : Nat) (p : BitVec 1920) : List (Nat × Bool) :=
  let within (o n lo hi : Nat) : Nat × Bool := (o, lo ≤ pby p o n && pby p o n ≤ hi)
  match op with
  | 0x0101 => [within 17 1 0 8, within 20 4 1 0xFFFFF, within 24 4 1 0xFFFFF]
  | 0x0102 => [(0, !bit p 15), within 17 1 0 8, within 20 4 1 0xFFFFF, within 24 4 1 0xFFFFF]
  | 0x0107 => [within 2 1 0 7]
  | 0x0301 => [(2, bit p 15 || !bit p 17), within 3 1 0 (if bit p 15 && bit p 17 then 63 else 0)]
  | 0x0310 => [within 0 1 0 63]
  | 0x0311 => [within 0 1 0 63]
  | 0x0320 => [within 0 2 0 4095]
  | 0x0321 => [within 0 2 0 4095]
  | 0x0501 => [(0, bit p 15 || fld p 0 9 < 480)]
  | 0x0503 => [(2, !bit p 23 || fld p 16 4 < 14), (3, !bit p 31 || 14 ≤ fld p 24 4)]
  | 0x0504 => [within 0 1 0 15, within 1 1 1 8]
  | 0x0505 => [within 0 1 1 16]
  | 0x0506 => [within 2 1 0 5]
  | 0x0601 => [(0, pby p 0 1 < pby p 3 1), (1, pby p 1 1 < pby p 4 1), (2, pby p 2 1 < pby p 5 1), (3, [2, 4, 6, 8].contains (pby p 3 1)),
               within 4 1 1 8, within 5 1 1 64]
  | 0x0602 => [within 0 1 0 5, within 1 1 1 100, within 2 2 8 512, within 4 1 1 63]
  | 0x0603 => [within 0 1 0 1, within 1 1 0 1]
  | 0x0604 => [within 0 4 100 1000000]
  | 0x0605 => [within 0 1 40 150]
  | 0x0606 => [within 0 1 0 63]
  | 0x0608 => [(1, pby p 1 1 < 2 || pby p 1 1 == 0xFF)]
  | 0x0609 => [(1, pby p 1 1 < 2 || pby p 1 1 == 0xFF)]
  | 0x060A => [within 0 1 0 1]
  | 0x060C => [within 0 1 0 1]
  | _ => []

/-- Byte offset of the first reserved bit of the payload that is 1. -/
def firstReserved (fs : List (Nat × Nat)) (p : BitVec 1920) : Option Nat :=
  let free := fs.foldl (fun x f => setFld x f.1 f.2 0) p
  (List.range 240).find? fun o => pby free o 1 != 0

/-- Byte offset of the first field refused with ST_RANGE (R329 step 4). -/
def rangeFail (r : CmdRow) (c : BitVec 2048) : Option Nat :=
  if 240 < cmdLen c || fld c 71 25 != 0 || fld c 108 20 != 0 then some 0
  else
    let p := cmdPay c
    let a := ((rangeChecks r.op p).filter fun e => !e.2).map (·.1)
    match firstReserved r.fields p with
    | some o => some (a.foldl min o)
    | none => match a with | [] => none | x :: l => some (l.foldl min x)

/-! ## Step 3: level, ownership, quota -/

/-- The tenant may be acted for: its entry is enabled. -/
def tenantEn (s : State) (t : Nat) : Bool := (s.tenant t).en

/-- The command lies within the caller's level (R332): mailbox, tenant, EXPERT. -/
def levelOk (s : State) (mb level : Nat) (tid : Option Nat) : Bool :=
  let basic := match tid with | some t => tenantEn s t | none => false
  let expert := basic && (mb == 0 || match tid with | some t => (s.tenant t).expert | none => false)
  match level with
  | 0 => true
  | 1 => basic
  | 2 => expert
  | 3 => mb == 0 && (tid.isNone || basic)
  | 4 => mb == 1
  | 5 => basic || (mb == 0 && tid.isNone)
  | _ => expert || (mb == 0 && tid.isNone)

/-- Expert level for the tenant (R190, R332). -/
def isExpert (s : State) (mb t : Nat) : Bool := mb == 0 || (s.tenant t).expert

/-- A group, object or schedule of another tenant. -/
def foreignGroup (s : State) (t g : Nat) : Bool := (s.group g).st != .free && (s.group g).tid != t
def foreignObj (s : State) (t i : Nat) : Bool := (s.obj i).al && (s.obj i).tid != t
def foreignSched (s : State) (t n : Nat) : Bool := match s.sched n with | some x => x.tid != t | none => false

/-- The channel is granted to the tenant. -/
def chanGranted (s : State) (t ch : Nat) : Bool :=
  match tabGet .unassigned s.grp.chGrant ch with
  | .unassigned => false
  | .exclusive u => u == t
  | .shared m => bit m t

/-- The channel is exclusive to the tenant. -/
def chanExclusive (s : State) (t ch : Nat) : Bool := tabGet .unassigned s.grp.chGrant ch == .exclusive t

/-- Present use of the quotas (Table 7-7). -/
def useGrp (s : State) (t : Nat) : Nat := (s.grp.groups.filter fun e => e.2.tid == t && e.2.st != .free).length
def useSo (s : State) (t : Nat) : Nat := (objsWhere s fun o => o.tid == t).length
def useHost (s : State) (t : Nat) : Nat := (s.host.slots.filter fun e => e.2.soid.isSome && e.2.tid == t).length
def useSched (s : State) (t : Nat) : Nat :=
  (s.mrv.scheds.filter fun e => e.1 < 480 && match e.2 with | some x => x.tid == t | none => false).length
def useCane (s : State) (t : Nat) : Nat := (s.grp.caneGrant.filter fun e => e.2 == some t).length

/-- An item that the block has is not granted to the tenant; a number past the last is left to the range checks (R329). -/
def ungranted (count : Nat) (owner : Option Nat) (t i : Nat) : Bool := i < count && owner != some t

/-- The item named belongs to another tenant or is not granted, or a quota is exceeded, or expert level is needed (R189, R190, R203,
R207, R208, R211, R333, R336). -/
def deniedItem (s : State) (mb op t : Nat) (p : BitVec 1920) : Bool :=
  let g := fld p 0 12
  let modes := (bit p 129 || bit p 130) && !isExpert s mb t
  match op with
  | 0x0101 => (!bit p 15 && foreignGroup s t g) || modes || (s.tenant t).qgrp ≤ useGrp s t
  | 0x0102 => foreignGroup s t g || modes
  | 0x0103 => foreignGroup s t g || (bit p 31 && foreignObj s t (fld p 16 15))
  | 0x0104 => foreignGroup s t g
  | 0x0105 => foreignGroup s t g
  | 0x0106 => foreignGroup s t g
  | 0x0107 => foreignGroup s t g
  | 0x0201 => foreignGroup s t (fld p 8 12) || (bit p 23 && (s.tenant t).qsched ≤ useSched s t)
      || (bit p 191 && foreignObj s t (fld p 192 15) && !soGrantOf s (fld p 192 15) t (·.arrive))
      || (bit p 23 && foreignObj s t (fld p 176 14) && !soGrantOf s (fld p 176 14) t fun _ => true)
  | 0x0301 => (!bit p 15 && foreignObj s t (fld p 0 15)) || (bit p 95 && foreignGroup s t (fld p 80 12))
      || (!bit p 16 && (s.tenant t).qso ≤ useSo s t)
  | 0x0302 => foreignObj s t (fld p 0 15)
  | 0x0303 => foreignObj s t (fld p 0 15)
  | 0x0310 => ungranted 64 (caneTid s (fld p 0 8)) t (fld p 0 8) || foreignGroup s t (fld p 16 12)
  | 0x0311 => ungranted 64 (caneTid s (fld p 0 8)) t (fld p 0 8)
  | 0x0320 => ungranted 4096 (tabGet none s.grp.slotGrant (fld p 0 16)) t (fld p 0 16)
      || (foreignObj s t (fld p 16 15) && !soGrantOf s (fld p 16 15) t fun _ => true) || (s.tenant t).qhost ≤ useHost s t
  | 0x0321 => ungranted 4096 (tabGet none s.grp.slotGrant (fld p 0 16)) t (fld p 0 16)
  | 0x0501 => (!bit p 15 && foreignSched s t (fld p 0 9)) || (s.tenant t).qsched ≤ useSched s t
  | 0x0502 => foreignSched s t (fld p 0 9)
  | 0x0503 => foreignGroup s t g || (bit p 23 && !chanGranted s t (fld p 16 4)) || (bit p 31 && !chanGranted s t (fld p 24 4))
  | 0x0504 => fld p 0 8 < 16 && !chanExclusive s t (fld p 0 8)
  | 0x0505 => (s.tenant t).qvcbw < fld p 0 8
  | 0x0506 => foreignGroup s t g
  | 0x0507 => foreignGroup s t g || (bit p 16 && !isExpert s mb t)
  | _ => false

/-- Step 3 of R329 for a command as it acts: level, tenant, ownership and quota. -/
def deniedBy (s : State) (mb op : Nat) (level : Nat) (tid : Option Nat) (p : BitVec 1920) : Bool :=
  !levelOk s mb level tid || match tid with | some t => deniedItem s mb op t p | none => false

/-! ## Step 5: TXID (R338) -/

/-- The open transaction of a mailbox. -/
def openTx (s : State) (mb : Nat) : Option Tx := tabGet none s.gaf.txs mb

/-- TXID against the command, in the order of R338. -/
def txFail (s : State) (mb : Nat) (r : CmdRow) (c : BitVec 2048) : Option St :=
  let x := cmdTxid c
  let named := match openTx s mb with | some t => t.txid == x | none => false
  if x != 0 && (r.tx == 0 || r.op == 0x0010) then some .range
  else if x != 0 && !named then some .notx
  else if x == 0 && (r.tx == 2 || r.op == 0x0011 || r.op == 0x0012) then some .notx
  else none

/-! ## What parked commands are changing (R330) -/

/-- The object that a payload names where a bit of it is 1. -/
def keyOfObj (p : BitVec 1920) (v lo n : Nat) : List Nat := if bit p v then [16384 + fld p lo n] else []

/-- The half or the link port that a UNIT_RETURN or UNIT_ABANDON names. -/
def keyOfUnit (p : BitVec 1920) : List Nat :=
  if pby p 0 1 = 4 then [4182 + pby p 2 2] else if pby p 0 1 = 8 then [4176 + pby p 2 2] else []

/-- Items by number: group g; channel weight 4096 + ch; VCB weight 4112 + tenant; link class 4176 + port; half 4182 + h; T_ESC 4184;
power cap 4185; placement 4186; schedule 8192 + n; sync object 16384 + SOID; tenant 65536 + t. -/
def cmdKeys (op : Nat) (tid : Option Nat) (p : BitVec 1920) : List Nat :=
  let g := fld p 0 12
  match op with
  | 0x0101 => if bit p 15 then [] else [g]
  | 0x0102 => [g] | 0x0103 => g :: keyOfObj p 31 16 15 | 0x0104 => [g] | 0x0105 => [g] | 0x0106 => [g] | 0x0107 => [g]
  | 0x0201 => fld p 8 12 :: (keyOfObj p 23 176 14 ++ keyOfObj p 191 192 15)
  | 0x0301 => (if bit p 95 then [fld p 80 12] else []) ++ if bit p 15 then [] else [16384 + fld p 0 15]
  | 0x0302 => [16384 + fld p 0 15]
  | 0x0303 => [16384 + fld p 0 15]
  | 0x0320 => [16384 + fld p 16 15]
  | 0x0310 => [fld p 16 12]
  | 0x0501 => if bit p 15 then [] else [8192 + fld p 0 9]
  | 0x0502 => [8192 + fld p 0 9]
  | 0x0503 => [g] | 0x0506 => [g] | 0x0507 => [g]
  | 0x0504 => [4096 + fld p 0 8]
  | 0x0505 => [4112 + tid.getD 0]
  | 0x0601 => [4186]
  | 0x0602 => [4176 + fld p 0 8]
  | 0x0603 => [4182 + fld p 0 8]
  | 0x0604 => [4184]
  | 0x0605 => [4185]
  | 0x0606 => [65536 + fld p 0 8]
  | 0x0608 => keyOfUnit p
  | 0x0609 => keyOfUnit p
  | _ => []

/-- Opcode, tenant and payload of a staged command. -/
def stagedOp : Staged → Nat
  | .groupUpdate .. => 0x0102 | .channelPin .. => 0x0503 | .channelWeight .. => 0x0504 | .vcbWeight .. => 0x0505 | .hubPlace .. => 0x0506
  | .deliveryMode .. => 0x0507 | .chipPlace _ => 0x0601 | .linkClass _ => 0x0602 | .halfClock _ => 0x0603 | .escSet _ => 0x0604 | .powerCap _ => 0x0605
def stagedTid : Staged → Option Nat
  | .groupUpdate t _ _ => some t | .channelPin t _ => some t | .channelWeight t _ => t | .vcbWeight t _ => some t | .hubPlace t _ => some t
  | .deliveryMode t _ => some t | _ => none
def stagedPay : Staged → BitVec 1920
  | .groupUpdate _ p _ => p | .channelPin _ p => p | .channelWeight _ p => p | .vcbWeight _ p => p | .hubPlace _ p => p
  | .deliveryMode _ p => p | .chipPlace p => p | .linkClass p => p | .halfClock p => p | .escSet p => p | .powerCap p => p

/-- Items that a staged command changes. -/
def stagedKeys (x : Staged) : List Nat := cmdKeys (stagedOp x) (stagedTid x) (stagedPay x)

/-- A staged command depends on the placement: CHIP_PLACE, and a member list that names another chip (R27). -/
def needsPlace : Staged → Bool
  | .groupUpdate _ _ m => 2 ≤ leAt m 0 2 % 0x2000
  | .chipPlace _ => true
  | _ => false

/-- What belongs to a tenant: itself, its groups, objects and schedules. -/
def tenantKeys (s : State) (i : Nat) : List Nat :=
  (65536 + i) :: ((s.grp.groups.filter fun e => e.2.tid == i && e.2.st != .free).map (·.1) ++ (objsWhere s fun o => o.tid == i).map (16384 + ·)
    ++ (s.mrv.scheds.filter fun e => match e.2 with | some x => x.tid == i | none => false).map fun e => 8192 + e.1)

/-- Items that a parked command is changing. -/
def parkedKeys (s : State) : Parked → List Nat
  | .commit mb => match openTx s mb with
    | some t => (t.staged.flatMap fun e => stagedKeys e.1) ++ if t.staged.any fun e => needsPlace e.1 then [4186] else []
    | none => []
  | .enable _ g => [g]
  | .unload _ n => [8192 + n]
  | .tenantReset _ i => tenantKeys s i
  | _ => []

/-- A parked command is changing an item. -/
def keyHeld (s : State) (k : Nat) : Bool := s.gaf.parked.any fun x => (parkedKeys s x).contains k

/-- A parked command is changing what the command names; the group of a schedule and the chips of a member list, which stand in memory, are
looked at where they are read. -/
def heldByParked (s : State) (op : Nat) (tid : Option Nat) (p : BitVec 1920) : Bool := (cmdKeys op tid p).any (keyHeld s)

/-! ## The gate (R309, R319, R335, R378) and the order of the checks (R329) -/

/-- Commands that change nothing. -/
def readOnlyOp (op : Nat) : Bool := [0x0001, 0x0703, 0x060A, 0x0106, 0x0107, 0x0303].contains op

/-- The status with which the block's level, block stop, the C4 latch or a tenant reset in progress turns a command away. The latch denies
commands after the reset that ends the block stop of its C4 event (R319); until then block stop decides. -/
def gate (s : State) (mb op : Nat) : Option St :=
  let tid := callerTid s mb
  if s.flt.c4 && !s.flt.bstop then (if mb == 0 && op == 0x060A then none else some .denied)
  else if s.flt.bstop then (if mb == 0 && (op == 0x0607 || readOnlyOp op) then none else some .busy)
  else if s.boot.level == .dark then some .busy
  else if s.boot.level == .cane then (if mb == 0 && (op == 0x0001 || op == 0x060A) then none else some .busy)
  else if s.boot.lehrLimp && !([0x0001, 0x0703, 0x060A, 0x0604, 0x0607, 0x060B, 0x060C, 0x060D].contains op) then some .busy
  else match tid with
    | some t => if s.grp.resetT.contains t then some .busy else none
    | none => none

/-- Interface major version that runs: the image's, or the ROM's (R2, R348). -/
def runMajor (s : State) : Nat := if s.gaf.fwRun && !s.gaf.rom then s.gaf.vmaj else 3
def runMinor (s : State) : Nat := if s.gaf.fwRun && !s.gaf.rom then s.gaf.vmin else 0

/-- Only these reach Gaffer from MB1 (Table 12-4). -/
def mb1Ok (op : Nat) : Bool := op == 0x0001 || op == 0x0703 || op == 0x0702

/-- The common checks in their order: the status and DETAIL of the first failure, or none (R329). -/
def commonFail (s : State) (mb : Nat) : Option (St × Nat) :=
  let c := (s.mbox mb).cmd
  let op := cmdOp c
  let tid := callerTid s mb
  match gate s mb op with
  | some st => some (st, 0)
  | none =>
    if op == 0x0001 && runMajor s != 3 then none
    else if cmdVmaj c != 3 || runMajor s != 3 then some (.version, 0)
    else match cmdRow op with
      | none => some (.version, 0)
      | some r =>
        if (mb == 1 && !mb1Ok op) || (mb != 0 && cmdAtv c) || deniedBy s mb op r.level tid (cmdPay c) then some (.denied, 0)
        else match rangeFail r c with
          | some o => some (.range, o)
          | none => match txFail s mb r c with
            | some st => some (st, 0)
            | none => if heldByParked s op tid (cmdPay c) then some (.busy, 0) else none

/-! ## The next serve (R330) -/

/-- FULL mailboxes whose command is not parked. -/
def waitsServe (s : State) (mb : Nat) : Bool := (s.mbox mb).full && !s.gaf.parked.any fun x => parkedMb x == mb

/-- The next mailbox: MB1, MB0, then the tenants round-robin after the one last served. -/
def nextMb (s : State) : Option Nat :=
  if waitsServe s 1 then some 1
  else if waitsServe s 0 then some 0
  else ((List.range 64).map fun i => 2 + (s.gaf.lastT - 2 + 1 + i) % 64).find? (waitsServe s)

/-- Transactions whose second has passed are discarded before a serve (R341). -/
def expireTxs (s : State) : State :=
  s.gaf.txs.foldl (fun t e => match e.2 with
    | some x => if x.committing.isNone && decide (x.deadline ≤ s.tb) then closeTx t e.1 else t
    | none => t) s

/-- A serve begins: the command of the next mailbox is checked, answered at the first failure, else served by its own command. -/
def serveNext (s : State) : State :=
  if s.gaf.serving.isSome || s.gaf.restart || s.boot.rst.isSome then s
  else match nextMb s with
    | none => s
    | some mb =>
      let s0 := expireTxs s
      let s1 : State := if 2 ≤ mb then { s0 with gaf := { s0.gaf with lastT := mb } } else s0
      match commonFail s1 mb with
      | some e => respond s1 mb e.1 e.2 []
      | none => { s1 with gaf := { s1.gaf with serving := some mb } }

/-- MB_SERVE_SELECT (R329, R330). -/
def execMbServeSelect (s : State) : Host.Outcome State Fault Refusal := answer .mbServeSelect (serveNext s)

/-! ## IF_QUERY (R334, R348) -/

/-- Answer of IF_QUERY. -/
def ifAnswer (s : State) (mb : Nat) : List Byte :=
  let tid := callerTid s mb
  let sel := match anchorOf s with | some a => b2n a.sel | none => 0
  let t := match tid with | some t => t | none => 0xFF
  let ex := match tid with | some t => (s.tenant t).expert | none => false
  leBytes 1 (runMinor s) ++ leBytes 1 (runMajor s) ++ leBytes 4 s.gaf.build.toNat ++ leBytes 1 (b2n (runsB s)) ++ leBytes 1 sel ++
    leBytes 1 s.boot.level.code ++ leBytes 1 t ++ leBytes 1 (b2n ex)

/-- IF_QUERY (R334). -/
def execIfQuery (s : State) : Host.Outcome State Fault Refusal :=
  answer .ifQuery (serveOp s 0x0001 fun t mb _ => respond t mb .ok 0 (ifAnswer t mb))

end Sys2Proof.Machine
end

