-- ==== Sys2Proof/Machine/GroupCmds.lean ====
section
/-! DEFINITION. Group commands and the group's lifecycle (R189 to R201, R206, R290). -/
namespace Sys2Proof.Machine

/-! ## Change counts (R339) -/

/-- A change count moves; items are numbered as `cmdKeys` numbers them. -/
def bumpKey (s : State) (k : Nat) : State := { s with gaf := { s.gaf with chg := tabMod 0 s.gaf.chg k (· + 1) } }

/-! ## Member lists (R191 to R194, Table 7-2) -/

def mlN (m : List Byte) : Nat := leAt m 0 2 % 0x2000
def mlHost (m : List Byte) : Bool := leAt m 0 2 / 0x2000 % 2 == 1
def mlTag (m : List Byte) : BitVec 32 := BitVec.ofNat 32 (leAt m 4 4)
def mlCores (m : List Byte) : BitVec 5120 := BitVec.ofNat 5120 (leAt m 32 640)
def mlChips (m : List Byte) : List Nat := (List.range (mlN m)).map fun i => leAt m (672 + 2 * i) 2

/-- Every reserved field of a list is 0. -/
def mlReservedOk (m : List Byte) : Bool :=
  leAt m 0 2 / 0x4000 == 0 && leAt m 2 2 == 0 && leAt m 8 24 == 0 && (mlChips m).all (· < 4096)

/-- CRC-32C of the list header, HOSTM read as 0, and CHIPS (R201). -/
def mlCrc (m : List Byte) : BitVec 32 :=
  crc32c (leBytes 2 (mlN m) ++ slice m 2 30 ++ slice m 672 (2 * mlN m))

/-- The tenant's chip box holds a chip (Table 7-7). -/
def inBox (t : Tenant) (n : Nat) : Bool :=
  [0, 1, 2].all fun a => t.box.getD (2 * a) 0 ≤ coord n a && coord n a ≤ t.box.getD (2 * a + 1) 0

/-- The cores of a mask lie in cells of the tenant's cell mask (R192, R336). -/
def inCells (t : Tenant) (cores : BitVec 5120) : Bool :=
  (List.range 1280).all fun c => bit t.cells c || fld cores (4 * c) 4 == 0

/-- Some core of a mask is absent (R24). -/
def namesAbsent (s : State) (cores : BitVec 5120) : Bool := (cores &&& s.boot.absent) != 0

/-- The list is refused with ST_RANGE (R192). Until the chip is placed, another chip is judged by ST_BUSY instead (R26). -/
def listRange (s : State) (t : Tenant) (m : List Byte) : Bool :=
  let cs := mlChips m
  mlN m == 0 || 4096 < mlN m || !mlReservedOk m || (cs.filter (· == s.self)).length != 1 || cs.eraseDups.length != cs.length
  || cs.any (fun c => (s.boot.placed && !s.chipOk c) || !inBox t c)
  || namesAbsent s (mlCores m) || !inCells t (mlCores m)
  || (if mlN m == 1 then mlTag m != 0 || (mlCores m == 0 && !mlHost m) else mlTag m == 0)

/-- Another group of the chip that is not FREE holds the same non-zero TAG (R194). -/
def tagTaken (s : State) (g : Nat) (tag : BitVec 32) : Bool :=
  tag != 0 && s.grp.groups.any fun e => e.1 != g && e.2.st != .free && e.2.gtag == tag

/-- REPORT is accepted: a pinned class's channel is exclusive to the tenant, and every channel that R206 may assign to a class without a
pin is (R209; DEDUCED, log entry 29). -/
def reportOk (s : State) (t : Nat) (pinN pinW : Option Nat) : Bool :=
  let cls (lo n : Nat) : Option Nat → Bool
    | some c => chanExclusive s t c
    | none => (List.range n).all fun i => !chanGranted s t (lo + i) || chanExclusive s t (lo + i)
  cls 0 14 pinN && cls 14 2 pinW

/-- Pinned channels of a group. -/
def pinN (e : Group) : Option Nat := if e.pinn then e.chn else none
def pinW (e : Group) : Option Nat := if e.pinw then e.chw else none

/-- The first status that a list and settings meet: R192, R26, R194, R209; a list that names another chip names the placement, which a parked
command may be changing (R27, R330). -/
def listFail (s : State) (tid g : Nat) (p : BitVec 1920) (m : List Byte) : Option St :=
  if listRange s (s.tenant tid) m then some .range
  else if 2 ≤ mlN m && (!s.boot.placed || keyHeld s 4186) then some .busy
  else if tagTaken s g (mlTag m) then some .conflict
  else if bit p 129 && !reportOk s tid (pinN (s.group g)) (pinW (s.group g)) then some .conflict
  else none

/-- The entry with the list and settings of the payload (R190, R191); the next enable compiles. -/
def withList (e : Group) (p : BitVec 1920) (m : List Byte) : Group :=
  { e with
    gtag := mlTag m, cores := mlCores m, hostm := mlHost m, chips := mlChips m, listCrc := mlCrc m, compiled := false
    ntrap := bit p 128, report := bit p 129, dmode := bit p 130, clog := pby p 17 1, wdef := fld p 160 20, stall := fld p 192 20 }

/-- Lowest FREE group. -/
def freeGroup (s : State) : Option Nat := lowest 4096 fun g => (s.group g).st == .free

/-- Create the group named, or the lowest FREE one. -/
def groupCreate (m : List Byte) (s : State) (mb : Nat) (p : BitVec 1920) : State :=
  let tid := (callerTid s mb).getD 0
  match if bit p 15 then freeGroup s else some (fld p 0 12) with
  | none => reply s mb .busy
  | some g =>
    if (s.group g).st != .free then reply s mb .conflict
    else match listFail s tid g p m with
      | some st => replyAt s mb st 8
      | none =>
        let t := s.modGroup g fun _ => withList { st := .disabled, tid := tid } p m
        respond (bumpKey t g) mb .ok 0 (leBytes 2 g)

/-- GROUP_CREATE, with the bytes of the member list that Gaffer reads (R189 to R194). -/
def execGroupCreate (mem : List Byte) (s : State) : Host.Outcome State Fault Refusal :=
  answer (.groupCreate mem) (serveOp s 0x0101 (groupCreate mem))

/-! ## Compiling the masks (R195, Table 7-3) -/

/-- Present member cores. -/
def presentOf (s : State) (e : Group) : BitVec 5120 := e.cores &&& ~~~s.boot.absent

/-- Mask of a node whose child `i` covers `w` cores from core `base + i·w` on. -/
def maskFrom (cores : BitVec 5120) (base w n : Nat) : Nat :=
  ((List.range n).map fun i => if fld cores (base + i * w) w != 0 then 2 ^ i else 0).foldl (· + ·) 0

/-- Mask of a node. -/
def maskFor (cores : BitVec 5120) : NodeId → Nat
  | .cell c => maskFrom cores (4 * c) 1 4
  | .block b => maskFrom cores (80 * b) 4 20
  | .region r => maskFrom cores (640 * r) 80 8
  | .half h => maskFrom cores (2560 * h) 640 4
  | .spine => maskFrom cores 0 2560 2

/-- Nodes with members below them, in order of their numbers, and the spine root. -/
def maskNodes (cores : BitVec 5120) : List NodeId :=
  ((List.range 1280).map NodeId.cell ++ (List.range 64).map NodeId.block ++ (List.range 8).map NodeId.region
    ++ (List.range 2).map NodeId.half).filter (fun n => fld cores (coreSpan n).1 (coreSpan n).2 != 0) ++ [.spine]

/-- Write the masks of a group into every node; a node without a member holds an empty mask. Marver takes part where the group spans chips or
a resident schedule names it (R195). -/
def writeMasks (s : State) (g : Nat) : State :=
  let e := s.group g
  let cores := presentOf s e
  let t : State := { s with fab := { s.fab with masks := s.fab.masks.filter fun x => x.1 % 4096 != g } }
  (maskNodes cores).foldl (fun t n => t.setMask n g (some
    { mask := maskFor cores n, epoch := e.epoch, host := n == .spine && e.hostm, marver := n == .spine && (isXchip e || hasSched s g) })) t

/-- The lowest apex of R51. -/
def lowestApex (s : State) (e : Group) : Nat :=
  let cores := presentOf s e
  let within (w n : Nat) : Bool := ((List.range n).filter fun i => fld cores (w * i) w != 0).length == 1
  if isXchip e then 5
  else if within 4 1280 then 1
  else if within 80 64 then 2
  else if within 640 8 then 3
  else if within 2560 2 then 4
  else 5

/-! ## Enable (R200, R206) -/

/-- ENABLED groups that use a channel. -/
def chanUse (s : State) (ch : Nat) : Nat :=
  (s.grp.groups.filter fun e => e.2.st == .enabled && (e.2.chn == some ch || e.2.chw == some ch)).length

/-- The granted channel of a class that the fewest ENABLED groups use, the lowest on a tie. -/
def pickChan (s : State) (t lo n : Nat) : Option Nat :=
  let cs := ((List.range n).map (lo + ·)).filter (chanGranted s t)
  let u := (cs.map (chanUse s)).foldl min 4096
  cs.find? fun c => chanUse s c == u

/-- The channel of a class at an enable: its pin, while the channel is still granted, else R206 (log entry 30). -/
def assignChan (s : State) (t lo n : Nat) (pin : Option Nat) (cores : Bool) : Option Nat :=
  match pin with
  | some c => if chanGranted s t c then some c else if cores then pickChan s t lo n else none
  | none => if cores then pickChan s t lo n else none

/-- The group's Cane channels hold the masks and apex of R155; a channel spans chips only for a product set of chips (R163). -/
def compileCane (s : State) (g : Nat) : State :=
  let e := s.group g
  let ks := (memberCores e).filter s.present
  (caneOf s g).foldl (fun t cn => t.modCchan cn fun c =>
    { c with members := ks, xchip := isXchip e && isProduct e.chips, apex := if c.hostm then 5 else lowestApex s e }) s

/-- Whatever the group's state now admits goes on: postings to the cells, passes to their reservations, steps. -/
def resumeGroup (s : State) (g : Nat) : State := admitAll (workGroup (postHeld s g) g)

/-- The group becomes ENABLED: channels and apex assigned, records cleared (R128, R290), the notify object signalled (R200), its
handshake sent (R201). -/
def enableNow (s : State) (g : Nat) : State :=
  let e := s.group g
  let cores := e.cores != 0
  let s1 := s.modGroup g fun y => { y with
    st := .enabled, enq := false, notify := none, compiled := true, compiling := false, trap := none, plog := [], peerSince := s.tb
    chn := assignChan s e.tid 0 14 (pinN e) cores, chw := assignChan s e.tid 14 2 (pinW e) cores
    apex := if hasSched s g then 5 else max (lowestApex s e) e.apexSet }
  let s2 := gafferSignal (compileCane s1 g) e.tid e.notify
  resumeGroup (peersTry (sendHandshake s2 g) g) g

/-- The notify object of a GROUP_ENABLE payload. -/
def notifyOf (p : BitVec 1920) (o : Nat) : Option Nat := if bit p (o + 15) then some (fld p o 15) else none

/-- GROUP_ENABLE by the state of the group (Table 7-5); recompilation parks (R330). -/
def groupEnable (s : State) (mb : Nat) (p : BitVec 1920) : State :=
  let g := fld p 0 12
  let e := s.group g
  let noted := s.modGroup g fun y => { y with notify := notifyOf p 16 }
  match e.st with
  | .free => reply s mb .range
  | .disabled =>
    if e.compiled then reply (enableNow (bumpKey noted g) g) mb .ok
    else park (noted.modGroup g fun y => { y with compiling := true }) (.enable mb g)
  | .enabled => reply s mb .ok
  | .draining => if e.enq then reply s mb .draining else reply (bumpKey (noted.modGroup g fun y => { y with enq := true }) g) mb .draining
  | .aborted => reply s mb .busy

/-- GROUP_ENABLE (R196, R200). -/
def execGroupEnable (s : State) : Host.Outcome State Fault Refusal := answer .groupEnable (serveOp s 0x0103 groupEnable)

/-- The masks that Gaffer compiles for a parked enable are in every node: the group becomes ENABLED. -/
def compileDone (s : State) (g : Nat) : State :=
  if (s.group g).compiling && (s.group g).st == .disabled && !s.stopped && !s.gaf.restart then
    answerParked (enableNow (bumpKey (writeMasks s g) g) g) (fun x => match x with | .enable _ i => i == g | _ => false) .ok
  else s

/-- MASK_COMPILE_DONE (R195, R200). -/
def execMaskCompileDone (gid : Nat) (s : State) : Host.Outcome State Fault Refusal := answer (.maskCompileDone gid) (compileDone s gid)

/-! ## Disable, drain, destroy (R196 to R199) -/

/-- Passes that have not started leave, and the schedule's next pass is again theirs (R197). -/
def dropUnstarted (s : State) (n : Nat) : State :=
  match s.sched n with
  | some x =>
    x.passes.foldl (fun t q =>
      if q.steps.all (fun r => !r.started) && (collOf (t.group x.hdr.gid) q.cid).isNone then
        (dropPass t n q.p).modSched n fun y => { y with nextPass := min y.nextPass q.p }
      else t) s
  | none => s

/-- The drain begins. -/
def drainBegin (s : State) (g : Nat) : State :=
  let s1 := endWaiting (s.modGroup g fun y => { y with st := .draining, enq := false, since := s.tb }) g
  admitAll ((schedsOf s1 g).foldl dropUnstarted s1)

/-- GROUP_DISABLE by the state of the group (Table 7-5). -/
def groupDisable (s : State) (mb : Nat) (p : BitVec 1920) : State :=
  let g := fld p 0 12
  match (s.group g).st with
  | .free => reply s mb .range
  | .disabled => reply s mb .ok
  | .enabled => reply (drainBegin (bumpKey s g) g) mb .ok
  | .draining =>
    if (s.group g).enq then reply ((bumpKey s g).modGroup g fun y => { y with enq := false, notify := none }) mb .ok
    else reply s mb .ok
  | .aborted => reply s mb .ok

/-- GROUP_DISABLE (R198). -/
def execGroupDisable (s : State) : Host.Outcome State Fault Refusal := answer .groupDisable (serveOp s 0x0104 groupDisable)

/-- A core port holds a transfer, open pull or scalar of the group. -/
def portHolds (s : State) (g : Nat) : Bool :=
  let hit (o : Option Xfer) : Bool := match o with | some x => x.gid == g | none => false
  s.ports.any fun e =>
    hit e.2.push.run || hit e.2.push.que || hit e.2.pull.run || hit e.2.pull.que || e.2.pull.opened.any (fun x => x.gid == g)
    || match e.2.scal with | some x => x.gid == g | none => false

/-- A schedule of the group has a pass. -/
def passesLeft (s : State) (g : Nat) : Bool :=
  (schedsOf s g).any fun n => match s.sched n with | some x => !x.passes.isEmpty | none => false

/-- A checked packet of the group waits on a link port. -/
def packetsLeft (s : State) (g : Nat) : Bool :=
  s.lps.any fun e => [e.2.vcu, e.2.vcb].any fun c => c.parked.any fun k => findTag s (hTag k.1.head) == some g

/-- Every collective has ended, and no node, port or staging area holds a chunk of the group (R198). -/
def drained (s : State) (g : Nat) : Bool :=
  (s.group g).colls.isEmpty && (s.group g).pwork.isNone && !passesLeft s g && !portHolds s g && !dieHolds s g && !landing s g
  && !packetsLeft s g && !memWaits s g

/-- Counts that the started passes have not consumed are cleared (R197). -/
def clearPend (s : State) (g : Nat) : State :=
  (schedsOf s g).foldl (fun t n => t.modSched n fun x => { x with pend := x.pend.map fun _ => 0 }) s

/-- A drain ends: the epoch increments, waiters wake, and the held enable takes effect in the same step (R199). -/
def drainEnd (s : State) (g : Nat) : State :=
  if (s.group g).st != .draining || s.stopped || !drained s g then s
  else
    let enq := (s.group g).enq
    let s1 := epochWake (epochStep (clearPend s g) g) g
    if enq then enableNow s1 g else s1.modGroup g fun y => { y with st := .disabled }

/-- DRAIN_END (R198, R199). -/
def execDrainEnd (gid : Nat) (s : State) : Host.Outcome State Fault Refusal := answer (.drainEnd gid) (drainEnd s gid)

/-- A drain that has not ended 8 stall periods after the disable raises F_DRAIN_STUCK, whose reaction aborts the group (R198). -/
def drainStuck (s : State) (g : Nat) : State :=
  let e := s.group g
  if e.st == .draining && !s.stopped && decide (e.since + 8 * e.stall * 1024 ≤ s.tb) then
    raise (s.modGroup g fun y => { y with since := s.tb }) ((mkEv .drainStuck 10 0).onGroup s g)
  else s

/-- DRAIN_STUCK (R198). -/
def execDrainStuck (gid : Nat) (s : State) : Host.Outcome State Fault Refusal := answer (.drainStuck gid) (drainStuck s gid)

/-- Sync objects and Cane channels bound to the group. -/
def nbound (s : State) (g : Nat) : Nat := (objsWhere s fun o => o.gid == some g).length + (caneOf s g).length

/-- GROUP_DESTROY by the state of the group (Table 7-5). -/
def groupDestroy (s : State) (mb : Nat) (p : BitVec 1920) : State :=
  let g := fld p 0 12
  match (s.group g).st with
  | .free => reply s mb .range
  | .disabled =>
    if nbound s g == 0 && (schedsOf s g).isEmpty then
      let t := (bumpKey s g).modGroup g fun _ => {}
      reply { t with fab := { t.fab with masks := t.fab.masks.filter fun x => x.1 % 4096 != g } } mb .ok
    else reply s mb .conflict
  | .enabled => reply s mb .conflict
  | .draining => reply s mb .busy
  | .aborted => reply s mb .busy

/-- GROUP_DESTROY (R196). -/
def execGroupDestroy (s : State) : Host.Outcome State Fault Refusal := answer .groupDestroy (serveOp s 0x0105 groupDestroy)

/-! ## Queries (R189, R128, R290) -/

/-- The record of Table 7-1. -/
def groupRecord (s : State) (g : Nat) : BitVec 256 :=
  let e := s.group g
  pack 256
    [(0, 12, g), (12, 3, e.st.code), (15, 1, b2n e.enq), (16, 6, e.tid), (24, 16, e.epoch.toNat), (40, 32, e.gtag.toNat),
     (72, 13, ncore e), (85, 1, b2n e.hostm), (86, 1, b2n (isXchip e)), (87, 1, b2n e.peers), (88, 13, e.chips.length),
     (101, 12, lidx s e), (113, 3, e.apex), (116, 4, e.chn.getD 0), (120, 1, b2n e.chn.isSome), (121, 4, e.chw.getD 0),
     (125, 1, b2n e.chw.isSome), (126, 1, b2n e.dmode), (127, 1, b2n e.ntrap), (128, 20, e.wdef), (148, 20, e.stall),
     (168, 1, b2n e.report), (169, 1, b2n (e.pinn || e.pinw)), (170, 4, e.clog), (174, 1, b2n e.pinn), (175, 1, b2n e.pinw),
     (176, 16, min 0xFFFF (nbound s g))]

/-- GROUP_QUERY (R189). -/
def execGroupQuery (s : State) : Host.Outcome State Fault Refusal :=
  answer .groupQuery (serveOp s 0x0106 fun t mb p => respond t mb .ok 0 (leBytes 32 (groupRecord t (fld p 0 12)).toNat))

/-- The NaN trap record (Table 4-11), zero if none. -/
def trapRecord (s : State) (g : Nat) : BitVec 128 :=
  match (s.group g).trap with
  | some t => pack 128
      [(0, 12, g), (16, 32, t.cid.toNat), (48, 32, t.cseq.toNat), (80, 21, t.npos), (101, 7, t.step), (108, 1, b2n t.sv), (112, 16, t.epoch.toNat)]
  | none => 0

/-- A poison log entry (Table 10-4). -/
def poisonEntry (g : Nat) (r : PoisonRec) : BitVec 256 :=
  pack 256
    [(0, 12, g), (16, 32, r.cid.toNat), (48, 32, r.pcseq.toNat), (80, 32, r.first.toNat), (112, 16, r.nchk), (128, 16, r.oepoch.toNat),
     (144, 1, b2n r.det), (145, 1, b2n r.mem), (146, 1, b2n r.cores), (192, 64, r.tb)]

/-- Answer of GROUP_LOGS. -/
def groupLogs (s : State) (g n : Nat) : List Byte :=
  leBytes 16 (trapRecord s g).toNat ++ (((s.group g).plog.drop n).take 7).flatMap fun r => leBytes 32 (poisonEntry g r).toNat

/-- GROUP_LOGS (R128, R290). -/
def execGroupLogs (s : State) : Host.Outcome State Fault Refusal :=
  answer .groupLogs (serveOp s 0x0107 fun t mb p => respond t mb .ok 0 (groupLogs t (fld p 0 12) (pby p 2 1)))

/-! ## The peer handshake (R201) -/

/-- The oldest handshake accepted on a port is kept with its group, unless its epoch is older, and judged. -/
def handshakeIn (s : State) (p : Nat) : State :=
  match takeCtrl s p ckHandshake with
  | none => s
  | some x =>
    match findTag s (cTag x.1) with
    | none => x.2
    | some g =>
      let f := x.1
      let h : Handshake := { chip := cSrc f, epoch := BitVec.ofNat 16 (fld f 128 16), crc := BitVec.ofNat 32 (fld f 144 32), clog := fld f 176 4 }
      if 0x8000 ≤ (h.epoch - (s.group g).epoch).toNat then x.2
      else
        let t := x.2.modGroup g fun e => { e with hs := e.hs.filter (fun y => y.chip != h.chip || y.epoch != h.epoch) ++ [h] }
        resumeGroup (peersTry t g) g

/-- HANDSHAKE (R201): the oldest handshake flit accepted on the port for this chip. -/
def execHandshake (p : Nat) (s : State) : Host.Outcome State Fault Refusal := answer (.handshake p) (if s.stopped then s else handshakeIn s p)

/-- A stall period has passed with PEERS at 0: F_PEER_WAIT names the lowest missing chip (R201). -/
def peerWait (s : State) (g : Nat) : State :=
  let e := s.group g
  if (e.st == .enabled || e.st == .draining) && isXchip e && !e.peers && !s.stopped && decide (e.peerSince + e.stall * 1024 ≤ s.tb) then
    let cs := missingChips s g
    let c := cs.foldl min (cs.headD 0)
    raise (s.modGroup g fun y => { y with peerSince := s.tb }) { (mkEv .peerWait 14 c).onGroup s g with detail := BitVec.ofNat 16 c }
  else s

/-- PEER_WAIT (R201). -/
def execPeerWait (gid : Nat) (s : State) : Host.Outcome State Fault Refusal := answer (.peerWait gid) (peerWait s gid)

end Sys2Proof.Machine
end

