-- ==== Sys2Proof/Machine/CollCmds.lean ====
section
/-! DEFINITION. COLL_POST (R242 to R253, R261): the checks of a posting and what it starts. -/
namespace Sys2Proof.Machine

/-! ## Checks (R105, R118, R205, R206, R243, R246, R250) -/

/-- A collective that combines under OP. -/
def hasOp (d : Desc) : Bool := dColl d == cREDUCE || dColl d == cALLREDUCE || dColl d == cREDSCAT

/-- The collective has a root. -/
def hasRoot (d : Desc) : Bool := dColl d == cBCAST || dColl d == cREDUCE

/-- A collective of memory buffers alone (Table 9-2). -/
def memOnly (d : Desc) : Bool := dColl d == cALLTOALL || dColl d == cALLTOALLV || dColl d == cSHIFT

/-- TFMT suits OP (R105, R205). -/
def tfmtOk (d : Desc) : Bool :=
  !hasOp d ||
    (if dOp d == opISUM then (dMems d && dMemd d) || dTfmt d == fmtI80
     else if dOp d == opSUM || dOp d == opWSUM then (if dWide d then dTfmt d == fmtFP32 else dMems d || dTfmt d == fmtFP32 || dTfmt d == fmtFP16)
     else dMems d || dTfmt d ≤ fmtI80)

/-- Reserved codes, and OP and TFMT against COLL, with the byte of each field (Table 9-1, R105, R205). -/
def codeChecks (d : Desc) : List (Nat × Bool) :=
  [(0, dColl d ≤ 9), (0, if hasOp d then opOk (dOp d) else dOp d == 0), (4, fmtOk (dWfmt d)), (13, fmtOk (dTfmt d)), (13, tfmtOk d), (16, dAxis d < 3),
   (17, dColl d != cSHIFT || dDist d != 0)]

/-- NELEM against COLL (Table 9-3, R250). -/
def nelemOk (s : State) (e : Group) (d : Desc) (w : Nat) : Bool :=
  let n := nranks e d
  let nel := dNelem d
  let full (k : Nat) : Bool := !isPacked w || k % pageElems w == 0
  let cores := !(dMems d && dMemd d)
  if dColl d == cBARRIER then nel == 0
  else if dColl d == cSCALEPASS then nel == 1
  else if dColl d == cALLTOALLV then true
  else nel != 0 &&
    (if dColl d == cREDSCAT then
      nel % n == 0 && full (nel / n) && (isXchip e || !cores || (nel / n) % chunkElems (dTfmt d) == 0)
     else if dColl d == cALLGATHER then
      full nel && (if isXchip e then dMems d || (nel % max 1 (ncore e) == 0 && (nel / max 1 (ncore e)) % chunkElems (dTfmt d) == 0)
                   else !cores || nel % chunkElems (dTfmt d) == 0)
     else true) && (chipsOf s e).length != 0

/-- The root of a BCAST or REDUCE is a memory buffer or a core of the root chip. -/
def rootOk (s : State) (e : Group) (d : Desc) : Bool :=
  !hasRoot d || !onRootChip s e d || (if dColl d == cBCAST then dMems d else dMemd d) || (!dRootm d && dRootk d < 5120 && bit e.cores (dRootk d))

/-- Sources and destinations (R246, Table 9-2), and the root (R246; that it names a member is DEDUCED, log entry 31). -/
def placeChecks (s : State) (e : Group) (d : Desc) : List (Nat × Bool) :=
  [(4, dMems d || ncore e != 0), (4, dColl d != cBARRIER || (!dMems d && !dMemd d)), (4, !memOnly d || (dMems d && dMemd d)),
   (13, !hasRoot d || dRootc d < (chipsOf s e).length), (if dRootm d then 16 else 15, rootOk s e d)]

/-- Format of the chip's result in the pool. -/
def resultFmt (d : Desc) (w : Nat) : Nat := if hasOp d && dOp d == opISUM then fmtI80 else w

/-- The chip has a result. -/
def hasResult (s : State) (e : Group) (d : Desc) : Bool := dColl d != cREDUCE || onRootChip s e d

/-- Reserved bits and format codes of a context that the posting does not use (R243). -/
def idleCtxOk (c : BitVec 128) : Bool := fmtOk (ctxSfmt c) && fmtOk (ctxDfmt c) && zeros c [(17, 15), (96, 32)]

/-- LCTX and SCTX for the loads and stores of the posting (R84, R118, R120, Table 3-6), and the conversion to the die's format
(Table 9-8; DEDUCED, log entry 31). -/
def ctxChecks (s : State) (e : Group) (d : Desc) (w : Nat) : List (Nat × Bool) :=
  let l := dLctx d
  let c := dSctx d
  let r := resultFmt d w
  let isum := hasOp d && dOp d == opISUM
  [(2, !dMems d || !isum || dSpv d || dSpp d || ctxSfmt l == fmtFP16),
   (13, dMemd d || !dMems d || isScalarColl d || !hasResult s e d || dTfmt d == r || (dTfmt d != fmtI80 && !isIntIn (dTfmt d))),
   (72, idleCtxOk l && (!dMems d || (marverCtxOk l && (dColl d != cSCALEPASS || (ctxDfmt l == fmtFP32 && ctxSfmt l ≤ fmtFP16))
      && (!hasOp d || isum || !isIntIn (ctxDfmt l))))),
   (88, idleCtxOk c && (!dMemd d || dColl d == cSCALEPASS || (marverCtxOk c && (!hasResult s e d || ctxSfmt c == r))))]

/-- Contributions of this chip's cores would travel in a packed format, which no up frame carries (R69, R105). -/
def packedUp (s : State) (e : Group) (d : Desc) : Bool :=
  isPacked (wireFmt d) && (memberCores e).any fun k => (pushCount s e d k).isSome

/-- Frames of I80 on a channel of the narrow class, which carries none (R69, R105): a collective of no operator, whose class is narrow (R205), has
its cores push or pull I80. -/
def i80Narrow (s : State) (e : Group) (d : Desc) : Bool :=
  dTfmt d == fmtI80 && !isWideColl d && !(partsOf s e d).isEmpty && !isScalarColl d && !(collChan e d).any isWide

/-- The checks whose failure is ST_RANGE (R243, R105), with the byte of the field that each refuses. -/
def postChecks (s : State) (e : Group) (d : Desc) : List (Nat × Bool) :=
  let w := wireBetween d ((collChan e d).getD 0)
  codeChecks d ++ placeChecks s e d ++ ctxChecks s e d w ++ [(13, !packedUp s e d), (13, !i80Narrow s e d), (18, nelemOk s e d w)]

/-- ST_RANGE of R243 and R105. -/
def postRange (s : State) (e : Group) (d : Desc) : Bool := (postChecks s e d).any fun x => !x.2

/-- Byte of the first field that ST_RANGE refuses: the GID of a group that is FREE, else a field of the descriptor. -/
def postOffset (s : State) (g : Nat) (d : Desc) : Nat := if (s.group g).st == .free then 1 else firstBad (postChecks s (s.group g) d)

/-- The posting is refused at LIMP (Table 14-3). -/
def postLimp (s : State) (e : Group) (d : Desc) : Bool :=
  let plain (f : Nat) : Bool := f == fmtFP32 || f == fmtFP16
  s.boot.level != .full && (isXchip e || (hasOp d && dOp d == opISUM) || (!isScalarColl d && !plain (dTfmt d))
    || (dMems d && !(plain (ctxSfmt (dLctx d)) && plain (ctxDfmt (dLctx d))))
    || (dMemd d && dColl d != cSCALEPASS && !(plain (ctxSfmt (dSctx d)) && plain (ctxDfmt (dSctx d))))
    || (dOp d == opWSUM && dMems d && !plain (dWfmt d)))

/-- No channel can carry the part of the chip's cores (R206). -/
def postDenied (s : State) (e : Group) (d : Desc) : Bool :=
  !(partsOf s e d).isEmpty &&
    (if isWideColl d then e.chw.isNone
     else e.chn.isNone && (e.chw.isNone || (hasOp d && (dOp d == opSUM || dOp d == opWSUM) && dTfmt d == fmtFP16)))

/-- A posting that needs Marver: between chips, with memory, or standing (R245, R261). -/
def needsMarver (e : Group) (d : Desc) : Bool := isXchip e || dMems d || dMemd d || dRootm d || dStand d

/-- Free numbers for a posting's schedule (R261). -/
def freeNumbers (s : State) (stand : Bool) : List Nat :=
  (if stand then List.range 480 else (List.range 32).map (480 + ·)).filter fun n => (s.sched n).isNone

/-- The first status that a posting meets (R243; order DESIGN CHOICE, log entry 22). -/
def postFail (s : State) (g : Nat) (d : Desc) : Option St :=
  let e := s.group g
  if e.st == .free then some .range
  else if postLimp s e d then some .busy
  else if postRange s e d then some .range
  else if e.st == .draining then some .draining
  else if e.st != .enabled then some .conflict
  else if (collOf e (dCid d)).isSome then some .conflict
  else if postDenied s e d then some .denied
  else if needsMarver e d && (freeNumbers s (dStand d)).isEmpty then some .busy
  else none

/-! ## What a posting starts -/

/-- G of the combine context (R419). -/
def combineG (d : Desc) : BitVec 32 :=
  if dMems d && ctxSfmt (dLctx d) ≤ fmtI80 && isPacked (ctxDfmt (dLctx d)) then ctxG (dLctx d) else one32

/-- The header of the schedule of a posting. -/
def postHdr (g units : Nat) (d : Desc) : SchedHdr :=
  let s := (postedS d).getD 0
  { gid := g, rv := dRv d, units := units, stand := dStand d, spp := dSpp d, s := s, rlog := dRlog d, cid0 := dCid d, spcid0 := dSpcid d,
    raddr := dRaddr d, base := [dSaddr d, dDaddr d, dWaddr d, dCaddr d]
    ctx := [dLctx d, dSctx d, mkCtx (dWfmt d) (dWfmt d) s one32 one32, mkCtx 0 0 s (combineG d) one32] }

/-- UNITS of a schedule that firmware builds: the runs of units that its steps write, each once, of which the pool holds at most 8,960 at a time
(R216; log entry 32). -/
def postUnits (w c tf : Nat) (ts : List Step) : Nat :=
  let run (e : Step × Nat) : Nat × Nat :=
    let t := e.1
    (t.uc, t.nchk * footprint w c (if t.kind == kDIEIN then tf else if t.kind == kCOPY then poolFmt w c tf ts e.2 t.ua else t.fmt))
  min 8960 (max 1 ((((ts.zipIdx.filter fun e => writesPool e.1).map run).eraseDups).foldl (fun a r => a + r.2) 0))

/-- The schedule of a posting (R254, R261): its steps by the template that fits, step 0 on TSOID when it stands. The store has the first 128; the
blocks of an ALLTOALLV are not known yet, and it reserves the whole pool (R237, R251; log entries 32, 62). -/
def postSched (s : State) (g : Nat) (d : Desc) : Sched :=
  let e := s.group g
  let ch := (collChan e d).getD 0
  let w := wireBetween d ch
  let x : Sched :=
    { hdr := postHdr g 1 d, steps := [], tid := e.tid, coll := some d, wfmt := w, vcu := vcuColl e d w, oneShot := !dStand d
      tfmt := if !dMems d then w else if isWide ch && wireFmt d == fmtFP16 then fmtFP32 else wireFmt d }
  let steps := match templateSteps (jobOf s x d) with
    | t :: r => (if dStand d then { t with tv := true, trig := dTsoid d } else t) :: r
    | [] => []
  let units := if dColl d == cALLTOALLV then 8960 else postUnits w (chunkBytes e) x.tfmt steps
  { x with hdr := postHdr g units d, steps := steps.take 128, more := steps.drop 128, pend := (steps.take 128).map fun _ => 0 }

/-- Accept a posting that needs Marver: firmware takes one of the free numbers, a free value. The group stages through Marver (R195). -/
def postMarver (s : State) (mb g : Nat) (d : Desc) : State :=
  let a := takeFree s
  let ns := freeNumbers s (dStand d)
  let n := ns.getD (a.1 % max 1 ns.length) 0
  let x := postSched s g d
  let s1 := (takeMarver a.2 g).setSched n (some x)
  let s2 := if dStand d then s1 else addColl s1 g (mkColl s1 g d true (some n) x.wfmt)
  respond (admitAll s2) mb .ok 0 (leBytes 2 (0x8000 + n))

/-- Accept a posting of the die alone. -/
def postOnDie (s : State) (mb g : Nat) (d : Desc) : State :=
  respond (postHeld (addColl s g (mkColl s g d true none (wireBetween d ((collChan (s.group g) d).getD 0)))) g) mb .ok 0 (leBytes 2 0)

/-- COLL_POST. -/
def collPost (s : State) (mb : Nat) (p : BitVec 1920) : State :=
  let d : Desc := BitVec.ofNat 1024 (fld p 0 1024)
  let g := dGid d
  match postFail s g d with
  | some st => replyAt s mb st (postOffset s g d)
  | none => if needsMarver (s.group g) d then postMarver s mb g d else postOnDie s mb g d

/-- COLL_POST (R242, R243). -/
def execCollPost (s : State) : Host.Outcome State Fault Refusal := answer .collPost (serveOp s 0x0201 collPost)

end Sys2Proof.Machine
end

