-- ==== Sys2Proof/Machine/ItemCmds.lean ====
section
/-! DEFINITION. Commands of sync objects, Cane channels, host slots and tasks (R133, R145 to R148, R155, R163, R336, R406). -/
namespace Sys2Proof.Machine

/-! ## Sync objects (R133, R336) -/

/-- The task (TID, TAG). -/
def taskOf (s : State) (tid tag : Nat) : Option Task := s.grp.tasks.find? fun x => x.tid == tid && x.tag == tag

/-- The range that ANY searches. -/
def soRange (p : BitVec 1920) : Nat × Nat := if bit p 17 then (0x4000 + 256 * fld p 24 8, 256) else (0, 0x4000)

/-- The object that an SO_ALLOC takes, or the status that turns it away (R336). -/
def soPick (s : State) (tid : Nat) (p : BitVec 1920) : Except St Nat :=
  let reclaim := bit p 16
  let ok (i : Nat) : Bool := let o := s.obj i; if reclaim then o.al && o.st == .abandoned && o.tid == tid else !o.al
  if bit p 15 then
    let r := soRange p
    match (List.range r.2).find? fun i => ok (r.1 + i) with
    | some i => .ok (r.1 + i)
    | none => .error .busy
  else if ok (fld p 0 15) then .ok (fld p 0 15) else .error .conflict

/-- SO_ALLOC: the record starts afresh (R133; after a reclaim too, DEDUCED from R148, log entry 33). -/
def soAlloc (s : State) (mb : Nat) (p : BitVec 1920) : State :=
  let tid := (callerTid s mb).getD 0
  let tag := fld p 64 16
  let g := if bit p 95 then some (fld p 80 12) else none
  if (taskOf s tid tag).isNone then replyAt s mb .range 8
  else if g.any fun i => (s.group i).st == .free then replyAt s mb .range 10
  else match soPick s tid p with
    | .error st => reply s mb st
    | .ok i =>
      let t := fld p 32 32
      respond (setObj s i { al := true, tid := tid, tag := tag, gid := g, bthr := t, thresh := t, st := if t = 0 then .idle else .armed })
        mb .ok 0 (leBytes 2 i)

/-- SO_ALLOC (R133, R336). -/
def execSoAlloc (s : State) : Host.Outcome State Fault Refusal := answer .soAlloc (serveOp s 0x0301 soAlloc)

/-- The object returns to the all-zero free record. -/
def freeObj (s : State) (i : Nat) : State := setObj s i {}

/-- SO_FREE. -/
def soFree (s : State) (mb : Nat) (p : BitVec 1920) : State :=
  let i := fld p 0 15
  let o := s.obj i
  if !o.al then reply s mb .denied
  else if o.st == .frozen || nwait s i != 0 then reply s mb .conflict
  else reply (freeObj s i) mb .ok

/-- SO_FREE (R133). -/
def execSoFree (s : State) : Host.Outcome State Fault Refusal := answer .soFree (serveOp s 0x0302 soFree)

/-- SO_QUERY: a free object is read by the platform admin alone (R133). -/
def soQuery (s : State) (mb : Nat) (p : BitVec 1920) : State :=
  let i := fld p 0 15
  if (s.obj i).al || mb == 0 then respond s mb .ok 0 (leBytes 32 (soRecord s i).toNat) else reply s mb .denied

/-- SO_QUERY (R334). -/
def execSoQuery (s : State) : Host.Outcome State Fault Refusal := answer .soQuery (serveOp s 0x0303 soQuery)

/-! ## Cane channels (R155, R158, R163, R336) -/

/-- CANE_BIND. A group binds one channel that spans chips at most, because tokens name the group alone (DEDUCED, log entry 34). -/
def caneBind (s : State) (mb : Nat) (p : BitVec 1920) : State :=
  let cn := fld p 0 8
  let g := fld p 16 12
  let c := s.cchan cn
  let e := s.group g
  if c.lost then reply s mb .denied
  else if e.st != .disabled || c.bound.isSome then reply s mb .conflict
  else if isXchip e && !isProduct e.chips then replyAt s mb .range 2
  else if isXchip e && (caneOfX s g).isSome then reply s mb .conflict
  else reply (s.modCchan cn fun c => { c with bound := some g, hostm := bit p 32, inte := bit p 33, xchip := isXchip e, members := [] }) mb .ok

/-- CANE_BIND (R163, R336). -/
def execCaneBind (s : State) : Host.Outcome State Fault Refusal := answer .caneBind (serveOp s 0x0310 caneBind)

/-- The channel is bound to no group, cleared, its message source off. -/
def caneLoose (s : State) (cn : Nat) : State :=
  (caneClear s cn).modCchan cn fun c => { c with bound := none, hostm := false, inte := false, xchip := false, apex := 0, members := [] }

/-- CANE_UNBIND. -/
def caneUnbind (s : State) (mb : Nat) (p : BitVec 1920) : State :=
  let cn := fld p 0 8
  if ((s.cchan cn).bound.any fun g => (s.group g).st == .disabled) then reply (caneLoose s cn) mb .ok else reply s mb .conflict

/-- CANE_UNBIND (R336). -/
def execCaneUnbind (s : State) : Host.Outcome State Fault Refusal := answer .caneUnbind (serveOp s 0x0311 caneUnbind)

/-! ## Host slots (R151, R336, R406) -/

/-- HOST_SLOT_MAP. -/
def hostSlotMap (s : State) (mb : Nat) (p : BitVec 1920) : State :=
  let n := fld p 0 16
  let i := fld p 16 15
  let o := s.obj i
  if !o.al || (s.slot n).soid.isSome then reply s mb .conflict
  else reply (s.modSlot n fun x => { x with
    soid := some i, tid := (callerTid s mb).getD 0, tag := fld p 32 16, inte := bit p 48, count := o.count, gen := o.gen, st := o.st }) mb .ok

/-- HOST_SLOT_MAP (R336). -/
def execHostSlotMap (s : State) : Host.Outcome State Fault Refusal := answer .hostSlotMap (serveOp s 0x0320 hostSlotMap)

/-- HOST_SLOT_UNMAP: deferred while an operation of the slot is in flight (R406). -/
def hostSlotUnmap (s : State) (mb : Nat) (p : BitVec 1920) : State :=
  let n := fld p 0 16
  let x := s.slot n
  let t := if x.soid.isNone then s else if x.busy then s.modSlot n fun y => { y with unmap := true } else slotUnmap s n
  reply t mb .ok

/-- HOST_SLOT_UNMAP (R336, R406). -/
def execHostSlotUnmap (s : State) : Host.Outcome State Fault Refusal := answer .hostSlotUnmap (serveOp s 0x0321 hostSlotUnmap)

/-! ## Tasks (R145 to R148, R336) -/

/-- The core mask of a TASK_BIND, none for an address of 0. -/
def taskMask (m : List Byte) (p : BitVec 1920) : BitVec 5120 := if fld p 64 48 = 0 then 0 else BitVec.ofNat 5120 (leAt m 0 640)

/-- TASK_BIND, its checks in the order of R336. -/
def taskBind (m : List Byte) (s : State) (mb : Nat) (p : BitVec 1920) : State :=
  let tid := (callerTid s mb).getD 0
  let tag := fld p 0 16
  let cores := taskMask m p
  if (taskOf s tid tag).isSome || (onesOf cores).any (fun k => (s.port k).tv) then reply s mb .conflict
  else if !inCells (s.tenant tid) cores then reply s mb .denied
  else if namesAbsent s cores then replyAt s mb .range 8
  else if 4096 ≤ s.grp.tasks.length then reply s mb .busy
  else
    let t : State := { s with grp := { s.grp with tasks := s.grp.tasks ++ [{ tid := tid, tag := tag, cores := cores }] } }
    reply ((onesOf cores).foldl (fun u k => u.modPort k fun q => { q with tid := tid, tag := tag, tv := true }) t) mb .ok

/-- TASK_BIND, with the bytes of the core mask (R336). -/
def execTaskBind (mem : List Byte) (s : State) : Host.Outcome State Fault Refusal := answer (.taskBind mem) (serveOp s 0x0401 (taskBind mem))

/-- Run `f` on the task of the payload's TAG; ST_RANGE when the tenant has none (R336). -/
def onTask (s : State) (mb : Nat) (p : BitVec 1920) (f : State → Task → State) : State :=
  match taskOf s ((callerTid s mb).getD 0) (fld p 0 16) with
  | none => reply s mb .range
  | some t => f s t

/-- Objects of a task. -/
def taskObjs (s : State) (t : Task) : List Nat := objsWhere s fun o => o.tid == t.tid && o.tag == t.tag

/-- Change the waits of the cores asleep on an object. -/
def modWaits (s : State) (i : Nat) (f : Wait → Wait) : State :=
  (objWaiters s i).foldl (fun u k => u.modPort k fun q => { q with wait := q.wait.map f }) s

/-- An IDLE or ARMED object becomes FROZEN, and its waiters' remaining times are stored (R145). DESIGN CHOICE (log entry 114): the remaining
time of a waiter whose deadline has passed but which has not expired yet is stored as 0. -/
def freezeObj (s : State) (i : Nat) : State :=
  let o := s.obj i
  if o.st == .idle || o.st == .armed then
    modWaits (setObj s i { o with st := .frozen, fpre := o.st == .armed }) i fun w => { w with remain := some (w.deadline - s.tb) }
  else s

/-- A FROZEN object returns to the state in FPRE, HELD is applied as one arrival, and its waiters' timers run again (R145). How many of the
operations on their way to it meet the edge of the resume is a free choice (R138, log entry 118). -/
def thawObj (s : State) (i : Nat) : State :=
  let o := s.obj i
  if o.st != .frozen then s
  else
    let w := s.sync.ops.filter fun x => x.soid == i
    let f := if w.isEmpty then (0, s) else takeFree s
    let t := takeOps i (f.1 % (w.length + 1)) f.2.sync.ops
    let u := objectEdge { f.2 with sync := { f.2.sync with ops := t.2 } } i t.1 true
    modWaits u i fun w => match w.remain with | some m => { w with deadline := s.tb + m, remain := none } | none => w

/-- Mark a task suspended or not. -/
def markTask (s : State) (t : Task) (v : Bool) : State :=
  { s with grp := { s.grp with tasks := s.grp.tasks.map fun x => if x.tid == t.tid && x.tag == t.tag then { x with suspended := v } else x } }

/-- TASK_SUSPEND (R145, R146): of a suspended task, no effect. -/
def execTaskSuspend (s : State) : Host.Outcome State Fault Refusal :=
  answer .taskSuspend (serveOp s 0x0402 fun u mb p => onTask u mb p fun v t =>
    reply (if t.suspended then v else markTask ((taskObjs v t).foldl freezeObj v) t true) mb .ok)

/-- TASK_RESUME (R145): of a task not suspended, no effect. -/
def execTaskResume (s : State) : Host.Outcome State Fault Refusal :=
  answer .taskResume (serveOp s 0x0403 fun u mb p => onTask u mb p fun v t =>
    reply (if t.suspended then markTask ((taskObjs v t).foldl thawObj v) t false else v) mb .ok)

/-- TASK_KILL (R147, R336). -/
def execTaskKill (s : State) : Host.Outcome State Fault Refusal :=
  answer .taskKill (serveOp s 0x0404 fun u mb p => onTask u mb p fun v t => reply (killTask v t) mb .ok)

/-- What keeps an object from the baseline of R148: bits [21:16] of Table 5-6. -/
def residueBits (s : State) (i : Nat) : Nat :=
  let o := s.obj i
  b2n (o.count != 0) + 2 * b2n (o.held != 0) + 4 * b2n (nwait s i != 0) + 8 * b2n (o.st != (if o.bthr = 0 then .idle else .armed))
    + 16 * b2n (o.thresh != o.bthr) + 32 * b2n o.sat

/-- Objects of the task that fail the baseline, ascending; ABANDONED ones are not examined. -/
def residue (s : State) (t : Task) : List Nat :=
  (objsWhere s fun o => o.tid == t.tid && o.tag == t.tag && o.st != .abandoned).filter fun i => residueBits s i != 0

/-- The entries of the answer with ST_RESIDUE. -/
def residueBytes (s : State) (l : List Nat) : List Byte := (l.take 60).flatMap fun i => leBytes 4 (i + residueBits s i * 0x10000)

/-- TASK_RELEASE: the task's objects are freed and its cores unbound, or the failing objects listed. -/
def taskRelease (s : State) (mb : Nat) (t : Task) : State :=
  let l := residue s t
  if l.isEmpty then
    let s1 := (taskObjs s t).foldl freeObj s
    let s2 := (taskCores t).foldl unbindCore s1
    reply { s2 with grp := { s2.grp with tasks := s2.grp.tasks.filter fun x => x.tid != t.tid || x.tag != t.tag } } mb .ok
  else respond s mb .residue (min 0xFFFF l.length) (residueBytes s l)

/-- TASK_RELEASE (R148, R336). -/
def execTaskRelease (s : State) : Host.Outcome State Fault Refusal :=
  answer .taskRelease (serveOp s 0x0405 fun u mb p => onTask u mb p fun v t => taskRelease v mb t)

end Sys2Proof.Machine
end

