-- ==== Sys2Proof/Machine/SchedCmds.lean ====
section
/-! DEFINITION. SCHED_LOAD and SCHED_UNLOAD (R237, R245, R261 to R264, R267). -/
namespace Sys2Proof.Machine

/-! ## Reading a schedule (Tables 9-6, 9-7) -/

/-- The header's 2,048 bits. -/
def hdrBits (m : List Byte) : BitVec 2048 := BitVec.ofNat 2048 (leAt m 0 256)

/-- The header. -/
def readHdr (h : BitVec 2048) : SchedHdr :=
  { gid := fld h 0 12, rv := bit h 19, units := fld h 20 14, stand := bit h 34, spp := bit h 35, s := sfld h 36 9, rlog := fld h 48 4
    cid0 := BitVec.ofNat 32 (fld h 64 32), spcid0 := BitVec.ofNat 32 (fld h 96 32), raddr := fld h 128 48
    base := (List.range 8).map fun i => fld h (256 + 64 * i) 48
    ctx := (List.range 8).map fun i => BitVec.ofNat 128 (fld h (768 + 128 * i) 128) }

/-- The reserved fields of a header are 0, those of its contexts included. -/
def hdrReservedOk (h : BitVec 2048) : Bool :=
  zeros h ([(45, 3), (52, 12), (176, 80), (1792, 256)] ++ ((List.range 8).map fun i => (304 + 64 * i, 16))
    ++ (List.range 8).flatMap fun i => [(785 + 128 * i, 15), (864 + 128 * i, 32)])

/-- Descriptor `i`. -/
def descBits (m : List Byte) (i : Nat) : BitVec 256 := BitVec.ofNat 256 (leAt m (256 + 32 * i) 32)

/-- The step that a descriptor gives; a step that acts once has one action. -/
def readStep (d : BitVec 256) : Step :=
  let k := fld d 0 4
  { kind := k, tv := bit d 4, trig := fld d 5 14, op := fld d 19 4, narrow := bit d 23, fmt := fld d 24 4, ctx := fld d 28 3, buf := fld d 32 3
    wa := bit d 35, wb := bit d 36, ws := bit d 37, off := fld d 40 40, cseq0 := fld d 80 32
    nchk := if k == kNOTE || k == kCOUNTX || k == kCELLPOST then 1 else fld d 112 16
    ua := fld d 128 14, ub := fld d 142 14, uc := fld d 156 14, peer := fld d 170 12, stage := fld d 182 3, nrmt := bit d 185, nsig := bit d 186
    nsoid := fld d 187 15, nn := fld d 202 16, after := fld d 218 7, uw := fld d 225 14 }

/-- Fields of a descriptor that a kind uses (Table 9-8), as (low bit, width), beside KIND, TV and TRIG. -/
def kindFields (k : Nat) : List (Nat × Nat) :=
  let fCh : List (Nat × Nat) := [(80, 32), (112, 16)]
  let fBuf : List (Nat × Nat) := [(32, 3), (40, 40)]
  let fOp := (19, 4)
  let fFmt := (24, 4)
  let fCtx := (28, 3)
  let fUA := (128, 14)
  let fUC := (156, 14)
  let fPeer := (170, 12)
  let fStage := (182, 3)
  if k == kLOAD then fCh ++ fBuf ++ [fCtx, fFmt, fUC]
  else if k == kSTORE then fCh ++ fBuf ++ [fUA, fCtx]
  else if k == kDIEIN then fCh ++ [fUC]
  else if k == kDIEOUT then fCh ++ [fUA]
  else if k == kSEND then fCh ++ [fUA, fPeer, fStage, fFmt, fOp]
  else if k == kRECV then fCh ++ [fUC, fPeer, fStage, fFmt, fOp]
  else if k == kCOMB then fCh ++ [fUA, (142, 14), fUC, fOp, (23, 1), fFmt, fCtx, (35, 3), (225, 14)]
  else if k == kCOPY then fCh ++ [fUA, fUC]
  else if k == kNOTE then [(112, 16), (185, 1), (186, 1), (187, 15), (202, 16), fPeer, (218, 7)]
  else if k == kCOUNTX then [(112, 16)] ++ fBuf
  else [(112, 16)]

/-- Every other field is 0 (R264). -/
def descReservedOk (d : BitVec 256) : Bool :=
  ((kindFields (fld d 0 4) ++ [(0, 4), (4, 1), (5, 14)]).foldl (fun (x : BitVec 256) (f : Nat × Nat) => setFld x f.1 f.2 0) d) == 0

/-- Wire format between chips of a loaded schedule: the FMT of its first SEND or RECV, else of its first LOAD, else FP32 (R264 names the
collective's wire format, which a header does not hold; DESIGN CHOICE, log entry 35). -/
def loadWfmt (ts : List Step) : Nat :=
  match ts.find? fun t => t.kind == kSEND || t.kind == kRECV with
  | some t => t.fmt
  | none => match ts.find? fun t => t.kind == kLOAD with | some t => t.fmt | none => fmtFP32

/-! ## The checks of R262 -/

/-- A run of chunks lies below UNITS. -/
def runOk (w c units f u n : Nat) : Bool := u + n * footprint w c f ≤ units

/-- The checks of one step. -/
def stepOk (e : Group) (h : SchedHdr) (w tf : Nat) (ts : List Step) (i : Nat) (t : Step) (once : Nat) : Bool :=
  let c := chunkBytes e
  let fm := poolFmt w c tf ts i
  let cx : BitVec 128 := h.ctx.getD t.ctx 0
  let k := t.kind
  let single := k == kNOTE || k == kCOUNTX || k == kCELLPOST
  let named (f u : Nat) : Bool := runOk w c h.units f u t.nchk
  1 ≤ k && k ≤ kCELLPOST && fmtOk t.fmt && (if single then once ≤ 1 else 1 ≤ t.nchk) && t.stage ≤ 4
  && (!(k == kLOAD) || (named t.fmt t.uc && marverCtxOk cx && ctxDfmt cx == t.fmt))
  && (!(k == kSTORE) || (named (fm t.ua) t.ua && marverCtxOk cx && ctxSfmt cx == fm t.ua))
  && (!(k == kDIEIN) || named tf t.uc)
  && (!(k == kDIEOUT) || named (fm t.ua) t.ua)
  && (!(k == kSEND) || (named (fm t.ua) t.ua && t.peer < e.chips.length && t.op ≤ 5))
  && (!(k == kRECV) || (named t.fmt t.uc && t.peer < e.chips.length && t.op ≤ 5))
  && (!(k == kCOMB) || (named (fm t.ua) t.ua && named (fm t.ub) t.ub && named t.fmt t.uc && opOk t.op && ctxFieldsOk cx && !isIntIn t.fmt
        && decide (t.uw < h.units) && (!(t.wa || t.wb) || (if t.ws then runOk w c h.units (fm t.uw) t.uw 1 else named (fm t.uw) t.uw))
        && (!t.narrow || (fm t.ua == fmtFP16 && fm t.ub == fmtFP16 && t.fmt == fmtFP16))))
  && (!(k == kCOPY) || (named (fm t.ua) t.ua && named (fm t.ua) t.uc))
  && (!(k == kNOTE) || (t.after < i && (t.nsig || t.nn != 0) && t.peer < e.chips.length))

/-- R262 and R263 for a whole schedule. -/
def loadOk (s : State) (m : List Byte) (w tf : Nat) (ts : List Step) : Bool :=
  let b := hdrBits m
  let h := readHdr b
  let e := s.group h.gid
  hdrReservedOk b && 1 ≤ h.units && h.units ≤ 8960 && (!h.rv || h.raddr % 32 == 0)
  && ts.zipIdx.all fun x => descReservedOk (descBits m x.2) && stepOk e h w tf ts x.2 x.1 (fld (descBits m x.2) 112 16)

/-- A run of units that a step writes. -/
def stepRun (e : Group) (w tf : Nat) (ts : List Step) (i : Nat) (t : Step) : Nat × Nat :=
  let c := chunkBytes e
  (t.uc, t.nchk * footprint w c (if t.kind == kDIEIN then tf else if t.kind == kCOPY then poolFmt w c tf ts i t.ua else t.fmt))

/-- A unit that a LOAD or DIE_IN step writes is written by another step too, which an EARLY group does not permit (R280). -/
def rewritesInput (e : Group) (w tf : Nat) (ts : List Step) : Bool :=
  ts.zipIdx.any fun a => (a.1.kind == kLOAD || a.1.kind == kDIEIN) && ts.zipIdx.any fun b =>
    a.2 != b.2 && writesPool b.1 && meets (stepRun e w tf ts a.2 a.1) (stepRun e w tf ts b.2 b.1)

/-- Numbers that SCHED_LOAD may take. -/
def loadPick (s : State) (p : BitVec 1920) : State × Except St Nat :=
  if bit p 15 then
    let ns := freeNumbers s true
    if ns.isEmpty then (s, .error .busy)
    else let a := takeFree s; (a.2, .ok (ns.getD (a.1 % ns.length) 0))
  else (s, if (s.sched (fld p 0 9)).isSome then .error .conflict else .ok (fld p 0 9))

/-- SCHED_LOAD. The on-die format of a loaded schedule, which its header does not hold, is a free value (log entry 35). -/
def schedLoad (m : List Byte) (s : State) (mb : Nat) (p : BitVec 1920) : State :=
  let tid := (callerTid s mb).getD 0
  let h := readHdr (hdrBits m)
  let ts := (List.range (fld (hdrBits m) 12 7 + 1)).map fun i => readStep (descBits m i)
  let w := loadWfmt ts
  let f := takeFree s
  let tf := f.1 % 12
  match loadPick s p with
  | (_, .error st) => reply s mb st
  | (_, .ok _) =>
    if foreignGroup s tid h.gid then reply s mb .denied
    else if keyHeld s h.gid then reply s mb .busy
    else if (s.group h.gid).st == .free || !loadOk s m w tf ts || ((s.group h.gid).dmode && rewritesInput (s.group h.gid) w tf ts) then
      replyAt s mb .range 8
    else match loadPick f.2 p with
      | (t, .ok n) =>
        let x : Sched := { hdr := h, steps := ts, tid := tid, tfmt := tf, wfmt := w, pend := ts.map fun _ => 0 }
        respond (admitAll (bumpKey (t.setSched n (some x)) (8192 + n))) mb .ok 0 (leBytes 2 n)
      | (_, .error st) => reply s mb st

/-- SCHED_LOAD, with the bytes of the header and descriptors (R262). -/
def execSchedLoad (mem : List Byte) (s : State) : Host.Outcome State Fault Refusal := answer (.schedLoad mem) (serveOp s 0x0501 (schedLoad mem))

/-! ## Unloading (R245, R267) -/

/-- SCHED_UNLOAD: no further pass begins, and the command waits parked for the pass in progress. -/
def schedUnload (s : State) (mb : Nat) (p : BitVec 1920) : State :=
  let n := fld p 0 9
  match s.sched n with
  | none => reply s mb .range
  | some _ => unloadTry (park (dropUnstarted (s.modSched n fun x => { x with unloading := some s.tb }) n) (.unload mb n))

/-- SCHED_UNLOAD (R267). -/
def execSchedUnload (s : State) : Host.Outcome State Fault Refusal := answer .schedUnload (serveOp s 0x0502 schedUnload)

/-- 100 us after the serve, an unload still parked is refused, and the schedule goes on. -/
def unloadLate (s : State) (n : Nat) : State :=
  match (s.sched n).bind (·.unloading) with
  | some a =>
    if a + 100000 ≤ s.tb then
      admitAll (answerParked (s.modSched n fun x => { x with unloading := none }) (fun x => match x with | .unload _ i => i == n | _ => false) .busy)
    else s
  | none => s

/-- SCHED_UNLOAD_TIMEOUT (R267). -/
def execSchedUnloadTimeout (n : Nat) (s : State) : Host.Outcome State Fault Refusal := answer (.schedUnloadTimeout n) (unloadLate s n)

end Sys2Proof.Machine
end

