-- ==== Sys2Proof/Machine/Settings.lean ====
section
/-! DEFINITION. Commands that may be staged (R190, R207 to R212, R337, R384, R385) and transactions (R338 to R341). -/
namespace Sys2Proof.Machine

/-! ## What each command checks beyond the common checks -/

/-- GROUP_UPDATE, CHANNEL_PIN, HUB_PLACE and DELIVERY_MODE act on a DISABLED group (Table 7-5, R190, R207, R337). -/
def disabledFail (s : State) (g : Nat) : Option St :=
  match (s.group g).st with
  | .free => some .range
  | .disabled => none
  | _ => some .conflict

/-- The pins of a CHANNEL_PIN payload: CHN where NV is 1, CHW where WV is 1. -/
def pinOfN (p : BitVec 1920) : Option Nat := if bit p 23 then some (fld p 16 4) else none
def pinOfW (p : BitVec 1920) : Option Nat := if bit p 31 then some (fld p 24 4) else none

/-- Coordinates, ring sizes and rates of a CHIP_PLACE payload. -/
def placeOf (p : BitVec 1920) : List Nat := (List.range 6).map fun i => pby p i 1
def rateOf (p : BitVec 1920) (n : Nat) : Nat := pby p (8 + 2 * n) 2

/-- The port is in use for a placement (R15, R16). -/
def portUsed (p : BitVec 1920) (n : Nat) : Bool :=
  let size := pby p (3 + n / 2) 1
  let bridge := n == pby p 0 1 % 2
  1 < size && (2 ≤ n || size != 2 || bridge)

/-- The link rate of Table 1-1 for a port's kind. -/
def rateMax (p : BitVec 1920) (n : Nat) : Nat := if n < 2 then (if n == pby p 0 1 % 2 then 700 else 400) else if n < 4 then 400 else 200

/-- A group of any tenant names another chip (R27). -/
def namesOther (s : State) : Bool := s.grp.groups.any fun e => e.2.st != .free && isXchip e.2

/-- A resident schedule of the group writes twice what EARLY delivery keeps (R280). -/
def earlyClash (s : State) (g : Nat) : Bool :=
  s.mrv.scheds.any fun e => match e.2 with
    | some x => x.coll.isNone && x.hdr.gid == g && rewritesInput (s.group g) x.wfmt x.tfmt x.steps
    | none => false

/-- The command's own checks (R329 step 6). -/
def ownFail (s : State) : Staged → Option St
  | .groupUpdate tid p m => match disabledFail s (fld p 0 12) with | some st => some st | none => listFail s tid (fld p 0 12) p m
  | .channelPin tid p =>
    let g := fld p 0 12
    match disabledFail s g with
    | some st => some st
    | none => if (s.group g).report && !reportOk s tid (pinOfN p) (pinOfW p) then some .conflict else none
  | .channelWeight _ _ => none
  | .vcbWeight _ _ => none
  | .hubPlace _ p =>
    let g := fld p 0 12
    match disabledFail s g with
    | some st => some st
    | none => if pby p 2 1 != 0 && pby p 2 1 < lowestApex s (s.group g) then some .range else none
  | .deliveryMode _ p =>
    let g := fld p 0 12
    match disabledFail s g with
    | some st => some st
    | none => if bit p 16 && earlyClash s g then some .conflict else none
  | .chipPlace p =>
    if namesOther s then some .conflict
    else if (List.range 6).any fun n => portUsed p n && (rateOf p n == 0 || rateMax p n < rateOf p n) then some .range
    else none
  | .linkClass _ => none
  | .halfClock _ => if s.boot.level == .full then none else some .busy
  | .escSet _ => none
  | .powerCap _ => none

/-- Byte of the first field that ST_RANGE refuses: the member list's address, the apex level, a rate, else the GID. -/
def ownOffset (s : State) : Staged → Nat
  | .groupUpdate _ p _ => if (s.group (fld p 0 12)).st == .free then 0 else 8
  | .hubPlace _ p => if (s.group (fld p 0 12)).st == .free then 0 else 2
  | .chipPlace p => firstBad ((List.range 6).map fun n => (8 + 2 * n, !(portUsed p n && (rateOf p n == 0 || rateMax p n < rateOf p n))))
  | _ => 0

/-! ## What each command does -/

/-- The effect of a command that may be staged. -/
def effectOf (s : State) : Staged → State
  | .groupUpdate _ p m => s.modGroup (fld p 0 12) fun e => withList e p m
  | .channelPin _ p => s.modGroup (fld p 0 12) fun e =>
      { e with chn := (pinOfN p).or e.chn, pinn := (pinOfN p).isSome, chw := (pinOfW p).or e.chw, pinw := (pinOfW p).isSome }
  | .channelWeight _ p => { s with fab := { s.fab with weight := tabSet 1 s.fab.weight (fld p 0 8) (pby p 1 1) } }
  | .vcbWeight tid p => { s with grp := { s.grp with vcbW := tabSet 4 s.grp.vcbW tid (fld p 0 8) } }
  | .hubPlace _ p => s.modGroup (fld p 0 12) fun e => { e with apexSet := pby p 2 1 }
  | .deliveryMode _ p => s.modGroup (fld p 0 12) fun e => { e with dmode := bit p 16 }
  | .chipPlace p =>
    match placeOf p with
    | [x, y, z, nx, ny, nz] => { s with boot := { s.boot with
        placed := true, x := x, y := y, z := z, nx := nx, ny := ny, nz := nz
        rates := (List.range 6).map fun n => if portUsed p n then rateOf p n else 0 } }
    | _ => s
  | .linkClass p => { s with grp := { s.grp with lclass := tabMod {} s.grp.lclass (fld p 0 8) fun c =>
      { rate := pby p 1 1, depth := pby p 2 2, wt := pby p 4 1, upd := !c.upd } } }
  | .halfClock p =>
    let h := fld p 0 8
    let v := bit p 8
    { s with
      boot := if h = 0 then { s.boot with h0slow := v } else { s.boot with h1slow := v }
      fab := { s.fab with seamSlow := tabSet false s.fab.seamSlow h v } }
  | .escSet p => { s with flt := { s.flt with tesc := fld p 0 32 } }
  | .powerCap p => { s with boot := { s.boot with cap := fld p 0 8 } }

/-- The effect, and the change count of what it changes (R339). -/
def applyOneCmd (s : State) (x : Staged) : State := (stagedKeys x).foldl bumpKey (effectOf s x)

/-! ## Serving a command that may be staged (R338) -/

/-- The state as it stands with the earlier staged commands applied. -/
def stagedView (s : State) (t : Tx) : State := t.staged.foldl (fun u e => applyOneCmd u e.1) s

/-- Change counts of the items that a command changes. -/
def keyCounts (s : State) (x : Staged) : List (Nat × Nat) := (stagedKeys x).map fun k => (k, tabGet 0 s.gaf.chg k)

/-- Serve: with TXID 0 the command takes effect at once; else it is staged in the mailbox's transaction, 64 at most. -/
def setOrStage (f : Option Nat → BitVec 1920 → Staged) (s : State) (mb : Nat) (p : BitVec 1920) : State :=
  let x := f (callerTid s mb) p
  match openTx s mb, cmdTxid (s.mbox mb).cmd != 0 with
  | some t, true =>
    match ownFail (stagedView s t) x with
    | some st => replyAt s mb st (ownOffset (stagedView s t) x)
    | none =>
      if 64 ≤ t.staged.length then reply s mb .range
      else
        let t1 := { t with staged := t.staged ++ [(x, keyCounts s x)] }
        reply { s with gaf := { s.gaf with txs := tabSet none s.gaf.txs mb (some t1) } } mb .ok
  | _, _ =>
    match ownFail s x with
    | some st => replyAt s mb st (ownOffset s x)
    | none => reply (applyOneCmd s x) mb .ok

/-- GROUP_UPDATE, with the bytes of the member list (R190, R191, Table 7-5). -/
def execGroupUpdate (mem : List Byte) (s : State) : Host.Outcome State Fault Refusal :=
  answer (.groupUpdate mem) (serveOp s 0x0102 (setOrStage fun t p => .groupUpdate (t.getD 0) p mem))
/-- CHANNEL_PIN (R207). -/
def execChannelPin (s : State) : Host.Outcome State Fault Refusal :=
  answer .channelPin (serveOp s 0x0503 (setOrStage fun t p => .channelPin (t.getD 0) p))
/-- CHANNEL_WEIGHT (R208). -/
def execChannelWeight (s : State) : Host.Outcome State Fault Refusal :=
  answer .channelWeight (serveOp s 0x0504 (setOrStage fun t p => .channelWeight t p))
/-- VCB_WEIGHT_SET (R211). -/
def execVcbWeightSet (s : State) : Host.Outcome State Fault Refusal :=
  answer .vcbWeightSet (serveOp s 0x0505 (setOrStage fun t p => .vcbWeight (t.getD 0) p))
/-- HUB_PLACE (R337). -/
def execHubPlace (s : State) : Host.Outcome State Fault Refusal :=
  answer .hubPlace (serveOp s 0x0506 (setOrStage fun t p => .hubPlace (t.getD 0) p))
/-- DELIVERY_MODE (R190). -/
def execDeliveryMode (s : State) : Host.Outcome State Fault Refusal :=
  answer .deliveryMode (serveOp s 0x0507 (setOrStage fun t p => .deliveryMode (t.getD 0) p))
/-- CHIP_PLACE (R14 to R16, R26, R27, R337). -/
def execChipPlace (s : State) : Host.Outcome State Fault Refusal :=
  answer .chipPlace (serveOp s 0x0601 (setOrStage fun _ p => .chipPlace p))
/-- LINK_CLASS_SET (R212). -/
def execLinkClassSet (s : State) : Host.Outcome State Fault Refusal :=
  answer .linkClassSet (serveOp s 0x0602 (setOrStage fun _ p => .linkClass p))
/-- HALF_CLOCK (R65, R384). -/
def execHalfClock (s : State) : Host.Outcome State Fault Refusal :=
  answer .halfClock (serveOp s 0x0603 (setOrStage fun _ p => .halfClock p))
/-- ESC_SET (R315). -/
def execEscSet (s : State) : Host.Outcome State Fault Refusal :=
  answer .escSet (serveOp s 0x0604 (setOrStage fun _ p => .escSet p))
/-- POWER_CAP_SET (R385). -/
def execPowerCapSet (s : State) : Host.Outcome State Fault Refusal :=
  answer .powerCapSet (serveOp s 0x0605 (setOrStage fun _ p => .powerCap p))

/-! ## Transactions (R338 to R341, Table 12-5) -/

/-- TX_BEGIN: TXIDs are numbered from 1, never 0. -/
def txBegin (s : State) (mb : Nat) (_ : BitVec 1920) : State :=
  if (openTx s mb).isSome then reply s mb .conflict
  else
    let n := s.gaf.nextTx
    let t : Tx := { txid := n, deadline := s.tb + 1000000000 }
    respond { s with gaf := { s.gaf with nextTx := if n + 1 = 0 then 1 else n + 1, txs := tabSet none s.gaf.txs mb (some t) } }
      mb .ok 0 (leBytes 4 n.toNat)

/-- TX_BEGIN (R338). -/
def execTxBegin (s : State) : Host.Outcome State Fault Refusal := answer .txBegin (serveOp s 0x0010 txBegin)

/-- Step 1 of R339: the first staged command that fails, by its number and status; `u` has the earlier ones applied. -/
def recheck (s : State) (mb : Nat) : State → Nat → List (Staged × List (Nat × Nat)) → Option (Nat × St)
  | _, _, [] => none
  | u, i, (x, cs) :: r =>
    let op := stagedOp x
    let level := match cmdRow op with | some y => y.level | none => 0
    if cs.any fun k => tabGet 0 s.gaf.chg k.1 != k.2 then some (i, .conflict)
    else if deniedBy u mb op level (stagedTid x) (stagedPay x) then some (i, .denied)
    else if heldByParked s op (stagedTid x) (stagedPay x) then some (i, .busy)
    else match ownFail u x with
      | some st => some (i, st)
      | none => recheck s mb (applyOneCmd u x) (i + 1) r

/-- Nothing of a commit needs a pause. -/
def noPause (s : State) (t : Tx) : Bool := (pauseChans t).isEmpty && (pauseHalves s t).isEmpty && (pauseVcbs t).isEmpty

/-- Step 3: every staged command is applied in order, the transaction closes, and what was paused resumes. -/
def commitApply (s : State) (mb : Nat) (t : Tx) : State := repause (closeTx (stagedView s t) mb)

/-- Run a commit from step 1 (R339, R340). -/
def commitFrom (s : State) (mb : Nat) (t : Tx) : State :=
  match recheck s mb s 0 t.staged with
  | some (i, st) => respond (repause (closeTx s mb)) mb st i []
  | none =>
    if noPause s t then reply (commitApply s mb t) mb .ok
    else
      let t1 := { t with committing := some s.tb }
      repause (park { s with gaf := { s.gaf with txs := tabSet none s.gaf.txs mb (some t1) } } (.commit mb))

/-- TX_COMMIT (R339). -/
def execTxCommit (s : State) : Host.Outcome State Fault Refusal :=
  answer .txCommit (serveOp s 0x0011 fun u mb _ => match openTx u mb with | some t => commitFrom u mb t | none => reply u mb .notx)

/-- No frame of a channel is being driven on a link direction. -/
def chanQuiet (l : LinkState) (ch : Nat) : Bool :=
  [2 * ch, 2 * ch + 1].all fun k => match (tabGet {} l.tx k).ready with | b :: _ => b.sof | [] => true

/-- Half of a link, by its number. -/
def halfOfLink (k : Nat) : Nat :=
  let i := k / 2
  if i < 1280 then i / 640 else if i < 2560 then (i - 1280) / 640 else if i < 2624 then (i - 2560) / 32 else if i < 2632 then (i - 2624) / 4
  else i - 2632

/-- No lane check and no re-home is in progress in a half (R65). -/
def halfQuiet (s : State) (h : Nat) : Bool :=
  (s.fab.links.all fun e => halfOfLink e.1 != h || e.2.chk == .idle)
  && s.fab.rehome.all fun e => e.1 / 32 != h || e.2.step == 0 || e.2.step == 4

/-- Every pause of a commit holds: nothing begun is still in progress on what is paused. -/
def pausesHold (s : State) (t : Tx) : Bool :=
  (pauseChans t).all (fun ch => s.fab.links.all fun e => chanQuiet e.2 ch)
  && (pauseHalves s t).all (fun h => halfQuiet s h && [false, true].all fun dn =>
      (List.range 16).all fun ch => chanQuiet (s.link ⟨.half h, dn⟩) ch)
  && (pauseVcbs t).all fun p => (s.lport p).vcb.cur.isEmpty

/-- The commit being held by its pauses at a mailbox. -/
def heldCommit (s : State) (mb : Nat) : Option (Tx × Nat) :=
  match openTx s mb with
  | some t => match t.committing with | some a => some (t, a) | none => none
  | none => none

/-- Every pause holds: the commit is applied, or ends with ST_BUSY when its 100 us have passed (R12, R339). -/
def pauseHeld (s : State) (mb : Nat) : State :=
  match heldCommit s mb with
  | some (t, a) =>
    if !pausesHold s t || s.stopped || s.gaf.restart then s
    else if a + 100000 ≤ s.tb then dropTx s mb
    else answerParked (commitApply s mb t) (fun p => p == .commit mb) .ok
  | none => s

/-- TX_PAUSE_HELD (R339 step 3). -/
def execTxPauseHeld (mb : Nat) (s : State) : Host.Outcome State Fault Refusal := answer (.txPauseHeld mb) (pauseHeld s mb)

/-- The commit is not applied 100 us after its serve: it ends with ST_BUSY. -/
def pauseLate (s : State) (mb : Nat) : State :=
  match heldCommit s mb with
  | some (_, a) => if a + 100000 ≤ s.tb then dropTx s mb else s
  | none => s

/-- TX_PAUSE_TIMEOUT (R339 step 4). -/
def execTxPauseTimeout (mb : Nat) (s : State) : Host.Outcome State Fault Refusal := answer (.txPauseTimeout mb) (pauseLate s mb)

/-- TX_ROLLBACK (R340). -/
def execTxRollback (s : State) : Host.Outcome State Fault Refusal :=
  answer .txRollback (serveOp s 0x0012 fun u mb _ => reply (closeTx u mb) mb .ok)

/-- A second after TX_BEGIN an OPEN transaction is discarded. -/
def txExpire (s : State) (mb : Nat) : State :=
  match openTx s mb with
  | some t => if t.committing.isNone && decide (t.deadline ≤ s.tb) then closeTx s mb else s
  | none => s

/-- TX_EXPIRE (R340, R341). -/
def execTxExpire (mb : Nat) (s : State) : Host.Outcome State Fault Refusal := answer (.txExpire mb) (txExpire s mb)

end Sys2Proof.Machine
end

