-- ==== Sys2Proof/Machine/FlashCmds.lean ====
section
/-! DEFINITION. The flash port at work (R350, R357 to R365): ends of operations, compaction, retirement, the hour's budget, the scrub; and LEHR_WRITE, FW_UPDATE, FW_ACTIVATE and the verdict of the security block (R347, R367). -/
namespace Sys2Proof.Machine

/-! ## Retirement and compaction (R359, R361) -/

/-- Good log sectors. -/
def goodSectors (l : Lehr) : Nat := ((List.range (logSectors l.dlog)).filter fun i => !l.retired.contains i).length

/-- A log sector is retired: a RETIRED record is asked for, F_LEHR_SECTOR with its offset, and once fewer than 4 good sectors
remain, F_LEHR_SECTOR with 0xFFFF_FFFF and no further configuration records (R361). -/
def retireSector (s : State) (i : Nat) : State :=
  if s.lehr.retired.contains i then s
  else
    let l : Lehr := { s.lehr with retired := i :: s.lehr.retired, ops := s.lehr.ops ++ [.record { kind := 5, rsn := 0, payload := [] }] }
    let s1 := raise { s with lehr := l } (sectorEvent (sectorBase i))
    if goodSectors l < 4 && !l.noConf then
      raise { s1 with lehr := { s1.lehr with noConf := true
                                             ops := s1.lehr.ops.filter fun o => match o with | .record r => 5 < r.kind || r.kind == 5 | _ => true } }
        (sectorEvent 0xFFFFFFFF)
    else s1

/-- The tail of the ring: the good opened sector whose SECTOR record has the lowest RSN, the head apart (R359). -/
def tailOf (l : Lehr) : Option Nat :=
  ((l.sectors.filter fun e => e.2.opened && !l.retired.contains e.1 && l.head != some e.1).foldl
    (fun (a : Option (Nat × Nat)) e => match e.2.recs with
      | r :: _ => (match a with | some b => if r.rsn < b.2 then some (e.1, r.rsn) else some b | none => some (e.1, r.rsn))
      | [] => a) none).map (·.1)

/-- A compaction is asked for or in progress. -/
def compacting (l : Lehr) : Bool :=
  (l.ops ++ l.cur.toList ++ l.held.map (·.1)).any fun o => match o with | .compact _ => true | .write _ _ (.copy _) => true | _ => false

/-- With only 2 erased sectors left, the tail's compaction is asked for (R359). -/
def askCompact (s : State) : State :=
  let l := s.lehr
  if 2 < (erasedAhead l).length || compacting l then s
  else match tailOf l with
    | some i => { s with lehr := { l with ops := l.ops ++ [.compact i] } }
    | none => s

/-- The first record of an RSN that stands torn becomes valid. -/
def validFirst (n : Nat) : List Record → List Record
  | [] => []
  | r :: q => if r.torn && r.rsn == n then { r with torn := false } :: q else r :: validFirst n q

/-- The write of a record has ended and read back: the last record of its RSN that stands torn is valid. A record that compaction has copied no longer
counts where it was (R359). -/
def recWritten (l : Lehr) (i : Nat) (r : Record) (src : WriteSrc) : Lehr :=
  let m := modSector i (fun x => { x with recs := (validFirst r.rsn x.recs.reverse).reverse }) l
  match src with
  | .copy t => modSector t (fun x => { x with recs := x.recs.map fun y => if y.rsn == r.rsn then { y with torn := true } else y }) m
  | _ => m

/-- A sector that compaction has emptied is erased; at its 100,000th erase it is retired instead of used (R361). -/
def eraseSector (s : State) (i : Nat) : State :=
  let s1 : State := { s with lehr := modSector i (fun x => { erased := true, erases := x.erases }) s.lehr }
  if 100000 ≤ (sectorOf s.lehr i).erases + 1 then retireSector s1 i else s1

/-! ## Anchors (R356) -/

/-- The next anchor: ASEQ one higher, ABSENT and TRIM carried over; written in the other anchor sector. -/
def nextAnchor (s : State) (sel : Option Bool) (val : Option (Bool × Bool)) : State :=
  match anchorOf s with
  | none => s
  | some a =>
    let y := takeRsn s.lehr
    let v := match val with | some (b, x) => setBit a.val (b2n b) x | none => a.val
    let n : Anchor := { a with aseq := a.aseq + 1, sel := sel.getD a.sel, val := v, rsn := y.1 }
    { s with lehr := { y.2 with anchors := tabSet none s.lehr.anchors (otherAnchor s) (some n) } }

/-! ## FW_UPDATE after its verdict, LEHR_WRITE (R347, R367) -/

/-- FW_UPDATE ends with a status. -/
def endUpdate (s : State) (st : St) (det : Nat) : State :=
  let t : State := { s with gaf := { s.gaf with upd := none } }
  (t.gaf.parked.filter fun p => match p with | .fwUpdate _ => true | _ => false).foldl
    (fun u p => respond u (parkedMb p) st det []) (unpark t fun p => match p with | .fwUpdate _ => true | _ => false)

/-- LEHR_WRITE ends with a status. -/
def endLehrWrite (s : State) (st : St) (det : Nat) : State :=
  let t : State := { s with gaf := { s.gaf with lehrW := none } }
  (t.gaf.parked.filter fun p => match p with | .lehrWrite _ => true | _ => false).foldl
    (fun u p => respond u (parkedMb p) st det []) (unpark t fun p => match p with | .lehrWrite _ => true | _ => false)

/-- The slot has been written and read back: its VAL bit is set, and FW_UPDATE is answered once that stands; with no anchor to hold the bit it ends
with ST_BUSY (log entry 80). -/
def imageWritten (s : State) (b : Bool) (m : List Byte) : State :=
  let t : State := { s with lehr := { s.lehr with images := tabSet [] s.lehr.images (b2n b) m } }
  if (anchorOf t).isSome then { t with lehr := { t.lehr with ops := t.lehr.ops ++ [.anchor none (some (b, true)) true] } }
  else endUpdate t .busy 0

/-- The next sector of LEHR_WRITE, or its end. -/
def lehrNext (s : State) : State :=
  match s.gaf.lehrW with
  | some (off, d, n) =>
    if d.isEmpty then endLehrWrite s .ok 0
    else { s with lehr := { s.lehr with ops := s.lehr.ops ++ [.sector (off + 65536 * n) (d.take 65536)] } }
  | none => s

/-- The Lehr fault sequence: FAULT records newest first, at most 64, each with its snapshot's entries (R364). -/
def insFault (x : Record) : List Record → List Record
  | [] => [x]
  | y :: r => if recFseq y < recFseq x then x :: y :: r else if recFseq y == recFseq x then y :: r else y :: insFault x r
def faultRecs (l : Lehr) : List Record := (((logRecs l).filter fun x => x.2.kind == 8).foldl (fun a x => insFault x.2 a) []).take 64
def snapOf (l : Lehr) (n : Nat) : List (List Byte) :=
  match (logRecs l).find? fun x => x.2.kind == 9 && recFseq x.2 == n with
  | some x => (List.range 64).map fun i => slice x.2.payload (16 + 32 * i) 32
  | none => []
def faultSeq (s : State) : List (List Byte) :=
  if s.boot.lehrLimp then [] else (faultRecs s.lehr).flatMap fun r => slice r.payload 0 32 :: snapOf s.lehr (recFseq r)

/-- Answer of FAULT_READ: 7 entries at most from FROM; DETAIL is how many there are (R364, Table 12-4). -/
def faultAnswer (s : State) (mb : Nat) (es : List (List Byte)) (frm : Nat) : State :=
  respond s mb .ok (min 0xFFFF es.length) ((es.drop frm).take 7).flatten

/-- The serve of FAULT_READ from Lehr ends with the read. -/
def faultReadEnd (s : State) (mb : Nat) : State :=
  if s.gaf.serving == some mb then
    faultAnswer { s with gaf := { s.gaf with serving := none } } mb (faultSeq s) (pby (cmdPay (s.mbox mb).cmd) 2 2)
  else s

/-! ## FLASH_OP_DONE (R350, R361, R363) -/

/-- The job that writes a record again in full after a failed write; SECTOR records and copies come again of themselves. -/
def writeAgain (r : Record) : WriteSrc → List FlashOp
  | .fresh => if r.kind == 0 then [] else [.record { r with rsn := 0 }]
  | .again n => [.rewrite n]
  | .copy _ => []

/-- A record's write fails: the sector is retired, and the record is written again in full at the next good sector (R361). -/
def recFailed (s : State) (i : Nat) (r : Record) (src : WriteSrc) : State :=
  retireSector { s with lehr := { s.lehr with ops := writeAgain r src ++ s.lehr.ops } } i

/-- Effect of the end of a job: of its last operation, or of one that failed. -/
def opEnd (s : State) (res : FlashEnd) : FlashOp → State
  | .record _ => s
  | .rewrite _ => s
  | .write i r src => if res == .ok then { s with lehr := recWritten s.lehr i r src } else recFailed s i r src
  | .readFault mb => faultReadEnd s mb
  | .anchor sel val fin =>
    let t := if res == .ok then nextAnchor s sel val else s
    if fin then endUpdate t (if res == .ok then .ok else .busy) 0 else t
  | .image b m => if res == .ok then imageWritten s b m else endUpdate s .busy 0
  | .sector off d => match s.gaf.lehrW with
    | some (o, r, n) =>
      if res == .ok then lehrNext { s with lehr := writeRaw s.lehr off d, gaf := { s.gaf with lehrW := some (o, r.drop 65536, n + 1) } }
      else endLehrWrite s .busy n
    | none => s
  | .compact i => if res == .ok then eraseSector s i else retireSector s i

/-- Steps 2 and 3 of a service reset: ABORT flits with FCODE 0, cores woken and transfers ended; then Marver waits for memory (R375). -/
def svcMid (s : State) : State :=
  let t := abortCores ((xgroups s).foldl (fun u g => sendAbort u g 0) s)
  { t with boot := { t.boot with svcStep := 4, svcSince := t.tb } }

/-- The operation in progress ends: its job goes on when it has more, unless one of a higher class has come, or has its effect; a service reset
that waited for the port goes on once nothing it waits for is left (R363, R375). -/
def flashDone (s : State) (res : FlashEnd) : State :=
  match s.lehr.cur with
  | some op =>
    let n := s.lehr.left
    let s1 : State := { s with lehr := { s.lehr with cur := none, left := 0 } }
    let t := flashStart (if res == .ok && 1 < n then { s1 with lehr := { s1.lehr with held := s1.lehr.held ++ [(op, n - 1)] } }
      else askCompact (opEnd s1 res op))
    if t.boot.svcStep = 1 && t.lehr.cur.isNone then svcMid t else t
  | none => s

/-- FLASH_OP_DONE (R350, R361, R363): one for a page program, an erase or a read burst (log entry 28). -/
def execFlashOpDone (res : FlashEnd) (s : State) : Host.Outcome State Fault Refusal :=
  answer (.flashOpDone res) (if s.boot.rst == some .cold || s.boot.rst == some .blk || !s.boot.powered then s else flashDone s res)

/-! ## Configuration records, the hour, the scrub (R360, R362, R365) -/

/-- Number of a configuration kind. -/
def confNum : ConfKind → Nat
  | .laneMap => 1 | .rehome => 2 | .fence => 3 | .slices => 4

/-- A record of the kind is asked for already. -/
def asked (l : Lehr) (k : Nat) : Bool := l.ops.any fun o => match o with | .record r => r.kind == k | _ => false

/-- The record of a kind that has changed is asked for, at a moment of Gaffer's own within 1 s of the change; one that the hour's budget defers
waits among the jobs. -/
def confRecord (s : State) (k : Nat) : State :=
  if (tabGet none s.lehr.due k).isSome && !asked s.lehr k && !s.lehr.noConf && !s.boot.lehrLimp then
    flashAsk s (.record { kind := k, rsn := 0, payload := [] })
  else s

/-- CONFIG_RECORD_DUE (R360). -/
def execConfigRecordDue (k : ConfKind) (s : State) : Host.Outcome State Fault Refusal :=
  answer (.configRecordDue k) (confRecord s (confNum k))

/-- Nanoseconds of an hour. -/
def hourNs : Nat := 3600000000000

/-- An hour of powered time has passed (R362, log entry 84): the budget is whole again, deferred records go on, and a scrub pass begins 30 days after the last. -/
def hourBegins (s : State) : State :=
  let l := s.lehr
  if s.boot.powered && l.hourStart + hourNs ≤ s.tb then
    let again := l.passHour + 720 ≤ l.hours + 1
    flashStart { s with lehr := { l with
      hours := l.hours + 1, hourStart := l.hourStart + hourNs, budget := 4096
      cursor := if again then 0 else l.cursor, passHour := if again then l.hours + 1 else l.passHour } }
  else s

/-- FLASH_HOUR_BUDGET (R362). -/
def execFlashHourBudget (s : State) : Host.Outcome State Fault Refusal := answer .flashHourBudget (hourBegins s)

/-- 24 hours of powered time after the last one a SCRUB record is written. -/
def scrubRecord (s : State) : State :=
  if s.lehr.lastScrub + 24 ≤ s.lehr.hours && logLive s then
    flashAsk { s with lehr := { s.lehr with lastScrub := s.lehr.hours } } (.record { kind := 6, rsn := 0, payload := [] })
  else s

/-- SCRUB_RECORD (R365). -/
def execScrubRecord (s : State) : Host.Outcome State Fault Refusal := answer .scrubRecord (scrubRecord s)

/-- F_LEHR_CORR with the bits corrected and the offset of what was read. -/
def corrEvent (bits off : Nat) : Event := { mkEv .lehrCorr 12 0 with detail := BitVec.ofNat 16 bits, cseq := BitVec.ofNat 32 off }

/-- The record of an RSN becomes unreadable. -/
def tearRec (l : Lehr) (rsn : Nat) : Lehr :=
  { l with sectors := tabMap {} (fun _ x => { x with recs := x.recs.map fun r => if r.rsn == rsn then { r with torn := true } else r }) l.sectors }

/-- What a pass of the scrub reads by RSN: the live records, the SECTOR records of the ring, both anchors (R365). -/
def scrubItems (l : Lehr) : List (Nat × Record) := ((logRecs l).filter fun x => x.2.kind == 0 || liveRec l x) ++ anchorRecs l

/-- The item that the scrub reads next: that of the least RSN above its cursor, by offset; none at the end of a pass but for the image slots
(DESIGN CHOICE, log entry 131). -/
def scrubNext (l : Lehr) : Option Nat :=
  (((scrubItems l).filter fun x => l.cursor < x.2.rsn).foldl
    (fun (a : Option (Nat × Record)) x => match a with | some y => if x.2.rsn < y.2.rsn then some x else a | none => some x) none).map (·.1)

/-- The offset of an item, when it is what the scrub reads next: its RSN becomes the cursor. -/
def scrubAt (s : State) (off rsn : Nat) (f : State → State) : State :=
  if scrubNext s.lehr == some off then f { s with lehr := { s.lehr with cursor := rsn } } else s

/-- The scrub has read a live record: one with 3 or more bits corrected is written again with the same content. -/
def scrubRec (s : State) (rsn bits : Nat) : State :=
  match (logRecs s.lehr).find? fun x => x.2.rsn == rsn && x.2.kind != 0 && liveRec s.lehr x with
  | none => s
  | some x => scrubAt s x.1 rsn fun s1 =>
    if bits = 0 then s1
    else if 8 < bits then { s1 with lehr := tearRec s1.lehr rsn }
    else
      let s2 := raise s1 (corrEvent bits x.1)
      if bits < 3 then s2 else flashAsk s2 (.rewrite rsn)

/-- The scrub has read an anchor. -/
def scrubAnchor (s : State) (i bits : Nat) : State :=
  match tabGet none s.lehr.anchors i with
  | none => s
  | some a => scrubAt s (65536 * i) a.rsn fun s1 =>
    if bits = 0 then s1
    else if 8 < bits then { s1 with lehr := { s1.lehr with anchors := tabSet none s1.lehr.anchors i none } }
    else
      let s2 := raise s1 (corrEvent bits (65536 * i))
      if bits < 3 then s2 else flashAsk s2 (.anchor none none false)

/-- The scrub has read a SECTOR record; one that has become unreadable takes its sector's erase count with it (R357). -/
def scrubSector (s : State) (i bits : Nat) : State :=
  match (sectorOf s.lehr i).recs with
  | [] => s
  | r :: q => scrubAt s (sectorBase i) r.rsn fun s1 =>
    if bits = 0 then s1
    else if 8 < bits then { s1 with lehr := modSector i (fun x => { x with erases := 0, recs := { r with torn := true } :: q }) s1.lehr }
    else raise s1 (corrEvent bits (sectorBase i))

/-- VAL of a slot in the anchor in force. -/
def slotValid (s : State) (b : Bool) : Bool := match anchorOf s with | some a => bit a.val (b2n b) | none => false

/-- The scrub has read an image slot, at the end of a pass: a body that does not match DIGEST costs the slot its VAL bit, F_FW_IMAGE. -/
def scrubImage (s : State) (b : Bool) (bits : Nat) : State :=
  if (scrubNext s.lehr).isNone && slotValid s b && (0 < bits || !imageDigestOk (slotBytes s.lehr b)) then
    flashAsk (raise s { mkEv .fwImage 12 0 with detail := BitVec.ofNat 16 (b2n b) }) (.anchor none (some (b, false)) false)
  else s

/-- A step of the scrub, while no other operation is in progress (R363, R365). -/
def scrubStep (s : State) (item : ScrubItem) (bits : Nat) : State :=
  if !logLive s || s.lehr.cur.isSome || s.boot.rst.isSome || !s.boot.powered then s
  else match item with
    | .record rsn => scrubRec s rsn bits
    | .anchor i => scrubAnchor s i bits
    | .sectorRec i => scrubSector s i bits
    | .image i => scrubImage s (i == 1) bits

/-- LEHR_SCRUB_STEP (R365). -/
def execLehrScrubStep (item : ScrubItem) (bits : Nat) (s : State) : Host.Outcome State Fault Refusal :=
  answer (.lehrScrubStep item bits) (scrubStep s item bits)

/-! ## LEHR_WRITE, FW_UPDATE, FW_ACTIVATE (R346, R347, R367) -/

/-- LEHR_WRITE: accepted only at LIMP from ROM defaults; the bytes are those read at the source address. -/
def lehrWrite (mem : List Byte) (s : State) (mb : Nat) (p : BitVec 1920) : State :=
  let off := pby p 8 4
  let len := pby p 12 4
  if !s.boot.lehrLimp then reply s mb .conflict
  else if off % 65536 != 0 || len % 65536 != 0 || len < 65536 || 2 ^ s.lehr.dlog < off + len then
    replyAt s mb .range (if off % 65536 != 0 then 8 else 12)
  else
    let s1 := park s (.lehrWrite mb)
    flashStart (lehrNext { s1 with gaf := { s1.gaf with lehrW := some (off, padTo mem len, 0) } })

/-- LEHR_WRITE (R367). -/
def execLehrWrite (mem : List Byte) (s : State) : Host.Outcome State Fault Refusal := answer (.lehrWrite mem) (serveOp s 0x060D (lehrWrite mem))

/-- The checks of FW_UPDATE before the verdict, in their order (R347). -/
def imageFail (s : State) (m : List Byte) (len : Nat) (force : Bool) : Option St :=
  if len < 64 || 1048576 < len || !imageHeadOk m || imageLen m != len || !imageDigestOk m then some .range
  else if leAt m 2 1 != 3 && !force then some .version
  else if force && s.grp.tenants.any (fun e => e.2.en) then some .conflict
  else none

/-- FW_UPDATE: the image read from memory is checked, and its header and signature go to the security block. -/
def fwUpdate (mem : List Byte) (s : State) (mb : Nat) (p : BitVec 1920) : State :=
  let len := pby p 16 4
  let m := padTo mem (min len 1048576)
  match imageFail s m len (bit p 0) with
  | some st => replyAt s mb st (if len < 64 || 1048576 < len then 16 else 8)
  | none =>
    let s1 := park s (.fwUpdate mb)
    { s1 with gaf := { s1.gaf with
        upd := some { image := m, slotB := idleSlot s1, asked := some s1.tb }
        secOut := s1.gaf.secOut ++ [(false, imageAsk m)] } }

/-- FW_UPDATE (R346, R347). -/
def execFwUpdate (mem : List Byte) (s : State) : Host.Outcome State Fault Refusal := answer (.fwUpdate mem) (serveOp s 0x060B (fwUpdate mem))

/-- FW_ACTIVATE: the slot must hold an image accepted since it was written (R347). -/
def fwActivate (s : State) (mb : Nat) (p : BitVec 1920) : State :=
  let b := pby p 0 1 == 1
  if slotValid s b then reply (flashAsk s (.anchor (some b) none false)) mb .ok else reply s mb .range

/-- FW_ACTIVATE (R347). -/
def execFwActivate (s : State) : Host.Outcome State Fault Refusal := answer .fwActivate (serveOp s 0x060C fwActivate)

/-- The verification request has left. -/
def verdictTaken (s : State) : State :=
  match takeFirst (fun x => !x.1) s.gaf.secOut with
  | some y => { s with gaf := { s.gaf with secOut := y.2 } }
  | none => s

/-- An accepted image goes to the slot that is not running, which is marked invalid until it is written and read back. -/
def imageAccepted (s : State) (u : FwUpd) : State :=
  let mark := if slotValid s u.slotB then [FlashOp.anchor none (some (u.slotB, false)) false] else []
  flashStart { s with
    gaf := { s.gaf with upd := some { u with asked := none, wrote := true } }
    lehr := { s.lehr with ops := s.lehr.ops ++ mark ++ [.image u.slotB u.image] } }

/-- No verdict within 100 ms of the last word: FW_UPDATE ends with ST_BUSY. -/
def verdictLate (s : State) : State :=
  match s.gaf.upd with
  | some u => match u.asked with
    | some t => if t + 100000000 ≤ s.tb then endUpdate (verdictTaken s) .busy 0 else s
    | none => s
  | none => s

/-- SEC_VERDICT_TIMEOUT (R347). -/
def execSecVerdictTimeout (s : State) : Host.Outcome State Fault Refusal := answer .secVerdictTimeout (verdictLate s)

/-! ## FAULT_READ (R304, R319, R364) -/

/-- FAULT_READ: Cullet at once; Lehr's sequence by a read of the device. -/
def faultRead (s : State) : State :=
  match s.gaf.serving with
  | some mb =>
    let c := (s.mbox mb).cmd
    if cmdOp c != 0x060A then s
    else
      let p := cmdPay c
      if pby p 0 1 == 0 then
        faultAnswer { s with gaf := { s.gaf with serving := none } } mb (s.flt.ring.map fun e => leBytes 32 (entryWord e).toNat) (pby p 2 2)
      else if s.boot.lehrLimp then faultAnswer { s with gaf := { s.gaf with serving := none } } mb [] 0
      else if (s.lehr.ops ++ s.lehr.cur.toList).any (fun o => match o with | .readFault _ => true | _ => false) then s
      else flashAsk s (.readFault mb)
  | none => s

/-- FAULT_READ (R364). -/
def execFaultRead (s : State) : Host.Outcome State Fault Refusal := answer .faultRead (faultRead s)

end Sys2Proof.Machine
end

