-- ==== Sys2Proof/Machine/ProtCmds.lean ====
section
/-! DEFINITION. The protection table and its two-party change (R202, R203, R342 to R344, R379). -/
namespace Sys2Proof.Machine

/-! ## The change record (R342, Table 12-7) -/

/-- Entry `i` of a record: kind, TID, INDEX, VALUE. -/
def entKind (r : List Byte) (i : Nat) : Nat := leAt r (16 + 32 * i) 1
def entTid (r : List Byte) (i : Nat) : Nat := leAt r (17 + 32 * i) 1
def entIdx (r : List Byte) (i : Nat) : Nat := leAt r (18 + 32 * i) 2
def entVal (r : List Byte) (i : Nat) : BitVec 224 := BitVec.ofNat 224 (leAt r (20 + 32 * i) 28)

/-- Number of entries and PSEQ. -/
def recEnt (r : List Byte) : Nat := leAt r 0 4
def recPseq (r : List Byte) : BitVec 32 := BitVec.ofNat 32 (leAt r 4 4)

/-- Fields of the VALUE of a kind (low bit, width). -/
def valFields : Nat → List (Nat × Nat)
  | 1 => [(0, 2), (16, 13), (32, 16), (48, 7), (56, 13), (72, 10), (82, 5)]
  | 2 => [(0, 128)]
  | 3 => [(0, 6), (8, 6), (16, 6), (24, 6), (32, 6), (40, 6)]
  | 4 => [(0, 2), (8, 6), (64, 64)]
  | 5 => [(0, 1), (8, 6)]
  | 6 => [(0, 25)]
  | 7 => [(0, 1), (8, 6)]
  | _ => []

/-- Reserved bits of a VALUE are 0. -/
def valClean (k : Nat) (v : BitVec 224) : Bool := ((valFields k).foldl (fun x f => setFld x f.1 f.2 0) v) == 0

/-- The values of an entry lie within Tables 7-7, 7-8 and 12-7. -/
def valOk (k : Nat) (v : BitVec 224) : Bool :=
  match k with
  | 1 => decide (fld v 16 13 ≤ 4096) && decide (fld v 32 16 ≤ 32768) && decide (fld v 48 7 ≤ 64) && decide (fld v 56 13 ≤ 4096)
         && decide (fld v 72 10 ≤ 512) && decide (1 ≤ fld v 82 5) && decide (fld v 82 5 ≤ 16)
  | 3 => decide (fld v 0 6 ≤ fld v 8 6) && decide (fld v 16 6 ≤ fld v 24 6) && decide (fld v 32 6 ≤ fld v 40 6)
  | 4 => decide (fld v 0 2 < 3)
  | _ => true

/-- INDEX lies within its field. -/
def idxOk (k i : Nat) : Bool :=
  match k with
  | 1 => i == 0 | 2 => decide (i < 10) | 3 => i == 0 | 4 => decide (i < 16) | 5 => decide (i < 64) | 6 => decide (i < 1024)
  | 7 => decide (i < 4096) | _ => false

/-- Order of an entry: KIND, then TID, then INDEX. -/
def entOrder (r : List Byte) (i : Nat) : Nat := (entKind r i * 256 + entTid r i) * 65536 + entIdx r i

/-- One entry is well formed. -/
def entOk (r : List Byte) (i : Nat) : Bool :=
  let k := entKind r i
  idxOk k (entIdx r i) && (if 4 ≤ k then entTid r i == 0 else decide (entTid r i < 64)) && valClean k (entVal r i) && valOk k (entVal r i)

/-- The record is canonical. -/
def recCanon (r : List Byte) : Bool :=
  let n := recEnt r
  decide (1 ≤ n) && decide (n ≤ 256) && r.length == 16 + 32 * n && leAt r 8 8 == 0
    && (List.range n).all (entOk r) && (List.range (n - 1)).all fun i => decide (entOrder r i < entOrder r (i + 1))

/-! ## Applying a record -/

/-- An owner of a grant: bit 0 granted, bits 13:8 TID. -/
def valOwner (v : BitVec 224) : Option Nat := if bit v 0 then some (fld v 8 6) else none

/-- The boot barrier ends: every waiter on CN63 wakes with W_EPOCH and the channel is cleared (R160, R379). -/
def endBootBar (s : State) : State :=
  if s.cane.bootBar then
    let t := caneClear (wakeAll s (caneWaiters s 63) .epoch) 63
    { t with cane := { t.cane with bootBar := false } }
  else s

/-- An entry replaces the whole field that it names. -/
def applyEnt (r : List Byte) (s : State) (i : Nat) : State :=
  let v := entVal r i
  let x := entIdx r i
  match entKind r i with
  | 1 => s.modTenant (entTid r i) fun t => { t with
      en := bit v 0, expert := bit v 1, qgrp := fld v 16 13, qso := fld v 32 16, qcane := fld v 48 7, qhost := fld v 56 13
      qsched := fld v 72 10, qvcbw := fld v 82 5 }
  | 2 => s.modTenant (entTid r i) fun t => { t with cells := setFld t.cells (128 * x) 128 (fld v 0 128) }
  | 3 => s.modTenant (entTid r i) fun t => { t with box := (List.range 6).map fun j => fld v (8 * j) 6 }
  | 4 =>
    let g : ChGrant := match fld v 0 2 with | 1 => .exclusive (fld v 8 6) | 2 => .shared (BitVec.ofNat 64 (fld v 64 64)) | _ => .unassigned
    { s with grp := { s.grp with chGrant := tabSet .unassigned s.grp.chGrant x g } }
  | 5 =>
    let s1 := if x == 63 && bit v 0 then endBootBar s else s
    { s1 with grp := { s1.grp with caneGrant := tabSet none s1.grp.caneGrant x (valOwner v) } }
  | 6 =>
    let g : SoGrant := { soid := fld v 0 15, valid := bit v 15, tid := fld v 16 6, arrive := bit v 22, signal := bit v 23, read := bit v 24 }
    { s with grp := { s.grp with soGrant := tabSet {} s.grp.soGrant x g } }
  | 7 => { s with grp := { s.grp with slotGrant := tabSet none s.grp.slotGrant x (valOwner v) } }
  | _ => s

/-- Every entry applied. -/
def applyRec (s : State) (r : List Byte) : State := (List.range (recEnt r)).foldl (applyEnt r) s

/-! ## R203 -/

/-- Tenants that a record changes. -/
def recTids (r : List Byte) : List Nat := ((List.range (recEnt r)).filter fun i => entKind r i ≤ 3).map (entTid r)

/-- A quota is lowered below the tenant's present use. -/
def quotaLow (s t : State) (i : Nat) : Bool :=
  let a := s.tenant i
  let b := t.tenant i
  [(a.qgrp, b.qgrp, useGrp s i), (a.qso, b.qso, useSo s i), (a.qhost, b.qhost, useHost s i), (a.qsched, b.qsched, useSched s i)].any
    fun q => q.2.1 < q.1 && q.2.1 < q.2.2

/-- A cell with a core bound to the tenant is removed. -/
def cellGone (s t : State) (i : Nat) : Bool :=
  s.ports.any fun e => e.2.tv && e.2.tid == i && bit (s.tenant i).cells (cellOf e.1) && !bit (t.tenant i).cells (cellOf e.1)

/-- A channel assigned to a group of the tenant that is not DISABLED or FREE is withdrawn. -/
def chanGone (s t : State) : Bool :=
  s.grp.groups.any fun e => e.2.st != .free && e.2.st != .disabled
    && (e.2.chn.toList ++ e.2.chw.toList).any fun ch => chanGranted s e.2.tid ch && !chanGranted t e.2.tid ch

/-- A tenant would hold more Cane grants than its QCANE, both as the change leaves them. -/
def caneOver (t : State) : Bool := (List.range 64).any fun i => (t.tenant i).qcane < useCane t i

/-- EN becomes 0 for a tenant that owns a group, object, task or schedule. -/
def enGone (s t : State) (i : Nat) : Bool :=
  (s.tenant i).en && !(t.tenant i).en && (0 < useGrp s i || 0 < useSo s i || s.grp.tasks.any (fun x => x.tid == i)
    || s.mrv.scheds.any fun e => match e.2 with | some x => x.tid == i | none => false)

/-- The change is refused (R203, R342). -/
def changeFail (s : State) (r : List Byte) : Option St :=
  let t := applyRec s r
  if (recTids r).any (fun i => quotaLow s t i || cellGone s t i || enGone s t i) || chanGone s t || caneOver t then some .conflict else none

/-! ## The proposal (R343) -/

/-- The pending proposal ends with an outcome. -/
def endProp (s : State) (st : St) : State := { s with grp := { s.grp with prop := none, propOut := st } }

/-- A proposal whose expiry has come ends unapplied. -/
def expireProp (s : State) : State :=
  match s.grp.prop with
  | some p => if p.expiry ≤ s.tb then endProp s .notx else s
  | none => s

/-- PROT_PROPOSE: the record read from memory is checked and becomes the pending proposal. -/
def protPropose (mem : List Byte) (s0 : State) (mb : Nat) (p : BitVec 1920) : State :=
  let s := expireProp s0
  let len := pby p 8 4
  let r := padTo mem (min len 8208)
  let dig := sha256 r
  if 8208 < len || dig != leBytes 32 (pby p 16 32) || !recCanon r || recPseq r != s.grp.pseq + 1 then
    replyAt s mb .range (if 8208 < len then 8 else if dig != leBytes 32 (pby p 16 32) then 16 else 0)
  else match changeFail s r with
    | some st => reply s mb st
    | none =>
      if s.grp.prop.isSome then reply s mb .busy
      else
        let q : Proposal := { record := r, pseq := recPseq r, digest := dig, expiry := s.tb + 10000000000 }
        respond { s with grp := { s.grp with prop := some q } } mb .ok 0 (leBytes 4 q.pseq.toNat)

/-- PROT_PROPOSE (R343). -/
def execProtPropose (mem : List Byte) (s : State) : Host.Outcome State Fault Refusal := answer (.protPropose mem) (serveOp s 0x0701 (protPropose mem))

/-- PROT_CONFIRM: on a match the checks are made again and every entry is applied. -/
def protConfirm (s0 : State) (mb : Nat) (p : BitVec 1920) : State :=
  let s := expireProp s0
  match s.grp.prop with
  | none => reply s mb .notx
  | some q =>
    if BitVec.ofNat 32 (pby p 0 4) != q.pseq || leBytes 32 (pby p 16 32) != q.digest then reply (endProp s .denied) mb .denied
    else match changeFail s q.record with
      | some st => reply (endProp s st) mb st
      | none =>
        let t := endProp (applyRec s q.record) .ok
        reply { t with grp := { t.grp with pseq := q.pseq } } mb .ok

/-- PROT_CONFIRM (R343, R344). -/
def execProtConfirm (s : State) : Host.Outcome State Fault Refusal := answer .protConfirm (serveOp s 0x0702 protConfirm)

/-- PROT_QUERY; PSEQ and the time left of a proposal that is not pending are free values. -/
def protQuery (s0 : State) (mb : Nat) (_ : BitVec 1920) : State :=
  let s := expireProp s0
  let y := takeFree s
  match s.grp.prop with
  | some q => respond s mb .ok 0 (leBytes 1 1 ++ leBytes 1 s.grp.propOut.code ++ leBytes 2 0 ++ leBytes 4 s.grp.pseq.toNat ++ leBytes 4 q.pseq.toNat
      ++ leBytes 4 ((q.expiry - s.tb) / 1000000))
  | none => respond y.2 mb .ok 0 (leBytes 1 0 ++ leBytes 1 s.grp.propOut.code ++ leBytes 2 0 ++ leBytes 4 s.grp.pseq.toNat ++ leBytes 8 y.1)

/-- PROT_QUERY (R343). -/
def execProtQuery (s : State) : Host.Outcome State Fault Refusal := answer .protQuery (serveOp s 0x0703 protQuery)

/-- PROPOSAL_EXPIRE (R343). -/
def execProposalExpire (s : State) : Host.Outcome State Fault Refusal := answer .proposalExpire (expireProp s)

end Sys2Proof.Machine
end

