-- ==== Sys2Proof/Machine/AdminCmds.lean ====
section
/-! DEFINITION. TENANT_RESET (R308), the security sideband's channel 1 (R345), and Gaffer's restart (R311). -/
namespace Sys2Proof.Machine

/-! ## TENANT_RESET -/

/-- TENANT_RESET parks, and the tenant is aborted with every object of its own ABANDONED; its ABORT flits carry FCODE 0 (R147, R307). -/
def tenantReset (s : State) (mb : Nat) (p : BitVec 1920) : State :=
  let i := pby p 0 1
  let t := park s (.tenantReset mb i)
  abortTenant ((objsWhere t fun o => o.tid == i).foldl abandon t) i 0

/-- TENANT_RESET (R308). -/
def execTenantReset (s : State) : Host.Outcome State Fault Refusal := answer .tenantReset (serveOp s 0x0606 tenantReset)

/-! ## MB1 (R345) -/

/-- A transfer on channel 1: 64 words while MB1 is not FULL fill its command area and set FULL; any other sets OVR. -/
def mb1Transfer (s : State) (ws : List (BitVec 32)) : State :=
  if s.boot.rst.isSome then s
  else if ws.length = 64 && !(s.mbox 1).full then
    s.modMbox 1 fun m => { m with cmd := BitVec.ofNat 2048 (leNat (ws.flatMap fun w => leBytes 4 w.toNat)), full := true, done := false }
  else s.modMbox 1 fun m => { m with ovr := true }

/-- SEC_MB1_TRANSFER (R345). -/
def execSecMb1Transfer (words : List (BitVec 32)) (s : State) : Host.Outcome State Fault Refusal :=
  answer (.secMb1Transfer words) (mb1Transfer s words)

/-- The last word of MB1's response has been accepted: DONE is cleared. -/
def mb1Response (s : State) : State :=
  match takeFirst (fun x => x.1) s.gaf.secOut with
  | some y =>
    let t : State := { s with gaf := { s.gaf with secOut := y.2 } }
    t.modMbox 1 fun m => { m with done := m.done && y.2.any fun x => x.1 }
  | none => s

/-- SEC_MB1_RESPONSE (R345). -/
def execSecMb1Response (s : State) : Host.Outcome State Fault Refusal := answer .secMb1Response (mb1Response s)

/-! ## Gaffer's restart (R311) -/

/-- Mismatches within 1 s of the count, this one included. -/
def gafRecent (s : State) : List Nat := s.tb :: s.flt.gafMis.filter fun t => s.tb < t + 1000000000

/-- Both copies reset and reload; the command being served has had no effect, and runs again; a third mismatch within 1 s is
F_GAFFER_GRAVE. -/
def gafferRestart (s : State) (ecc : Bool) : State :=
  let s1 : State := { s with gaf := { s.gaf with restart := true, serving := none } }
  if ecc then raise s1 (mkEv .gafferEcc 10 0)
  else
    let l := gafRecent s
    let s2 := raise { s1 with flt := { s1.flt with gafMis := l } } (mkEv .gafferLockstep 10 0)
    if 3 ≤ l.length then raise s2 (mkEv .gafferGrave 10 0) else s2

/-- GAFFER_LOCKSTEP (R311). -/
def execGafferLockstep (ecc : Bool) (s : State) : Host.Outcome State Fault Refusal :=
  answer (.gafferLockstep ecc) (if s.boot.rst.isSome then s else gafferRestart s ecc)

/-- Commits that had not taken effect run again from the start. -/
def commitAgain (s : State) (p : Parked) : State :=
  match p with
  | .commit mb => (match openTx s mb with
    | some t => commitFrom (unpark s fun x => x == p) mb { t with committing := none }
    | none => s)
  | _ => s

/-- GAFFER_RESTART_DONE (R311): mailbox service resumes. -/
def execGafferRestartDone (s : State) : Host.Outcome State Fault Refusal :=
  answer .gafferRestartDone (if s.gaf.restart then
    s.gaf.parked.foldl commitAgain { s with gaf := { s.gaf with restart := false } } else s)

end Sys2Proof.Machine
end

