-- ==== Sys2Proof/Machine/LinkCtlCmds.lean ====
section
/-! DEFINITION. Link control (R44 to R46, R56 to R60, R67): lane checks, repairs and reduced width, re-homing. -/
namespace Sys2Proof.Machine

/-! ## Taking LINKCTL frames -/

/-- The control block of a LINKCTL frame. -/
def ctlBlock (f : LinkCtl) : BitVec 128 := BitVec.ofNat 128 (leAt f.payload 0 16)

/-- The oldest LINKCTL frame of a LOP that a direction has brought. -/
def takeLop (s : State) (d : LinkDir) (lop : Nat) : Option (BitVec 128 × LinkCtl × State) :=
  (takeFirst (fun f => fld (ctlBlock f) 0 8 == lop) (s.link d).ctlIn).map fun x =>
    (ctlBlock x.1, x.1, s.modLink d fun l => { l with ctlIn := x.2 })

/-! ## Width and repair (R44 to R46) -/

/-- Units of `u` bytes cut again from those of `v` bytes, beats of `w` bytes. -/
def recutUnits (w v u : Nat) (l : List Beat) : List Beat :=
  (runs (w / v) (l.length + 1) l).flatMap fun r =>
    let data := r.flatMap (·.data)
    let sof := match r with | b :: _ => b.sof | [] => false
    let eof := match r.getLast? with | some b => b.eof | none => false
    let g := match r with | b :: _ => b.gid | [] => 0
    let m := w / u
    (List.range m).map fun i => ⟨sof && i == 0, eof && i + 1 == m, slice data (u * i) u, g⟩

/-- A sender's queue at a new width: beats that the receiver has not taken whole are sent again. -/
def recutTx (w v u : Nat) (t : TxChan) : TxChan :=
  let k := w / v
  let acc := t.acc - t.acc % k
  let all := t.sent ++ t.ready
  { t with ready := recutUnits w v u (all.drop acc), sent := recutUnits w v u (all.take acc), acc := acc / k * (w / u) }

/-- A direction takes a width from its next beat. -/
def setWidth (s : State) (d : LinkDir) (x : Width) : State :=
  let old := (s.link d).width
  if old = x then s
  else
    let w := linkW d.link
    s.modLink d fun l => { l with
      width := x
      tx := tabMap {} (fun _ t => recutTx w (unitBytes d.link old) (unitBytes d.link x) t) l.tx
      rx := tabMap {} (fun _ r => { r with part := [], dup := 0 }) l.rx }

/-- Lane groups of a link: its data groups and the check group (R29). -/
def laneGroups (l : LinkId) : Nat := linkW l / 2 + 1

/-- Failed lanes of a group: those found in error now, and the one that the spare already carries. -/
def groupFails (l : LinkState) (fails : List LaneFail) (g : Nat) : List Nat :=
  (List.range 16).filter fun i => fails.contains (.lane (16 * g + i)) || l.spares.contains (g, i)

/-- The spare lane of a group fails. -/
def spareFails (l : LinkState) (fails : List LaneFail) (g : Nat) : Bool := fails.contains (.spare g) || l.spareBad.contains g

/-- A group that its spare cannot make whole (R45). -/
def groupBad (l : LinkState) (fails : List LaneFail) (g : Nat) : Bool :=
  match groupFails l fails g with
  | [] => false
  | [_] => spareFails l fails g
  | _ => true

/-- MODE of a LANE_REPORT (Table 2-14): full width, the lower or the upper data half, or neither (R45). A half that is out
of use already stays out. -/
def laneMode (id : LinkId) (l : LinkState) (fails : List LaneFail) : Nat :=
  let n := linkW id / 4
  let bad := groupBad l fails
  let lo := (List.range n).any bad || l.width == .upper
  let hi := ((List.range n).any fun g => bad (n + g)) || l.width == .lower
  let chk := bad (2 * n)
  if !lo && !hi && !chk then 0
  else match id with
    | .cell _ => 3
    | .standby _ => 3
    | _ => if !lo && !(chk && bad n) then 1 else if !hi && !(chk && bad 0) then 2 else 3

/-- Lanes newly carried by their spares. -/
def newSpares (id : LinkId) (l : LinkState) (fails : List LaneFail) : List (Nat × Nat) :=
  (List.range (laneGroups id)).filterMap fun g =>
    match groupFails l fails g with
    | [i] => if groupBad l fails g || l.spares.contains (g, i) then none else some (g, i)
    | _ => none

/-- Groups whose spare was found in error. -/
def newBadSpares (l : LinkState) (fails : List LaneFail) : List Nat :=
  (fails.filterMap fun f => match f with | .spare g => some g | .lane _ => none).filter fun g => !l.spareBad.contains g

/-- Code of a link in a lane repair entry (Table 13-6). -/
def linkCode : LinkId → Nat × Nat
  | .cell c => (0, c) | .standby c => (1, c) | .block b => (2, b) | .region r => (3, r) | .half h => (4, h)

/-- A lane repair entry (Table 13-6). -/
def laneEntry (d : LinkDir) (g i mode : Nat) : BitVec 32 :=
  pack 32 [(0, 3, (linkCode d.link).1), (3, 13, (linkCode d.link).2), (16, 1, b2n d.down), (17, 9, g), (26, 4, i), (30, 2, mode)]

/-- Insert into an ascending list without repeats (Table 13-5). -/
def insertEntry (x : BitVec 32) : List (BitVec 32) → List (BitVec 32)
  | [] => [x]
  | y :: r => if x = y then y :: r else if x.toNat < y.toNat then x :: y :: r else y :: insertEntry x r

/-- Repair entries that the failures add. -/
def repairEntries (d : LinkDir) (l : LinkState) (fails : List LaneFail) (mode : Nat) : List (BitVec 32) :=
  let sp := (newSpares d.link l fails).map fun e => laneEntry d e.1 e.2 0
  if mode = 1 ∨ mode = 2 then
    sp ++ ((List.range (laneGroups d.link)).filter fun g => groupBad l fails g).map fun g =>
      laneEntry d g ((groupFails l fails g).headD 0) mode
  else sp

/-- Most entries that a LANE_MAP record holds (R358). -/
def laneMapCap : Nat := 15585

/-- An entry joins the lane map in force, and a record becomes due; one that the record cannot hold raises F_LEHR_SECTOR (R358). -/
def addRepair (s : State) (e : BitVec 32) : State :=
  if s.lehr.laneMap.contains e then s
  else if s.lehr.laneMap.length < laneMapCap then confDue { s with lehr := { s.lehr with laneMap := insertEntry e s.lehr.laneMap } } 1
  else raise s { mkEv .lehrSector 12 0 with cseq := 0xFFFFFFFE }

/-- The entries of a check, one after the other. -/
def addRepairs (s : State) (es : List (BitVec 32)) : State := es.foldl addRepair s

/-- Width of a MODE. -/
def modeWidth : Nat → Width
  | 1 => .lower | 2 => .upper | _ => .full

/-- Apply the outcome of a check or a training wave to a direction: spares, width, Lehr's map (R44, R45, R382). -/
def applyRepair (s : State) (d : LinkDir) (fails : List LaneFail) (mode : Nat) : State :=
  let l := s.link d
  let s1 := addRepairs s (repairEntries d l fails mode)
  let s2 := s1.modLink d fun x => { x with
    spares := x.spares ++ newSpares d.link l fails, spareBad := x.spareBad ++ newBadSpares l fails }
  if mode = 3 then s2 else setWidth s2 d (modeWidth mode)

/-- Events of a judged check: F_LANE_SPARED per lane newly spared, F_LINK_HALF for a direction that drops to half width. -/
def repairEvents (d : LinkDir) (l : LinkState) (fails : List LaneFail) (mode : Nat) : List Event :=
  (if mode = 3 then [] else (newSpares d.link l fails).map fun e => linkEv .laneSpared d 0 (16 * e.1 + e.2)) ++
  (if (mode = 1 && l.width != .lower) || (mode = 2 && l.width != .upper) then [linkEv .linkHalf d 0 0] else [])

/-! ## Lane checks (R44, R67) -/

/-- A LANE_CHECK frame: a request holds the opposite direction and is answered on it; an answer starts the count. -/
def laneCheckIn (s : State) (d : LinkDir) : State :=
  match takeLop s d 1 with
  | none => s
  | some (b, _, t) =>
    let n := fld b 16 24
    if bit b 8 then
      t.modLink d fun l => match l.chk with | .asked k _ => { l with chk := .running k } | _ => l
    else
      let c := revDir d
      (queueCtl t c (linkCtl (txNode c) [(0, 8, 1), (8, 1, 1), (16, 24, n)] [])).modLink c fun l =>
        { l with hold := true, prbsDue := some n }

/-- LANE_CHECK (R44, R46, R67): the oldest LANE_CHECK frame that `d` has brought. -/
def execLaneCheck (d : LinkDir) (s : State) : Host.Outcome State Fault Refusal := answer (.laneCheck d) (laneCheckIn s d)

/-- Number of a failed lane in a LANE_REPORT (Table 2-15). -/
def laneWord : LaneFail → Nat
  | .lane i => i % 8192
  | .spare g => g % 8192 + 8192

/-- The MODE of the LANE_REPORT: 3 with more failed lanes than it can list (Table 2-14); at eighth width a check only reports (R46). -/
def checkMode (d : LinkDir) (l : LinkState) (fails : List LaneFail) : Nat :=
  if 2040 < fails.length then 3 else if l.width = .eighth then 0 else laneMode d.link l fails

/-- What the receiver of a direction does when neither data half is whole (R45, R56). -/
def modeFail (s : State) (d : LinkDir) : State :=
  match d.link, d.down with
  | .cell c, true => homeLostBy s c 2
  | .cell _, false => s
  | .block b, false => rehomeStart s b
  | .block _, true => s
  | .standby c, _ => standbyFail s d c
  | _, _ => raise s (linkEv .linkLost d 0 0)

/-- The count of a lane check ends: the receiver judges the lanes and reports them (R44, R45, R67). -/
def countEnd (s : State) (d : LinkDir) (fails : List LaneFail) : State :=
  let l := s.link d
  match l.chk with
  | .running _ =>
    let mode := checkMode d l fails
    let excess := 2040 < fails.length
    let ents := if excess then [] else fails.map laneWord
    let rep := linkCtl (rxNode d) [(0, 8, 2), (40, 2, mode), (42, 1, b2n excess), (43, 12, ents.length)] ents
    let s1 := (queueCtl s (revDir d) rep).modLink d fun l => { l with chk := .counted mode excess fails l.cyc }
    if l.width = .eighth then s1
    else
      let s2 := raiseAll s1 (repairEvents d l fails mode)
      if mode = 3 then modeFail s2 d else s2
  | _ => s

/-- PRBS_COUNT_END (R44, R45). -/
def execPrbsCountEnd (d : LinkDir) (fails : List LaneFail) (s : State) : Host.Outcome State Fault Refusal :=
  answer (.prbsCountEnd d fails) (countEnd s d fails)

/-- What the sender of a direction does when the report says that neither data half is whole (R45, R56). -/
def reportFail (s : State) (d : LinkDir) : State :=
  match d.link, d.down with
  | .cell c, false => homeLostBy s c 2
  | .block b, true => rehomeStart s b
  | _, _ => s

/-- A LANE_REPORT: both ends apply the MODE and the spares, and the held beats resume (R67). -/
def laneReportIn (s : State) (d : LinkDir) : State :=
  match takeLop s d 2 with
  | none => s
  | some (_, _, t) =>
    let c := revDir d
    match (t.link c).chk with
    | .counted mode _ fails _ =>
      let eighth : Bool := (t.link c).width = .eighth
      let t1 := if eighth then t else applyRepair t c fails mode
      let t2 := t1.modLink c fun l => { l with chk := .idle, hold := false, prbs := false, prbsLeft := 0, lost := l.lost || (!eighth && mode = 3) }
      if !eighth && mode = 3 then reportFail t2 c else t2
    | _ => t

/-- LANE_REPORT (R44, R45, R56, R67): the oldest LANE_REPORT frame that `d` has brought. -/
def execLaneReport (d : LinkDir) (s : State) : Host.Outcome State Fault Refusal := answer (.laneReport d) (laneReportIn s d)

/-- An answer has not arrived within 256 cycles: the node that began the exchange starts it again (R67). -/
def ctlRetry (s : State) (d : LinkDir) : State :=
  let l := s.link d
  let s1 := match l.chk with
    | .asked n t => if t + 256 ≤ l.cyc then askCheck s d n else s
    | _ => s
  match d.link, l.homeAsk with
  | .standby c, some (why, t) =>
    if d.down && t + 256 ≤ l.cyc then
      queueCtl (s1.modLink d fun x => { x with homeAsk := some (why, x.cyc) }) ⟨.standby c, false⟩ (homeLostFrame c why)
    else s1
  | _, _ => s1

/-- LINKCTL_RETRY (R67). -/
def execLinkctlRetry (d : LinkDir) (s : State) : Host.Outcome State Fault Refusal := answer (.linkctlRetry d) (ctlRetry s d)

/-! ## Re-homing (R56 to R60, Table 2-9) -/

/-- HOME_LOST: the buddy passes it to the region hub, and the region hub starts the re-home (R57). -/
def homeLostIn (s : State) (d : LinkDir) : State :=
  match takeLop s d 3 with
  | none => s
  | some (b, f, t) =>
    match d.link with
    | .standby c => queueCtl t ⟨.block (buddy (blockOfCell c)), false⟩ { f with slvl := 2, sidx := buddy (blockOfCell c) }
    | .block _ => rehomeStart t (fld b 55 6)
    | _ => t

/-- HOME_LOST (R56, R57, R67): the oldest HOME_LOST frame that `d` has brought. -/
def execHomeLost (d : LinkDir) (s : State) : Host.Outcome State Fault Refusal := answer (.homeLost d) (homeLostIn s d)

/-- Nothing is left on a link direction: no beat, no return. -/
def wipeLink (l : LinkState) : LinkState := { l with tx := [], rx := [], rets := [], retIn := [] }

/-- Cell c sends again over a link every up chunk that it retains; its new hub has taken none of them (R39, Table 2-9). -/
def cellResend (s : State) (c : Nat) (d : LinkDir) (ctx : Bool) : State :=
  (List.range 16).foldl (fun t ch =>
    let t1 := t.modNchan (.cell c) ch false fun x => { x with
      downComing := [], up := (x.up.filter fun u => !u.gone).map fun u => { u with heldUp := false } }
    queueFrames t1 d ch ctx ((t1.nchan (.cell c) ch false).up.map (·.frame))) s

/-- Cell c leaves its primary link for its standby link, and sends again every up chunk it retains (Table 2-9, step 4). -/
def cellSwitch (s : State) (c : Nat) : State :=
  let b := blockOfCell c
  if switched s c then s
  else
    let s1 := s.modRehome b fun x =>
      let cs := x.cells ++ [c]
      { x with cells := cs, step := if cs.length = 20 then 4 else x.step }
    let s2 := s1.modLink ⟨.cell c, false⟩ wipeLink
    let s3 := s2.modLink ⟨.cell c, true⟩ wipeLink
    let s4 := s3.modLink ⟨.standby c, true⟩ fun l => { l with homeAsk := none }
    cellResend s4 c ⟨.standby c, false⟩ true

/-- REHOME_GO: the buddy sends it to the 20 cells of the block named, and each cell switches (R57). -/
def rehomeGoIn (s : State) (d : LinkDir) : State :=
  match takeLop s d 4 with
  | none => s
  | some (b, _, t) =>
    let blk := fld b 55 6
    match d.link with
    | .block h =>
      (List.range 20).foldl (fun u i => queueCtl u ⟨.standby (20 * blk + i), true⟩ (linkCtl (.block h) [(0, 8, 4), (55, 6, blk)] []))
        (t.modRehome blk fun x => { x with step := max 3 x.step })
    | .standby c => cellSwitch t c
    | _ => t

/-- REHOME_GO (R57, R58, R67): the oldest REHOME_GO frame that `d` has brought. -/
def execRehomeGo (d : LinkDir) (s : State) : Host.Outcome State Fault Refusal := answer (.rehomeGo d) (rehomeGoIn s d)

end Sys2Proof.Machine
end

