-- ==== Sys2Proof/Machine/ReturnCmds.lean ====
section
/-! DEFINITION. Units return to service: retest, shadow, takeover (R320 to R323, Table 11-7). -/
namespace Sys2Proof.Machine

/-! ## Naming a unit -/

/-- The unit and copy that a payload names (SKIND of Table 11-2; copy 0 A, 1 B, 0xFF the whole unit). -/
def unitNamed (p : BitVec 1920) : Option (UnitId × Bool) :=
  let i := pby p 2 2
  let c := pby p 1 1
  let copy (n : NodeId) (cap : Nat) : Option (UnitId × Bool) := if c < 2 && i < cap then some (.copy n, c == 1) else none
  let whole (u : UnitId) (cap : Nat) : Option (UnitId × Bool) := if c == 0xFF && i < cap then some (u, false) else none
  match pby p 0 1 with
  | 1 => copy (.cell i) 1280
  | 2 => whole (.blockHub i) 64
  | 3 => copy (.region i) 8
  | 4 => copy (.half i) 2
  | 5 => copy .spine 1
  | 6 => whole (.slice i) 16
  | 9 => whole (.cane i) 64
  | _ => none

/-- Byte of the field that keeps a payload from naming a unit: the SKIND, the copy, else the SIDX. -/
def unitOffset (p : BitVec 1920) : Nat :=
  let k := pby p 0 1
  let c := pby p 1 1
  if !([1, 2, 3, 4, 5, 6, 9].contains k) then 0 else if [2, 6, 9].contains k != (c == 0xFF) then 1 else 2

/-- Source kind and number of a unit. -/
def unitSrc : UnitId → Nat × Nat
  | .copy n => (n.skind, n.idx) | .blockHub b => (2, b) | .slice i => (6, i) | .cane cn => (9, cn)

/-- The unit is out of service (Table 11-7). -/
def outOfService (s : State) (u : UnitId) (copyB : Bool) : Bool :=
  match u with
  | .copy n => (s.node n).fenced == some copyB
  | .blockHub b => 2 ≤ (s.rehome b).step
  | .slice i => (s.sliceOf i).retired
  | .cane cn => (s.cchan cn).lost

/-- The return in progress of a unit. -/
def returnOf (s : State) (u : UnitId) : Option UnitRet := s.flt.returns.find? fun r => r.u == u

/-- The return of a unit is over. -/
def dropReturn (s : State) (u : UnitId) : State := { s with flt := { s.flt with returns := s.flt.returns.filter fun r => r.u != u } }

/-- Change the return of a unit. -/
def modReturn (s : State) (u : UnitId) (f : UnitRet → UnitRet) : State :=
  { s with flt := { s.flt with returns := s.flt.returns.map fun r => if r.u == u then f r else r } }

/-! ## UNIT_RETURN, UNIT_ABANDON, RETEST_DONE (R320, R321) -/

/-- UNIT_RETURN: answered as the retest starts. -/
def unitReturn (s : State) (mb : Nat) (p : BitVec 1920) : State :=
  match unitNamed p with
  | none => replyAt s mb .range (unitOffset p)
  | some (u, c) =>
    if !outOfService s u c then reply s mb .conflict
    else if (returnOf s u).isSome then reply s mb .busy
    else
      let r : UnitRet := { u := u, copyB := c, notify := if bit p 47 then some (fld p 32 15) else none }
      reply { s with flt := { s.flt with returns := s.flt.returns ++ [r] } } mb .ok

/-- UNIT_RETURN (R320). -/
def execUnitReturn (s : State) : Host.Outcome State Fault Refusal := answer .unitReturn (serveOp s 0x0608 unitReturn)

/-- A slice in shadow is powered; out of it, it is gated again (R372). -/
def shadowPower (s : State) (u : UnitId) (on : Bool) : State :=
  match u with
  | .slice i => s.modSlice i fun y => { y with powered := on }
  | _ => s

/-- UNIT_ABANDON: the return ends before takeover. -/
def unitAbandon (s : State) (mb : Nat) (p : BitVec 1920) : State :=
  match unitNamed p with
  | none => replyAt s mb .range (unitOffset p)
  | some (u, c) => match returnOf s u with
    | some r => if r.copyB == c then reply (shadowPower (dropReturn s u) u false) mb .ok else reply s mb .conflict
    | none => reply s mb .conflict

/-- UNIT_ABANDON (R320). -/
def execUnitAbandon (s : State) : Host.Outcome State Fault Refusal := answer .unitAbandon (serveOp s 0x0609 unitAbandon)

/-- A return ends: its event, and the SIGNAL to the SOID that the command named. -/
def endReturn (s : State) (r : UnitRet) (e : Event) : State :=
  let t := raise (dropReturn s r.u) e
  match r.notify with
  | some i => gafferSignal t (s.obj i).tid (some i)
  | none => t

/-- An event whose source is the unit. -/
def unitEv (code : FCode) (u : UnitId) : Event := mkEv code (unitSrc u).1 (unitSrc u).2

/-- The retest ends: shadow begins, or F_RETEST_FAIL. -/
def retestEnd (s : State) (u : UnitId) (pass : Bool) : State :=
  match returnOf s u with
  | some r =>
    if r.shadow then s
    else if pass then shadowPower (modReturn s u fun x => { x with shadow := true, agree := 0 }) u true
    else endReturn s r (unitEv .retestFail u)
  | none => s

/-- RETEST_DONE (R321). -/
def execRetestDone (u : UnitId) (pass : Bool) (s : State) : Host.Outcome State Fault Refusal := answer (.retestDone u pass) (retestEnd s u pass)

/-! ## Takeover (Table 11-7, R322, R323) -/

/-- A copy is no longer fenced. -/
def unfence (s : State) (n : NodeId) (copyB : Bool) : State :=
  let t := s.modNode n fun x => { x with fenced := none }
  confDue { t with lehr := { t.lehr with fence := t.lehr.fence.filter fun w => w != fenceEntry n copyB } } 3

/-- A link direction without the beats and returns of some keys. -/
def wipeKeys (ks : List Nat) (l : LinkState) : LinkState :=
  { l with
    tx := l.tx.filter fun e => !ks.contains e.1
    rx := l.rx.filter fun e => !ks.contains e.1
    rets := l.rets.filter fun e => !ks.contains e.1
    retIn := l.retIn.filter fun e => !ks.contains e.2 }

/-- Keys of the foreign context. -/
def foreignKeys : List Nat := (List.range 16).map fun ch => chCtx ch true

/-- A link is in use again, with nothing on it. -/
def freshLink (s : State) (l : LinkId) : State :=
  [false, true].foldl (fun t dn => t.modLink ⟨l, dn⟩ fun x => { wipeLink x with lost := false, liveAge := 0 }) s

/-- Block b is home again, and Lehr is to be told (R323). -/
def homeAgain (s : State) (b : Nat) : State :=
  let t := s.modRehome b fun _ => {}
  confDue { t with lehr := { t.lehr with rehomeB := setBit t.lehr.rehomeB b false } } 2

/-- What direction `a` carries for each channel under one context goes over to direction `z` under another, at the width of `z`; a beat in the
middle of being driven is driven there from its first slice. -/
def moveChans (s : State) (a z : LinkDir) (ca cz : Bool) : State :=
  let l := s.link a
  let u := unitBytes a.link l.width
  let v := unitBytes z.link (s.link z).width
  let ks := (List.range 16).map fun ch => (chCtx ch ca, chCtx ch cz)
  let rets := ks.flatMap fun k => (l.retIn.filter fun e => e.2 == k.1).map fun e => (e.1, k.2)
  (s.modLink z fun m => { m with
    tx := ks.foldl (fun x k => tabSet {} x k.2 (recutTx (linkW a.link) u v (tabGet {} l.tx k.1))) m.tx
    rx := ks.foldl (fun x k => tabSet {} x k.2 { tabGet {} l.rx k.1 with part := [], dup := 0 }) m.rx
    rets := ks.foldl (fun x k => tabSet {} x k.2 (tabGet {} l.rets k.1)) m.rets
    retIn := m.retIn ++ rets }).modLink a (wipeKeys (ks.map (·.1)))

/-- Both directions of a link. -/
def moveLink (s : State) (a z : LinkId) (ca cz : Bool) : State :=
  [false, true].foldl (fun t dn => moveChans t ⟨a, dn⟩ ⟨z, dn⟩ ca cz) s

/-- Hub b, which has followed its buddy in shadow, takes over: each channel of the foreign context goes on at hub b where the buddy left it, on the
primary links, with no chunk sent again (Table 11-7). DESIGN CHOICE (log entry 88): one command stands for the chunk boundaries of every channel. -/
def hubBack (s : State) (b : Nat) : State :=
  let h := buddy b
  let s1 := (List.range 16).foldl (fun t ch =>
    (t.modNchan (.block b) ch false fun _ => t.nchan (.block h) ch true).modNchan (.block h) ch true fun _ => {}) s
  let s2 := moveLink (freshLink s1 (.block b)) (.block h) (.block b) true false
  homeAgain ((List.range 20).foldl (fun t i =>
    let c := 20 * b + i
    let u := freshLink t (.cell c)
    if switched t c then moveLink u (.standby c) (.cell c) true false else cellResend u c ⟨.cell c, false⟩ false) s2) b

/-- Hub b takes its cells back from a buddy that has failed: the region hub rewinds and resends slot b, and every cell resends over its primary
link (R322, Table 2-9). -/
def hubRetake (s : State) (b : Nat) : State :=
  let h := buddy b
  let r := regionOfBlock b
  let cs := (List.range 20).map fun i => 20 * b + i
  let s1 := (List.range 16).foldl (fun t ch => t.modNchan (.block h) ch true fun _ => {}) s
  let s2 := [false, true].foldl (fun t dn => t.modLink ⟨.block h, dn⟩ (wipeKeys foreignKeys)) s1
  let s3 := cs.foldl (fun t c => [false, true].foldl (fun u dn => u.modLink ⟨.standby c, dn⟩ wipeLink) (freshLink t (.cell c))) (freshLink s2 (.block b))
  let s4 := s3.modRehome b fun _ => {}
  let s5 := (List.range 16).foldl (fun t ch => resendDown (rewindRegion t r (b % 8) ch) (.region r) ch false (b % 8)) s4
  homeAgain (cs.foldl (fun t c => cellResend t c ⟨.cell c, false⟩ false) s5) b

/-- A slice joins the free slices. -/
def sliceBack (s : State) (i : Nat) : State :=
  let t := s.modSlice i fun y => { y with retired := false, powered := true, asked := false, lastTake := s.tb, mism := [] }
  confDue { t with lehr := { t.lehr with slices := setBit t.lehr.slices i false } } 4

/-- A Cane channel is no longer fenced. -/
def caneBack (s : State) (cn : Nat) : State :=
  let t := s.modCchan cn fun c => { c with lost := false }
  { t with cane := { t.cane with flags := t.cane.flags.filter fun f => f.2.2.2.1 != cn } }

/-- The returning unit takes over. -/
def takeOver (s : State) (r : UnitRet) : State :=
  match r.u with
  | .copy n => unfence s n r.copyB
  | .blockHub b => hubBack s b
  | .slice i => sliceBack s i
  | .cane cn => caneBack s cn

/-- The unit being replaced has failed: what follows when no return is in progress. -/
def liveDown (s : State) (r : UnitRet) : State :=
  match r.u with
  | .copy n => raise (s.modNode n fun x => { x with nodeLost := true }) (copyEvent s .nodeLost n 0 0 none)
  | .blockHub b => rehomeStart s (buddy b)
  | .slice _ => s
  | .cane _ => s

/-- The unit being replaced has failed after 256 agreements or more: takeover at once, and the failed unit leaves service (R322). -/
def takeOverNow (s : State) (r : UnitRet) : State :=
  match r.u with
  | .copy n => fenceCopy (unfence s n r.copyB) n (!r.copyB)
  | .blockHub b => rehomeStart (hubRetake s b) (buddy b)
  | _ => takeOver s r

/-- F_SHADOW_FAIL, with the chunks that agreed. -/
def shadowFail (s : State) (r : UnitRet) : State :=
  endReturn (shadowPower s r.u false) r { unitEv .shadowFail r.u with cseq := BitVec.ofNat 32 r.agree }

/-- A chunk or piece has been compared in shadow. -/
def shadowStep (s : State) (u : UnitId) (agree liveFailed : Bool) : State :=
  match returnOf s u with
  | none => s
  | some r =>
    if !r.shadow then s
    else if liveFailed then
      if 256 ≤ r.agree then endReturn (takeOverNow s r) r (unitEv .unitReturned u) else shadowFail (liveDown s r) r
    else if !agree then shadowFail s r
    else if 4096 ≤ r.agree + 1 then endReturn (takeOver s r) r (unitEv .unitReturned u)
    else modReturn s u fun x => { x with agree := x.agree + 1 }

/-- SHADOW_COMPARE (R321, R322). -/
def execShadowCompare (u : UnitId) (agree liveFailed : Bool) (s : State) : Host.Outcome State Fault Refusal :=
  answer (.shadowCompare u agree liveFailed) (shadowStep s u agree liveFailed)

end Sys2Proof.Machine
end

