-- ==== Sys2Proof/Machine/BootCmds.lean ====
section
/-! DEFINITION. Resets (R373 to R377, Table 14-2), loss of power, and the boot (R366, R367, R378 to R383, Tables 13-8 and 14-4). -/
namespace Sys2Proof.Machine

/-- What the device itself holds, where the target of a job in progress has not been valid since it began (R354, R363); and the hour of powered time
with what is left of its budget, which no reset renews (R362, log entry 84). -/
def deviceOf (l : Lehr) : Lehr :=
  { dlog := l.dlog, sfdp := l.sfdp, anchors := l.anchors, images := l.images, sectors := l.sectors, budget := l.budget, hourStart := l.hourStart
    hourPast := l.hourPast }

/-! ## The internal resets (Table 14-2) -/

/-- Faults across a reset: cold keeps Cullet only under the C4 latch; the others keep it and release the freeze (R304). -/
def fltAfter (s : State) (k : ResetKind) : Faults :=
  let f := s.flt
  let kept : Faults := { ring := f.ring, wseq := f.wseq, total := f.total, drop := f.drop }
  match k with
  | .cold => if f.c4 then { kept with c4 := true, fatal := f.fatal } else {}
  | .blk => { kept with c4 := f.c4, fatal := f.c4 && f.fatal, c2pend := f.c2pend, lastf := f.lastf }
  | .svc => { kept with c4 := f.c4, fatal := f.fatal, c2pend := f.c2pend, lastf := f.lastf, polled := f.polled, tesc := f.tesc }

/-- MB0 keeps its areas, DONE and OVR; FULL is cleared but for SERVICE_RESET itself. -/
def gafAfter (s : State) (k : ResetKind) : Gaffer :=
  let m : Mailbox := { s.mbox 0 with full := k == .svc }
  match k with
  | .cold => {}
  | _ => { mbs := tabSet {} [] 0 m, nextTx := s.gaf.nextTx, parked := if k == .svc then [.serviceReset] else [] }

/-- Host window across a reset: MSGEN, the message address and data, the enables of MB0 and of the fault classes are kept
by block and service reset. -/
def hostAfter (s : State) (k : ResetKind) : HostWin :=
  match k with
  | .cold => {}
  | _ => { msgen := s.host.msgen, msgAddr := s.host.msgAddr, dbase := s.host.dbase, mbie := s.host.mbie &&& 1, fie := s.host.fie }

/-- Boot registers across a reset: test mode is left by a cold reset alone, placement and power cap stay across service reset. -/
def bootAfter (s : State) (k : ResetKind) : Boot :=
  let b := s.boot
  match k with
  | .cold => { rst := some .cold }
  | .blk => { rst := some .blk, testMode := b.testMode }
  | .svc => { rst := some .svc, testMode := b.testMode, placed := b.placed, x := b.x, y := b.y, z := b.z, nx := b.nx, ny := b.ny, nz := b.nz
              rates := b.rates, cap := b.cap, tbsub := b.tbsub }

/-- Memory ports across a service reset: tags whose last response is still due stay out of use (R375). -/
def mpsAfter (s : State) (k : ResetKind) : Tab MemPort :=
  match k with
  | .svc => tabMap {} (fun _ m => { tags := tabMap none (fun _ t => t.map fun r => { r with abandoned := true }) m.tags }) s.mrv.mps
  | _ => []

/-- The core sleeps with its clock gated, or may. -/
def sleepsGated (p : CorePort) : Bool := match p.wait with | some w => w.gate | none => false

/-- Core ports across a reset: every register takes its reset value. A block or service reset wakes the sleeping cores; cp_cg_ack is
the core's own, and cp_wake stays until the core lowers it (R154, R186, R188). -/
def portsAfter (s : State) (k : ResetKind) : Tab CorePort :=
  match k with
  | .cold => []
  | _ => tabMap {} (fun _ p => { cgAck := p.cgAck, wake := p.wake || sleepsGated p }) s.ports

/-- The state after the internal reset. -/
def resetTo (s : State) (k : ResetKind) : State :=
  { tb := s.tb, freeCtr := s.freeCtr, pending := s.pending
    boot := bootAfter s k, flt := fltAfter s k, gaf := gafAfter s k, host := hostAfter s k
    grp := { lclass := if k == .svc then s.grp.lclass else [] }
    ports := portsAfter s k, mrv := { mps := mpsAfter s k }
    lehr := deviceOf s.lehr
    test := if k == .cold then {} else s.test }

/-- The release from which the boot is timed: SPINE, H0 and H1 run, the link ports can take part, and fl_reset_n rises 2 us later
(R351, R377, Table 14-4). In test mode nothing starts (R416). -/
def bootBegins (s : State) (test : Bool) : State :=
  let t : State := { s with boot := { s.boot with rst := none, testMode := test, stage := if test then 0 else 1 } }
  if test then t
  else (List.range 6).foldl (fun u p => u.modLport p fun l => { l with rst := false }) { t with lehr := { t.lehr with rstHigh := some (t.tb + 2000) } }

/-- RST_COLD (R373): precedence over every other reset; absorbed by a cold reset in progress. -/
def execRstCold (s : State) : Host.Outcome State Fault Refusal :=
  answer .rstCold (if s.boot.rst == some .cold then s else resetTo s .cold)

/-- RST_COLD_RELEASE (R368, R373, R416). -/
def execRstColdRelease (tstEn : Bool) (s : State) : Host.Outcome State Fault Refusal :=
  answer (.rstColdRelease tstEn) (if s.boot.rst == some .cold && s.boot.powered then bootBegins s tstEn else s)

/-- RST_BLK (R373): takes over a service reset; absorbed by a cold or block reset in progress. -/
def execRstBlk (s : State) : Host.Outcome State Fault Refusal :=
  answer .rstBlk (if s.boot.rst == some .cold || s.boot.rst == some .blk then s else resetTo s .blk)

/-- RST_BLK_RELEASE (R373). -/
def execRstBlkRelease (s : State) : Host.Outcome State Fault Refusal :=
  answer .rstBlkRelease (if s.boot.rst == some .blk then bootBegins s s.boot.testMode else s)

/-- Power is lost: nothing stays but what the device holds, and the C4 latch until the power-on detector acts (R319, R363). -/
def powerLoss (s : State) : State :=
  { tb := s.tb, freeCtr := s.freeCtr, pending := s.pending, boot := { rst := some .cold, powered := false }, flt := { c4 := s.flt.c4 }
    lehr := { deviceOf s.lehr with hourPast := s.tb - s.lehr.hourStart } }

/-- POWER_LOSS (R363). -/
def execPowerLoss (s : State) : Host.Outcome State Fault Refusal := answer .powerLoss (if s.boot.powered then powerLoss s else s)

/-- POWER_ON (R319): the power-on detector clears the C4 latch; the block waits for the release of rst_cold_n. The hour of powered time goes on. -/
def execPowerOn (s : State) : Host.Outcome State Fault Refusal :=
  answer .powerOn (if s.boot.powered then s else
    { s with boot := { s.boot with powered := true, rst := some .cold }, flt := { s.flt with c4 := false, fatal := false }
             lehr := { s.lehr with hourStart := s.tb - s.lehr.hourPast, hourPast := 0 } })

/-! ## Service reset (R375) -/

/-- SERVICE_RESET parks; a reset is in progress from its step 1, which waits for the flash operation in progress; a C3 event is handled (R315). -/
def serviceReset (s : State) (_ : Nat) (_ : BitVec 1920) : State :=
  let t := park s .serviceReset
  let u := flashStart { t with
    boot := { t.boot with rst := some .svc, level := .dark, svcStep := 1, wave := 0 }, flt := { t.flt with c3timer := none }
    lehr := { t.lehr with ops := t.lehr.ops.filter svcKeeps, held := t.lehr.held.filter fun h => svcKeeps h.1 } }
  if u.lehr.cur.isSome then u else svcMid u

/-- SERVICE_RESET (R375). -/
def execServiceReset (s : State) : Host.Outcome State Fault Refusal := answer .serviceReset (serveOp s 0x0607 serviceReset)

/-- A memory request waits for a response. -/
def memOut (s : State) : Bool := s.mrv.mps.any fun m => m.2.tags.any fun t => t.2.isSome

/-- The internal reset of a service reset, and the boot. Under the C4 latch the block stays at DARK, LIMP is never reached, and SERVICE_RESET is
answered with the status of R319 (DESIGN CHOICE, log entry 127). -/
def svcBoot (s : State) : State :=
  let t := bootBegins (resetTo s .svc) s.boot.testMode
  if t.flt.c4 then answerParked t (fun p => p == .serviceReset) .denied else t

/-- Every response has come, or 100 us have passed: the internal reset, and the boot. -/
def svcWait (s : State) : State :=
  if s.boot.svcStep = 4 && (!memOut s || decide (s.boot.svcSince + 100000 ≤ s.tb)) then svcBoot s else s

/-- SERVICE_RESET_MEM_WAIT (R375). -/
def execServiceResetMemWait (s : State) : Host.Outcome State Fault Refusal := answer .serviceResetMemWait (svcWait s)

/-! ## LIMP (R367, R375, R378) -/

/-- The block reaches LIMP, or stays at DARK in a block stop (R309), and a service reset is answered. -/
def enterLimp (s : State) : State :=
  answerParked { s with boot := { s.boot with level := if s.flt.bstop then .dark else .limp, stage := 5 } } (fun p => p == .serviceReset) .ok

/-- The log at this boot cannot be trusted: F_LEHR_ABSENT, ROM defaults at LIMP; the Cane's boot barrier serves (R367, R379). -/
def lehrGone (s : State) (det : Nat) : State :=
  let t : State := match anchorOf s with
    | some a => if det = 0 then { s with lehr := { s.lehr with trims := List.replicate 4062 8 } }
                else { s with boot := { s.boot with absent := a.absent }, lehr := { s.lehr with trims := a.trim } }
    | none => { s with lehr := { s.lehr with trims := List.replicate 4062 8 } }
  enterLimp { raise t { mkEv .lehrAbsent 12 0 with detail := BitVec.ofNat 16 det } with
    boot := { t.boot with lehrLimp := true }
    lehr := { t.lehr with absent := decide (det = 0) }
    gaf := { t.gaf with rom := true, vmaj := 3, vmin := 0 }
    cane := { t.cane with bootBar := true } }

/-- The block is booting: released, not in test mode, the C4 latch clear (R319, R416). -/
def booting (s : State) (st : Nat) : Bool :=
  s.boot.rst.isNone && s.boot.stage == st && !s.boot.testMode && !s.flt.c4 && s.boot.powered && !s.boot.lehrLimp

/-- FLASH_READY_TIMEOUT (R351, R367): the device has not reported ready 20 ms after fl_reset_n rose. -/
def execFlashReadyTimeout (s : State) : Host.Outcome State Fault Refusal :=
  answer .flashReadyTimeout (match s.lehr.rstHigh with
    | some t => if booting s 1 && !s.lehr.ready && t + 20000000 ≤ s.tb then lehrGone s 0 else s
    | none => s)

/-! ## The image (R347, R366) -/

/-- Verification of a slot begins: header and digest are checked, then the signature goes to the security block; none when the slot fails. -/
def askSlot (s : State) (b : Bool) : Option State :=
  let m := slotBytes s.lehr b
  if slotValid s b && imageHeadOk m && imageDigestOk m then
    some { s with gaf := { s.gaf with secOut := s.gaf.secOut ++ [(false, imageAsk m)], run := b } }
  else none

/-- A slot has failed: F_FW_IMAGE and the other slot, or, when both have failed, ROM defaults. -/
def slotFailed (s : State) (b : Bool) : State :=
  let s1 : State := { s with boot := { s.boot with bootTry := s.boot.bootTry + 1, verdict := none } }
  if 0 < s.boot.bootTry then lehrGone s1 1
  else
    let s2 := raise s1 { mkEv .fwImage 12 0 with detail := BitVec.ofNat 16 (b2n b) }
    match askSlot s2 (!b) with
    | some t => t
    | none => lehrGone { s2 with boot := { s2.boot with bootTry := s2.boot.bootTry + 1 } } 1

/-- Try a slot. -/
def trySlot (s : State) (b : Bool) : State := match askSlot s b with | some t => t | none => slotFailed s b

/-- BOOT_ANCHORS_APPLIED (R24, R366, R379, R381): ABSENT and TRIM are applied, the block is at CANE, and the selected image is verified;
with neither anchor valid, ROM defaults. A device whose SFDP table fails R350 counts as absent (R351, R367). -/
def anchorsApplied (s : State) : State :=
  if !booting s 1 then s
  else if !s.lehr.sfdp || s.lehr.dlog < 25 || 28 < s.lehr.dlog then lehrGone s 0
  else
    let t : State := { s with lehr := { s.lehr with ready := true } }
    match anchorOf t with
    | none => lehrGone t 1
    | some a =>
      trySlot { t with
        boot := { t.boot with absent := a.absent, stage := 2, level := if t.flt.bstop then .dark else .cane }
        lehr := { t.lehr with trims := a.trim }
        cane := { t.cane with bootBar := true } } a.sel

/-- BOOT_ANCHORS_APPLIED. -/
def execBootAnchorsApplied (s : State) : Host.Outcome State Fault Refusal := answer .bootAnchorsApplied (anchorsApplied s)

/-- A verdict word: bit 0 PASS with bit 1 clear accepts. It answers FW_UPDATE, or the verification of a boot. -/
def secWord (s : State) (w : BitVec 32) : State :=
  let ok := bit w 0 && !bit w 1
  match s.gaf.upd with
  | some u => if u.asked.isSome then (if ok then imageAccepted (verdictTaken s) u else endUpdate (verdictTaken s) .denied 0) else s
  | none =>
    if booting s 2 && s.boot.verdict.isNone && s.gaf.secOut.any fun x => !x.1 then
      (if ok then { verdictTaken s with boot := { s.boot with verdict := some true } } else slotFailed (verdictTaken s) s.gaf.run)
    else s

/-- SEC_VERDICT (R347). -/
def execSecVerdict (w : BitVec 32) (s : State) : Host.Outcome State Fault Refusal :=
  answer (.secVerdict w) (if s.boot.rst.isSome then s else secWord s w)

/-! ## Reading the log (Table 13-8, steps 4 to 6) -/

/-- The valid record at an offset of the log. -/
def recAtOffset (l : Lehr) (o : Nat) : Option Record := ((logRecs l).find? fun x => x.1 == o).map (·.2)

/-- Pointer of a sector's SECTOR record to the newest record of a kind; none when it has no valid one or points nowhere. -/
def sectorPtr (x : Sector) (k : Nat) : Option Nat :=
  match x.recs with
  | r :: _ => if r.torn then none else let o := leAt r.payload (8 + 4 * k) 4; if o = 0xFFFFFFFF then none else some o
  | [] => none

/-- Insert a sector by the RSN of its SECTOR record, highest first. -/
def insSector (e : Nat × Sector) : List (Nat × Sector) → List (Nat × Sector)
  | [] => [e]
  | x :: r => if ((x.2.recs.head?).map (·.rsn)).getD 0 < ((e.2.recs.head?).map (·.rsn)).getD 0 then e :: x :: r else x :: insSector e r

/-- The opened sectors, newest first; a SECTOR record that has become unreadable does not count. -/
def openSectors (l : Lehr) : List (Nat × Sector) :=
  (l.sectors.filter fun e => e.2.opened && match e.2.recs with | r :: _ => !r.torn | [] => false).foldl (fun a e => insSector e a) []

/-- Payload of the record in force of a kind, and the address of one that an older one had to replace: the newest of what the head holds and what
its SECTOR record points to, else the newest that an older SECTOR record points to (R366). -/
def bootRec (l : Lehr) (k : Nat) : List Byte × Option Nat :=
  match openSectors l with
  | [] => ([], none)
  | h :: older =>
    let good (o : Option Nat) : List (Nat × Record) := match o with
      | some a => (match recAtOffset l a with | some r => if r.kind == k then [(a, r)] else [] | none => [])
      | none => []
    let ptr := sectorPtr h.2 k
    let inHead := (placeRecs (sectorBase h.1) 0 h.2.recs).filter fun x => !x.2.torn && x.2.kind == k
    match newestRec k (inHead ++ good ptr) with
    | some x => (x.2.payload, none)
    | none => match newestRec k (older.flatMap fun e => good (sectorPtr e.2 k)), ptr with
      | some x, some a => (x.2.payload, some a)
      | _, _ => ([], none)

/-- FSEQ of the FAULT records queued before the log was read go on from the highest that it holds, so that none repeats (R364). -/
def rebaseFseq (n : Nat) : FlashOp → FlashOp
  | .record r =>
    let o := if r.kind == 8 then 36 else 0
    if isFaultKind r.kind then .record { r with payload := r.payload.take o ++ leBytes 4 (recFseq r + n) ++ r.payload.drop (o + 4) } else .record r
  | x => x

/-- A log sector as a boot finds it: the erase count is that of its SECTOR record, unknown where none is readable; a sector whose SECTOR record was
never whole is erased again before use (R354, R357, R363). -/
def bootSector (x : Sector) : Sector :=
  match x.opened, x.recs with
  | true, r :: q => if r.torn && q.isEmpty then {} else if r.torn then { x with erases := 0 } else x
  | _, _ => {}

/-- Words of 4 bytes. -/
def words4 (l : List Byte) : List (BitVec 32) := (List.range (l.length / 4)).map fun i => BitVec.ofNat 32 (leAt l (4 * i) 4)

/-- The ring, the head, the counts and the records in force, from the device; part-erased sectors are erased again. -/
def readLog (l : Lehr) : Lehr :=
  let l1 : Lehr := { l with sectors := tabMap {} (fun _ x => bootSector x) l.sectors }
  let sc := (bootRec l1 6).1
  let ret := (bootRec l1 5).1
  let gone := (List.range (logSectors l1.dlog)).filter fun i => (ret.getD (i / 8) 0).getLsbD (i % 8)
  let n := topFseq l1
  { l1 with
    head := ((openSectors l1).head?).map (·.1)
    nextRsn := topRsn l1 + 1
    fseq := n + l1.fseq
    ops := l1.ops.map (rebaseFseq n)
    noConf := goodSectors { l1 with retired := gone } < 4
    laneMap := words4 (bootRec l1 1).1
    rehomeB := BitVec.ofNat 64 (leAt (bootRec l1 2).1 0 8)
    fence := words4 (bootRec l1 3).1
    slices := BitVec.ofNat 16 (leAt (bootRec l1 4).1 0 2)
    retired := gone
    hours := leAt sc 0 4, cursor := leAt sc 4 5, passHour := leAt sc 9 4, lastScrub := leAt sc 0 4 }

/-- The node of a FENCE entry (Table 13-5). -/
def fenceNode (w : BitVec 32) : Option NodeId :=
  let i := fld w 4 16
  match fld w 0 4 with
  | 1 => if i < 1280 then some (.cell i) else none
  | 3 => if i < 8 then some (.region i) else none
  | 4 => if i < 2 then some (.half i) else none
  | 5 => if i < 1 then some .spine else none
  | _ => none

/-- Re-homes, fences and retired slices take effect at once (R366). -/
def applyRepairs (s : State) : State :=
  let s1 := (onesOf s.lehr.rehomeB).foldl (fun t b => t.modRehome b fun _ => { step := 4, cells := (List.range 20).map fun i => 20 * b + i }) s
  let s2 := s.lehr.fence.foldl (fun t w => match fenceNode w with | some n => t.modNode n fun x => { x with fenced := some (bit w 20) } | none => t) s1
  (onesOf s.lehr.slices).foldl (fun t i => t.modSlice i fun y => { y with retired := true, powered := false }) s2

/-- F_LEHR_CORR with DETAIL 0xFFFF for each kind whose record in force had to be replaced, with the address of that record (Table 11-9). -/
def replaced (s : State) : State :=
  [1, 2, 3, 4, 5, 6].foldl (fun t k => match (bootRec s.lehr k).2 with
    | some a => raise t { mkEv .lehrCorr 12 0 with detail := 0xFFFF, cseq := BitVec.ofNat 32 a }
    | none => t) s

/-! ## Training (R382, R383, Table 14-5) -/

/-- Link directions of a wave. -/
def waveDirs (w : Nat) : List LinkDir :=
  match w with
  | 1 => (List.range 1280).flatMap fun c => [⟨.standby c, false⟩, ⟨.standby c, true⟩]
  | 2 => (List.range 2).map fun h => ⟨.half h, false⟩
  | 3 => (List.range 2).map fun h => ⟨.half h, true⟩
  | 4 => (List.range 8).map fun r => ⟨.region r, false⟩
  | 5 => (List.range 8).map fun r => ⟨.region r, true⟩
  | 6 => (List.range 64).map fun b => ⟨.block b, false⟩
  | 7 => (List.range 64).map fun b => ⟨.block b, true⟩
  | 8 => (List.range 1280).map fun c => ⟨.cell c, false⟩
  | 9 => (List.range 1280).map fun c => ⟨.cell c, true⟩
  | _ => []

/-- A wave begins: its directions hold their channel beats. -/
def waveBegins (s : State) (w : Nat) : State :=
  (waveDirs w).foldl (fun t d => t.modLink d fun l => { l with hold := true }) { s with boot := { s.boot with wave := w, waveSince := s.tb } }

/-- LANE_MAP entries of a direction, by whether they are spares: (group, lane). -/
def mapEntries (s : State) (d : LinkDir) (spare : Bool) : List (Nat × Nat × Nat) :=
  (s.lehr.laneMap.filter fun w => (fld w 0 3, fld w 3 13) == linkCode d.link && bit w 16 == d.down && (fld w 30 2 == 0) == spare).map
    fun w => (fld w 17 9, fld w 26 4, fld w 30 2)

/-- A direction of the wave takes the repair that its LANE_MAP entries and the new failures call for (R44, R45, R382). -/
def trainDir (fails : List (LinkDir × List LaneFail)) (s : State) (d : LinkDir) : State :=
  let sp := mapEntries s d true
  let hf := mapEntries s d false
  let new := (fails.filter fun e => e.1 = d).flatMap (·.2)
  let all := new ++ hf.map fun e => LaneFail.lane (16 * e.1 + e.2.1)
  let s1 := s.modLink d fun l => { l with
    hold := false, spares := sp.map fun e => (e.1, e.2.1), spareBad := (hf.map fun e => e.1).eraseDups }
  let l := { s1.link d with width := if hf.any (fun e => e.2.2 == 1) then .lower else if hf.any (fun e => e.2.2 == 2) then .upper else .full }
  let mode := laneMode d.link l all
  let s2 := applyRepair (raiseAll s1 (repairEvents d l all mode)) d all mode
  if mode = 3 then reportFail (modeFail (s2.modLink d fun x => { x with lost := true }) d) d else s2

/-- A down chunk waits on a link direction that the wave has held. -/
def waitsOn (s : State) (k : Nat) (x : DownChunk) : Bool :=
  let n := nodeOf (k / 32)
  let ctx := k % 2 == 1
  match n with
  | .cell _ => false
  | _ => (memberSlots s n ctx x.frame.gid).any fun i => !x.taken.contains i && waveHolds s n ctx i

/-- Stall timers of chunks that waited on a direction of the wave did not run (R383). -/
def shiftWave (s : State) : State :=
  { s with fab := { s.fab with chans := tabMap {} (fun k c => { c with
      down := c.down.map fun x => if waitsOn s k x then { x with since := x.since + (s.tb - max x.since s.boot.waveSince) } else x }) s.fab.chans } }

/-- A wave ends: repairs, then the next wave, or FULL, at which passes between chips may begin (R26, R381, R382). -/
def waveEnds (s : State) (fails : List (LinkDir × List LaneFail)) : State :=
  let w := s.boot.wave
  if w = 0 || s.stopped then s
  else
    let t := (waveDirs w).foldl (trainDir fails) (shiftWave s)
    if w < 9 then waveBegins t (w + 1) else admitAll { t with boot := { t.boot with wave := 0, level := .full } }

/-- TRAINING_WAVE_END (R382). -/
def execTrainingWaveEnd (fails : List (LinkDir × List LaneFail)) (s : State) : Host.Outcome State Fault Refusal :=
  answer (.trainingWaveEnd fails) (waveEnds s fails)

/-- The firmware starts after the verdict and the log read: LIMP, the repairs of the log in force, and the first wave (R366, R381). -/
def firmwareStarts (s : State) : State :=
  if !(booting s 2 && s.boot.verdict == some true) then s
  else
    let m := slotBytes s.lehr s.gaf.run
    let t := applyRepairs (replaced { s with lehr := readLog s.lehr })
    flashStart (askCompact (waveBegins (enterLimp { t with gaf := { t.gaf with
      fwRun := true, build := BitVec.ofNat 32 (leAt m 4 4), vmin := leAt m 1 1, vmaj := leAt m 2 1 } }) 1))

/-- FIRMWARE_START (R381). -/
def execFirmwareStart (s : State) : Host.Outcome State Fault Refusal := answer .firmwareStart (firmwareStarts s)

/-- SLICE_KAC_DONE (R381): slices that fail are retired. -/
def kacDone (s : State) (failed : BitVec 16) : State :=
  if s.boot.stage != 5 || s.boot.kac || s.boot.rst.isSome then s
  else ((onesOf failed).filter fun i => !(s.sliceOf i).retired).foldl retireSlice { s with boot := { s.boot with kac := true } }

/-- SLICE_KAC_DONE. -/
def execSliceKacDone (failed : BitVec 16) (s : State) : Host.Outcome State Fault Refusal := answer (.sliceKacDone failed) (kacDone s failed)

end Sys2Proof.Machine
end

