-- ==== Sys2Proof/Machine/EccCmds.lean ====
section
/-! DEFINITION. Errors in SRAM and register arrays (R310, R313, Table 11-5). The number of an array in DETAIL is a free value (log entry 61). -/
namespace Sys2Proof.Machine

/-- Source of an error in an array (log entry 14). -/
def eccSrc : EccSite → Nat × Nat
  | .stage n _ _ _ => (n.skind, n.idx)
  | .pool .. => (6, 17)
  | .linkItem p _ _ => (8, p)
  | .group _ => (10, 0)
  | .object i => (match soBlock i with | some b => (2, b) | none => (5, 0))
  | .channel cn => (9, cn)
  | .sched _ => (6, 18)
  | .slot _ => (13, 0)
  | .free _ => (10, 0)
  | .shared _ => (10, 0)
  | .gaffer => (10, 0)
  | .prot .. => (10, 0)

/-- The array, by itself: its kind, and what tells the arrays of one source apart. -/
def arrayKey : EccSite → Nat
  | .stage _ ch ctx down => 64 * ch + 32 * b2n ctx + 16 * b2n down
  | .pool .. => 1
  | .linkItem _ vcb receive => 2 + 64 * b2n vcb + 32 * b2n receive
  | .group _ => 3
  | .object _ => 4
  | .channel _ => 5
  | .sched _ => 6
  | .slot _ => 7
  | .free a => 8 + 16 * a
  | .shared a => 9 + 16 * a
  | .gaffer => 10
  | .prot .. => 11

/-- The number of an array, the same at each of its errors, so that repeats merge under R302 (log entry 61). -/
def arrayNo (site : EccSite) : Nat :=
  Config.arrayNo ((eccSrc site).1 + 16 * ((eccSrc site).2 + 65536 * arrayKey site))

/-- An event of form S at a site; the array's number is `a`. -/
def eccEv (code : FCode) (site : EccSite) (a : Nat) : Event :=
  { mkEv code (eccSrc site).1 (eccSrc site).2 with detail := BitVec.ofNat 16 a }

/-- F_ECC_UE_DATA. -/
def eccData (s : State) (site : EccSite) (a : Nat) (f : Option Frame) : State :=
  raise s (match f with
    | some f => ((eccEv .eccUeData site a).onGroup s f.gid).onChunk f.cid f.cseq
    | none => eccEv .eccUeData site a)

/-- F_ECC_UE_GROUP on a group, with the chunk concerned. -/
def eccGroup (s : State) (site : EccSite) (a g : Nat) (f : Option Frame) : State :=
  let e := (eccEv .eccUeGroup site a).onGroup s g
  raise s (match f with | some f => e.onChunk f.cid f.cseq | none => e)

/-- F_ECC_UE_TENANT on a tenant: DETAIL[15:10] is its TID. -/
def eccTenant (s : State) (site : EccSite) (a t : Nat) : State :=
  raise s { eccEv .eccUeTenant site 0 with tid := some t, detail := pack 16 [(0, 10, a), (10, 6, t)] }

/-- A chunk in a stage buffer or FIFO. One being formed or received is had again; a whole one below the apex is retained by a child or
the parent (R39) and comes again as it was; at the apex it is retained nowhere else. Which chunk is concerned no operand says
(log entry 3). -/
def eccStage (s : State) (site : EccSite) (a : Nat) (n : NodeId) (ch : Nat) (ctx down : Bool) : State :=
  let z := stagePick s n ch ctx down
  match z.1 with
  | some (true, f) => eccData (hadAgain z.2 n ch ctx down) site a (some f)
  | some (false, f) => if isApex s n f.gid f.cid then eccGroup z.2 site a f.gid (some f) else eccData z.2 site a (some f)
  | none => eccData z.2 site a none

/-- The chunk of a pass that a unit belongs to: its first unit. -/
def chunkOver (s : State) (x : Sched) (q : Pass) (u : Nat) : Option (Nat × PChunk) :=
  q.units.findSome? fun e => match e.2 with
    | some c => if e.1 ≤ u && u < e.1 + footprint x.wfmt (schedC s x) c.fmt then some (e.1, c) else none
    | none => none

/-- The LOAD step and chunk that wrote a unit. -/
def loadOf (s : State) (x : Sched) (q : Pass) (u : Nat) : Option (Nat × Nat) :=
  (List.range q.desc.length).findSome? fun i => match q.desc[i]?, q.steps[i]? with
    | some t, some r =>
      if t.kind == kLOAD then
        (r.written.find? fun j => (unitsAt s x (outFmt s x q i t) t.uc j).1 == u).map fun j => (i, j)
      else none
    | _, _ => none

/-- A unit of the working pool: one that a LOAD wrote is loaded again, any other costs the group. -/
def eccPool (s : State) (site : EccSite) (a n p u : Nat) : State :=
  match s.sched n, s.pass n p with
  | some x, some q =>
    match chunkOver s x q u with
    | none => eccData s site a none
    | some (k, c) =>
      match (if c.loaded then loadOf s x q k else none) with
      | some (i, j) =>
        let s1 := modPass s n p fun y => { y with units := tabDel k y.units }
        let s2 := modStep s1 n p i fun r => { r with
          written := r.written.filter (· != j), issued := r.issued.filter (· != j), completed := false
          crec := { r.crec with vanish := r.crec.vanish - c.vanish } }
        eccData (workSched s2 n) site a none
      | none => eccGroup s site a x.hdr.gid none
  | _, _ => eccData s site a none

/-- An item of a link port whose word has failed counts as one with a failed verdict (R228): one being received is answered with NAK; a retained
one is sent again with every later one. Which of the retained items it is no operand says (log entry 3). -/
def eccLink (s : State) (site : EccSite) (a p : Nat) (vcb receive : Bool) : State :=
  let c := (s.lport p).cls vcb
  match receive, c.hd with
  | true, some h =>
    let units := itemUnits vcb (.pkt ⟨h, c.buf, 0⟩)
    eccData (packetFail (modCls s p vcb fun c => { c with hd := none, buf := [], early := [], rxUsed := c.rxUsed + units }) p vcb h units c.early) site a none
  | true, none => eccData s site a none
  | false, _ =>
    let y := takeFree s
    let ks := c.retain.filterMap (·.lpsn)
    eccData (match ks[y.1 % ks.length]? with | some k => resendFrom y.2 p vcb k | none => y.2) site a none

/-- An uncorrectable word, by array (Table 11-5). -/
def uncorrectable (s : State) (site : EccSite) (a : Nat) : State :=
  match site with
  | .stage n ch ctx down => eccStage s site a n ch ctx down
  | .pool n p u => eccPool s site a n p u
  | .linkItem p vcb receive => eccLink s site a p vcb receive
  | .group g => if (s.group g).st == .free then eccData s site a none else eccGroup s site a g none
  | .object i =>
    let o := s.obj i
    if !o.al then eccData s site a none
    else match o.gid with | some g => eccGroup s site a g none | none => eccTenant s site a o.tid
  | .channel cn => (match (s.cchan cn).bound with | some g => eccGroup s site a g none | none => eccData s site a none)
  | .sched n => (match s.sched n with | some x => eccTenant s site a x.tid | none => eccData s site a none)
  | .slot n => if (s.slot n).soid.isSome then eccTenant s site a (s.slot n).tid else eccData s site a none
  | .free _ => eccData s site a none
  | .shared _ => raise s (eccEv .eccUeShared site a)
  | .gaffer => gafferRestart s true
  | .prot e both => raise s { mkEv (if both then .protIntegrity else .protCopy) 10 0 with detail := BitVec.ofNat 16 e }

/-- ECC_ERROR (R310, R311, R313): a single-bit error is corrected and written back, F_ECC_CE; an uncorrectable word follows Table 11-5. -/
def execEccError (site : EccSite) (single : Bool) (s : State) : Host.Outcome State Fault Refusal :=
  answer (.eccError site single) (if s.boot.rst.isSome then s
    else if single then raise s (eccEv .eccCe site (arrayNo site)) else uncorrectable s site (arrayNo site))

end Sys2Proof.Machine
end

