-- ==== Sys2Proof/Machine/PowerCmds.lean ====
section
/-! DEFINITION. The power governor and the brake (R385 to R388). B bounds rates alone, so it changes no result (R386). -/
namespace Sys2Proof.Machine

/-- The governor's budget for the next window: the cap over the estimate, rounded down to a 64th and at least 8, when the window
exceeded the cap, else 8 more, up to 64; at 150 W it never throttles (R385). The estimate is in units of 0.1 W. -/
def nextBudget (cap own est : Nat) : Nat := if cap < 150 && 10 * cap < est then max 8 (640 * cap / est) else min 64 (own + 8)

/-- A window ends: the estimate is kept, and outside the brake B follows the governor, by 8 per window in the ramp after a brake (R388). -/
def window (s : State) (est : Nat) : State :=
  let b := s.boot
  let e := min 0xFFFF est
  if b.brake then { s with boot := { b with est := e } }
  else
    let own := nextBudget b.cap b.bOwn est
    let up := min (b.b + 8) own
    { s with boot := if b.ramp then { b with est := e, bOwn := own, b := up, ramp := up < own } else { b with est := e, bOwn := own, b := own } }

/-- GOVERNOR_WINDOW (R385, R388). -/
def execGovernorWindow (est : Nat) (s : State) : Host.Outcome State Fault Refusal :=
  answer (.governorWindow est) (if s.boot.rst.isSome then s else window s est)

/-- PWR_BRAKE (R387): the brake takes hold. -/
def execPwrBrake (s : State) : Host.Outcome State Fault Refusal :=
  answer .pwrBrake (if s.boot.rst.isSome || s.boot.brake then s else { s with boot := { s.boot with brake := true, brakeSince := s.tb, ramp := false } })

/-- The stall timers of parked packets did not run. -/
def clsBraked (s : State) (c : LinkClassState) : LinkClassState :=
  { c with parked := c.parked.map fun e => (e.1, e.2.1 + (s.tb - max e.2.1 s.boot.brakeSince), e.2.2) }

/-- Stall timers did not run while the brake held (R387). -/
def shiftBrake (s : State) : State :=
  { s with
    fab := { s.fab with chans := tabMap {} (fun _ c => { c with
      down := c.down.map fun x => { x with since := x.since + (s.tb - max x.since s.boot.brakeSince) } }) s.fab.chans }
    lps := tabMap {} (fun _ l => { l with vcu := clsBraked s l.vcu, vcb := clsBraked s l.vcb }) s.lps }

/-- The brake is released: B starts at 8, and what it held goes on. -/
def brakeOff (s : State) : State :=
  let t0 := shiftBrake s
  let t : State := { t0 with boot := { t0.boot with brake := false, b := 8, ramp := true } }
  (List.range 6).foldl pumpPort ((t.mrv.scheds.map (·.1)).foldl workSched t)

/-- BRAKE_RELEASE (R388). -/
def execBrakeRelease (s : State) : Host.Outcome State Fault Refusal :=
  answer .brakeRelease (if s.boot.rst.isSome || !s.boot.brake then s else brakeOff s)

end Sys2Proof.Machine
end

