-- ==== Sys2Proof/Machine/TestCmds.lean ====
section
/-! DEFINITION. The instruments of test mode (R416, R417, Table 17-3). With tst_en at 0 an instrument ignores its update. -/
namespace Sys2Proof.Machine

/-- Instruments marked test respond: tst_en was 1 at the release of rst_cold_n. -/
def testLive (s : State) : Bool := s.boot.testMode && s.boot.rst.isNone

/-- MBIST_RUN (R416): pass, or the first failing address and bit. -/
def execMbistRun (sram : Nat) (fail : Option (Nat × Nat)) (s : State) : Host.Outcome State Fault Refusal :=
  answer (.mbistRun sram fail) (if testLive s then { s with test := { s.test with mbist := tabSet none s.test.mbist sram (some fail) } } else s)

/-- PRBS_RUN (R417): a saturating 16-bit count per lane; a run lasts 128 to 2^24 cycles. -/
def execPrbsRun (d : LinkDir) (ncyc : Nat) (loopback : Bool) (errs : List Nat) (s : State) : Host.Outcome State Fault Refusal :=
  answer (.prbsRun d ncyc loopback errs)
    (if testLive s && 128 ≤ ncyc && ncyc ≤ 2 ^ 24 then
      { s with test := { s.test with prbs := tabSet [] s.test.prbs d.key (errs.map (min 0xFFFF)) } } else s)

/-- CANE_SWEEP (R416): the passing trim codes per copy. -/
def execCaneSweep (bundle : Nat) (passA passB passC : BitVec 16) (s : State) : Host.Outcome State Fault Refusal :=
  answer (.caneSweep bundle passA passB passC)
    (if testLive s then { s with test := { s.test with cane := tabSet none s.test.cane bundle (some (passA, passB, passC)) } } else s)

/-- LOCKSTEP_FORCE (R416): one copy is set to differ on the beat or piece chosen. -/
def execLockstepForce (u : UnitId) (copyB : Bool) (at' : Nat) (s : State) : Host.Outcome State Fault Refusal :=
  answer (.lockstepForce u copyB at') (if testLive s then { s with test := { s.test with forced := s.test.forced ++ [(u, copyB, at')] } } else s)

/-- ERRPAIR_FORCE (R416): a pair is forced to 0/0, 1/1 or 1/0. -/
def execErrpairForce (node src : Nat) (p n : Bool) (s : State) : Host.Outcome State Fault Refusal :=
  answer (.errpairForce node src p n)
    (if testLive s && (p || !n) then
      { s with test := { s.test with pairs := (s.test.pairs.filter fun e => e.1 != node || e.2.1 != src) ++ [(node, src, p, n)] } } else s)

end Sys2Proof.Machine
end

