-- ==== Sys2Proof/Machine/Dispatch.lean ====
section
/-! DEFINITION. One arm per command: its meaning, by its full name. -/
namespace Sys2Proof.Machine

/-- The effect of a command on everything but the queue. -/
def exec (i : Instr) (s : State) : Host.Outcome State Fault Refusal :=
  match i with
  | .chipPlace => Sys2Proof.Machine.execChipPlace s
  | .treeBeatReceive d a b c data crc => Sys2Proof.Machine.execTreeBeatReceive d a b c data crc s
  | .linkCtlDisagree d copy bit => Sys2Proof.Machine.execLinkCtlDisagree d copy bit s
  | .liveTimeout d => Sys2Proof.Machine.execLiveTimeout d s
  | .nakReturn d ch ctx => Sys2Proof.Machine.execNakReturn d ch ctx s
  | .laneCheckTrigger d => Sys2Proof.Machine.execLaneCheckTrigger d s
  | .rewind d ch ctx => Sys2Proof.Machine.execRewind d ch ctx s
  | .held d ch ctx => Sys2Proof.Machine.execHeld d ch ctx s
  | .release d ch ctx => Sys2Proof.Machine.execRelease d ch ctx s
  | .beatCredit d ch ctx => Sys2Proof.Machine.execBeatCredit d ch ctx s
  | .linkGrant d => Sys2Proof.Machine.execLinkGrant d s
  | .frameReceive d ch ctx => Sys2Proof.Machine.execFrameReceive d ch ctx s
  | .upChunkOpen cell ch => Sys2Proof.Machine.execUpChunkOpen cell ch s
  | .upCombine n ch ctx => Sys2Proof.Machine.execUpCombine n ch ctx s
  | .downOffer n ch ctx => Sys2Proof.Machine.execDownOffer n ch ctx s
  | .stallTimeout site => Sys2Proof.Machine.execStallTimeout site s
  | .laneCheck d => Sys2Proof.Machine.execLaneCheck d s
  | .prbsCountEnd d fails => Sys2Proof.Machine.execPrbsCountEnd d fails s
  | .laneReport d => Sys2Proof.Machine.execLaneReport d s
  | .linkctlRetry d => Sys2Proof.Machine.execLinkctlRetry d s
  | .homeLost d => Sys2Proof.Machine.execHomeLost d s
  | .rehomeGo d => Sys2Proof.Machine.execRehomeGo d s
  | .lockstepMismatch n ch ctx down => Sys2Proof.Machine.execLockstepMismatch n ch ctx down s
  | .knownAnswerDone n failA failB => Sys2Proof.Machine.execKnownAnswerDone n failA failB s
  | .soOpApply soid n => Sys2Proof.Machine.execSoOpApply soid n s
  | .soNotice cell => Sys2Proof.Machine.execSoNotice cell s
  | .waitTimeout core => Sys2Proof.Machine.execWaitTimeout core s
  | .cpCgAck core level => Sys2Proof.Machine.execCpCgAck core level s
  | .soRemoteOp p => Sys2Proof.Machine.execSoRemoteOp p s
  | .soRefuse p => Sys2Proof.Machine.execSoRefuse p s
  | .caneRelease cn => Sys2Proof.Machine.execCaneRelease cn s
  | .caneReleaseArrive cn cell => Sys2Proof.Machine.execCaneReleaseArrive cn cell s
  | .caneVoteDisagree level node slot cn copy => Sys2Proof.Machine.execCaneVoteDisagree level node slot cn copy s
  | .caneToken p => Sys2Proof.Machine.execCaneToken p s
  | .msgEmit rdy => Sys2Proof.Machine.execMsgEmit rdy s
  | .cpRegWrite core we off data => Sys2Proof.Machine.execCpRegWrite core we off data s
  | .cpPush core hi => Sys2Proof.Machine.execCpPush core hi s
  | .cpPull core hi => Sys2Proof.Machine.execCpPull core hi s
  | .cpScalar core hi => Sys2Proof.Machine.execCpScalar core hi s
  | .scalarResRead core => Sys2Proof.Machine.execScalarResRead core s
  | .wresRead core => Sys2Proof.Machine.execWresRead core s
  | .postingArrive cell => Sys2Proof.Machine.execPostingArrive cell s
  | .nopostTimeout core kind => Sys2Proof.Machine.execNopostTimeout core kind s
  | .cpRdData core data err => Sys2Proof.Machine.execCpRdData core data err s
  | .cpWrAck core err => Sys2Proof.Machine.execCpWrAck core err s
  | .cpSyncArrive core hi => Sys2Proof.Machine.execCpSyncArrive core hi s
  | .cpSyncSignal core hi => Sys2Proof.Machine.execCpSyncSignal core hi s
  | .cpSyncReset core hi => Sys2Proof.Machine.execCpSyncReset core hi s
  | .cpSyncRead core hi => Sys2Proof.Machine.execCpSyncRead core hi s
  | .syncOrdMet core => Sys2Proof.Machine.execSyncOrdMet core s
  | .cpCaneArrive core w => Sys2Proof.Machine.execCpCaneArrive core w s
  | .cpCaneArriveWait core w => Sys2Proof.Machine.execCpCaneArriveWait core w s
  | .cpCaneRead core w => Sys2Proof.Machine.execCpCaneRead core w s
  | .cpWaitGen core hi => Sys2Proof.Machine.execCpWaitGen core hi s
  | .cpWaitCount core hi => Sys2Proof.Machine.execCpWaitCount core hi s
  | .cpWaitCane core hi => Sys2Proof.Machine.execCpWaitCane core hi s
  | .cpWaitPush core hi => Sys2Proof.Machine.execCpWaitPush core hi s
  | .cpWaitPull core hi => Sys2Proof.Machine.execCpWaitPull core hi s
  | .cpWaitScalar core hi => Sys2Proof.Machine.execCpWaitScalar core hi s
  | .cpWaitFence core hi => Sys2Proof.Machine.execCpWaitFence core hi s
  | .fencePullvis core => Sys2Proof.Machine.execFencePullvis core s
  | .fenceSync core => Sys2Proof.Machine.execFenceSync core s
  | .fencePushheld core => Sys2Proof.Machine.execFencePushheld core s
  | .commitNotice cell => Sys2Proof.Machine.execCommitNotice cell s
  | .mbCmdWrite mb off be data => Sys2Proof.Machine.execMbCmdWrite mb off be data s
  | .mbServeSelect => Sys2Proof.Machine.execMbServeSelect s
  | .ifQuery => Sys2Proof.Machine.execIfQuery s
  | .txBegin => Sys2Proof.Machine.execTxBegin s
  | .txCommit => Sys2Proof.Machine.execTxCommit s
  | .txPauseHeld mb => Sys2Proof.Machine.execTxPauseHeld mb s
  | .txPauseTimeout mb => Sys2Proof.Machine.execTxPauseTimeout mb s
  | .txRollback => Sys2Proof.Machine.execTxRollback s
  | .txExpire mb => Sys2Proof.Machine.execTxExpire mb s
  | .groupCreate mem => Sys2Proof.Machine.execGroupCreate mem s
  | .groupUpdate mem => Sys2Proof.Machine.execGroupUpdate mem s
  | .groupEnable => Sys2Proof.Machine.execGroupEnable s
  | .maskCompileDone gid => Sys2Proof.Machine.execMaskCompileDone gid s
  | .groupDisable => Sys2Proof.Machine.execGroupDisable s
  | .groupDestroy => Sys2Proof.Machine.execGroupDestroy s
  | .groupQuery => Sys2Proof.Machine.execGroupQuery s
  | .groupLogs => Sys2Proof.Machine.execGroupLogs s
  | .drainEnd gid => Sys2Proof.Machine.execDrainEnd gid s
  | .drainStuck gid => Sys2Proof.Machine.execDrainStuck gid s
  | .handshake p => Sys2Proof.Machine.execHandshake p s
  | .peerWait gid => Sys2Proof.Machine.execPeerWait gid s
  | .collPost => Sys2Proof.Machine.execCollPost s
  | .soAlloc => Sys2Proof.Machine.execSoAlloc s
  | .soFree => Sys2Proof.Machine.execSoFree s
  | .soQuery => Sys2Proof.Machine.execSoQuery s
  | .caneBind => Sys2Proof.Machine.execCaneBind s
  | .caneUnbind => Sys2Proof.Machine.execCaneUnbind s
  | .hostSlotMap => Sys2Proof.Machine.execHostSlotMap s
  | .hostSlotUnmap => Sys2Proof.Machine.execHostSlotUnmap s
  | .taskBind mem => Sys2Proof.Machine.execTaskBind mem s
  | .taskSuspend => Sys2Proof.Machine.execTaskSuspend s
  | .taskResume => Sys2Proof.Machine.execTaskResume s
  | .taskKill => Sys2Proof.Machine.execTaskKill s
  | .taskRelease => Sys2Proof.Machine.execTaskRelease s
  | .schedLoad mem => Sys2Proof.Machine.execSchedLoad mem s
  | .schedUnload => Sys2Proof.Machine.execSchedUnload s
  | .schedUnloadTimeout n => Sys2Proof.Machine.execSchedUnloadTimeout n s
  | .channelPin => Sys2Proof.Machine.execChannelPin s
  | .channelWeight => Sys2Proof.Machine.execChannelWeight s
  | .vcbWeightSet => Sys2Proof.Machine.execVcbWeightSet s
  | .hubPlace => Sys2Proof.Machine.execHubPlace s
  | .deliveryMode => Sys2Proof.Machine.execDeliveryMode s
  | .linkClassSet => Sys2Proof.Machine.execLinkClassSet s
  | .halfClock => Sys2Proof.Machine.execHalfClock s
  | .escSet => Sys2Proof.Machine.execEscSet s
  | .powerCapSet => Sys2Proof.Machine.execPowerCapSet s
  | .tenantReset => Sys2Proof.Machine.execTenantReset s
  | .serviceReset => Sys2Proof.Machine.execServiceReset s
  | .serviceResetMemWait => Sys2Proof.Machine.execServiceResetMemWait s
  | .unitReturn => Sys2Proof.Machine.execUnitReturn s
  | .unitAbandon => Sys2Proof.Machine.execUnitAbandon s
  | .retestDone u pass => Sys2Proof.Machine.execRetestDone u pass s
  | .shadowCompare u agree liveFailed => Sys2Proof.Machine.execShadowCompare u agree liveFailed s
  | .faultRead => Sys2Proof.Machine.execFaultRead s
  | .fwUpdate mem => Sys2Proof.Machine.execFwUpdate mem s
  | .fwActivate => Sys2Proof.Machine.execFwActivate s
  | .lehrWrite mem => Sys2Proof.Machine.execLehrWrite mem s
  | .protPropose mem => Sys2Proof.Machine.execProtPropose mem s
  | .protConfirm => Sys2Proof.Machine.execProtConfirm s
  | .protQuery => Sys2Proof.Machine.execProtQuery s
  | .proposalExpire => Sys2Proof.Machine.execProposalExpire s
  | .secMb1Transfer words => Sys2Proof.Machine.execSecMb1Transfer words s
  | .secVerdict w => Sys2Proof.Machine.execSecVerdict w s
  | .secVerdictTimeout => Sys2Proof.Machine.execSecVerdictTimeout s
  | .gafferLockstep ecc => Sys2Proof.Machine.execGafferLockstep ecc s
  | .gafferRestartDone => Sys2Proof.Machine.execGafferRestartDone s
  | .memRdata port tag data last err => Sys2Proof.Machine.execMemRdata port tag data last err s
  | .memWack port tag err => Sys2Proof.Machine.execMemWack port tag err s
  | .memFack port tag => Sys2Proof.Machine.execMemFack port tag s
  | .linkUp p => Sys2Proof.Machine.execLinkUp p s
  | .linkDown p => Sys2Proof.Machine.execLinkDown p s
  | .routerCredit p u b => Sys2Proof.Machine.execRouterCredit p u b s
  | .packetVerdict p vcb tail => Sys2Proof.Machine.execPacketVerdict p vcb tail s
  | .ctrlFlitReceive p vcb flit => Sys2Proof.Machine.execCtrlFlitReceive p vcb flit s
  | .ack p => Sys2Proof.Machine.execAck p s
  | .nak p => Sys2Proof.Machine.execNak p s
  | .credit p => Sys2Proof.Machine.execCredit p s
  | .resendTimeout p vcb => Sys2Proof.Machine.execResendTimeout p vcb s
  | .triggerNotice => Sys2Proof.Machine.execTriggerNotice s
  | .stepStart sched pass step => Sys2Proof.Machine.execStepStart sched pass step s
  | .passStart sched => Sys2Proof.Machine.execPassStart sched s
  | .reservationAge sched => Sys2Proof.Machine.execReservationAge sched s
  | .pieceTake slice => Sys2Proof.Machine.execPieceTake slice s
  | .pieceDone slice mismatch => Sys2Proof.Machine.execPieceDone slice mismatch s
  | .sliceGateTimer slice => Sys2Proof.Machine.execSliceGateTimer slice s
  | .slicePowered slice => Sys2Proof.Machine.execSlicePowered slice s
  | .stepComplete sched pass step => Sys2Proof.Machine.execStepComplete sched pass step s
  | .passEnd sched pass => Sys2Proof.Machine.execPassEnd sched pass s
  | .done p => Sys2Proof.Machine.execDone p s
  | .commit p => Sys2Proof.Machine.execCommit p s
  | .poison p => Sys2Proof.Machine.execPoison p s
  | .poisonDieQuiesce gid => Sys2Proof.Machine.execPoisonDieQuiesce gid s
  | .bumped p => Sys2Proof.Machine.execBumped p s
  | .go p => Sys2Proof.Machine.execGo p s
  | .poisonStuck gid => Sys2Proof.Machine.execPoisonStuck gid s
  | .abort p => Sys2Proof.Machine.execAbort p s
  | .faultReport => Sys2Proof.Machine.execFaultReport s
  | .abortCleanupEnd gid => Sys2Proof.Machine.execAbortCleanupEnd gid s
  | .errWireFault skind sidx => Sys2Proof.Machine.execErrWireFault skind sidx s
  | .syndromePoll skind sidx => Sys2Proof.Machine.execSyndromePoll skind sidx s
  | .collectorMismatch node unwritable => Sys2Proof.Machine.execCollectorMismatch node unwritable s
  | .escTimerC2 idx => Sys2Proof.Machine.execEscTimerC2 idx s
  | .escTimerC3 => Sys2Proof.Machine.execEscTimerC3 s
  | .eccError site single => Sys2Proof.Machine.execEccError site single s
  | .sramScrub => Sys2Proof.Machine.execSramScrub s
  | .tbWindowCheck ticks => Sys2Proof.Machine.execTbWindowCheck ticks s
  | .c2pendClear => Sys2Proof.Machine.execC2pendClear s
  | .flashOpDone res => Sys2Proof.Machine.execFlashOpDone res s
  | .configRecordDue k => Sys2Proof.Machine.execConfigRecordDue k s
  | .flashHourBudget => Sys2Proof.Machine.execFlashHourBudget s
  | .lehrScrubStep item bits => Sys2Proof.Machine.execLehrScrubStep item bits s
  | .scrubRecord => Sys2Proof.Machine.execScrubRecord s
  | .flashReadyTimeout => Sys2Proof.Machine.execFlashReadyTimeout s
  | .rstCold => Sys2Proof.Machine.execRstCold s
  | .rstColdRelease tstEn => Sys2Proof.Machine.execRstColdRelease tstEn s
  | .rstBlk => Sys2Proof.Machine.execRstBlk s
  | .rstBlkRelease => Sys2Proof.Machine.execRstBlkRelease s
  | .powerOn => Sys2Proof.Machine.execPowerOn s
  | .bootAnchorsApplied => Sys2Proof.Machine.execBootAnchorsApplied s
  | .firmwareStart => Sys2Proof.Machine.execFirmwareStart s
  | .sliceKacDone failed => Sys2Proof.Machine.execSliceKacDone failed s
  | .trainingWaveEnd fails => Sys2Proof.Machine.execTrainingWaveEnd fails s
  | .pwrBrake => Sys2Proof.Machine.execPwrBrake s
  | .brakeRelease => Sys2Proof.Machine.execBrakeRelease s
  | .governorWindow est => Sys2Proof.Machine.execGovernorWindow est s
  | .hostRegWrite we off be data => Sys2Proof.Machine.execHostRegWrite we off be data s
  | .tbReadLow => Sys2Proof.Machine.execTbReadLow s
  | .msgctlWrite data => Sys2Proof.Machine.execMsgctlWrite data s
  | .mbipClear hi data => Sys2Proof.Machine.execMbipClear hi data s
  | .fipClear data => Sys2Proof.Machine.execFipClear data s
  | .caneIpClear data => Sys2Proof.Machine.execCaneIpClear data s
  | .slotIpClear slot => Sys2Proof.Machine.execSlotIpClear slot s
  | .cselWrite data => Sys2Proof.Machine.execCselWrite data s
  | .uwCaneArrive data => Sys2Proof.Machine.execUwCaneArrive data s
  | .slotArrive slot w => Sys2Proof.Machine.execSlotArrive slot w s
  | .slotSignal slot w => Sys2Proof.Machine.execSlotSignal slot w s
  | .slotReset slot w => Sys2Proof.Machine.execSlotReset slot w s
  | .slotRead slot w => Sys2Proof.Machine.execSlotRead slot w s
  | .slotOpDone slot => Sys2Proof.Machine.execSlotOpDone slot s
  | .mbistRun sram fail => Sys2Proof.Machine.execMbistRun sram fail s
  | .prbsRun d ncyc loopback errs => Sys2Proof.Machine.execPrbsRun d ncyc loopback errs s
  | .caneSweep bundle passA passB passC => Sys2Proof.Machine.execCaneSweep bundle passA passB passC s
  | .lockstepForce u copyB at' => Sys2Proof.Machine.execLockstepForce u copyB at' s
  | .errpairForce node src p n => Sys2Proof.Machine.execErrpairForce node src p n s
  | .flitLands p vcb head flit => Sys2Proof.Machine.execFlitLands p vcb head flit s
  | .creditOwedPeriod p vcb => Sys2Proof.Machine.execCreditOwedPeriod p vcb s
  | .powerLoss => Sys2Proof.Machine.execPowerLoss s
  | .tbReadHigh => Sys2Proof.Machine.execTbReadHigh s
  | .secMb1Response => Sys2Proof.Machine.execSecMb1Response s

end Sys2Proof.Machine
end

