-- ==== Sys2Proof/Machine/Step.lean ====
section
/-! DEFINITION. One step of the block: the command at the front of the queue, or, on an empty queue, one tick of the count on which its timers run. -/
namespace Sys2Proof.Machine

/-- Take the command at the front of the queue and run it with the queue's rest.
On an empty queue the block idles and the count moves one tick of 1 ns (DESIGN CHOICE, log entry 1). -/
def step (s : State) : Host.Outcome State Fault Refusal :=
  match s.pending with
  | [] => .next { s with tb := s.tb + 1 }
  | c :: r => exec c { s with pending := r }

/-- `s` with the command that the word spells at the front of its queue; unchanged where it spells none. -/
def State.withFetchWord (s : State) (nbits w : Nat) : State :=
  match Sys2Proof.decodeTableWord nbits w with
  | some c => { s with pending := c :: s.pending }
  | none => s

end Sys2Proof.Machine
end

