-- ==== Sys2Proof/Safety.lean ====
section
/-! DEFINITION. What counts as a safe run, in the terms that the statements use: tables in canonical form, and the marks of a block that
may act. -/
namespace Sys2Proof.Machine

/-- The tables of the tree, the sync objects, the Cane and the core ports are in canonical form. -/
def dieTablesWf (s : State) : Bool :=
  tabWf {} s.fab.links && tabWf {} s.fab.nodes && tabWf {} s.fab.chans && tabWf none s.fab.masks && tabWf {} s.fab.rehome
  && tabWf {} s.sync.objs && tabWf {} s.cane.chans && tabWf {} s.ports

/-- The tables of groups, tenants, Marver, the link ports, Gaffer and the host slots are in canonical form. -/
def unitTablesWf (s : State) : Bool :=
  tabWf {} s.grp.groups && tabWf {} s.grp.tenants && tabWf none s.mrv.scheds && tabWf {} s.mrv.slices && tabWf {} s.mrv.mps
  && tabWf {} s.lps && tabWf {} s.gaf.mbs && tabWf none s.gaf.txs && tabWf {} s.host.slots

/-- Every table of the state is in canonical form, so that equal contents are equal data. -/
def tablesWf (s : State) : Bool := dieTablesWf s && unitTablesWf s

/-- The latch of a C4 event stands: the block serves nothing but fault reads until its power is taken away (R318, R319). -/
def latched (s : State) : Bool := s.flt.c4

/-- A run is safe when no command has stopped it: every command named a unit of the block. -/
def safeStep (s : State) : Bool := match step s with | .next _ => true | _ => false

/-- The command of an opcode stands in mailbox `mb`, and Gaffer is serving it (R329, R330). -/
def serves (s : State) (mb op : Nat) : Prop := s.gaf.serving = some mb ∧ cmdOp (s.mbox mb).cmd = op

/-- Mailbox `mb` has been answered: header and payload of the response written, DONE set, FULL cleared (R328). -/
def answered (s t : State) (mb : Nat) (st : St) (det : Nat) (data : List Byte) : Prop :=
  t.mbox mb = { s.mbox mb with rsp := respArea (s.mbox mb) st det data, done := true, full := false }

/-- The payload of the command in mailbox `mb` (Table 12-1). -/
def payOf (s : State) (mb : Nat) : BitVec 1920 := cmdPay (s.mbox mb).cmd

/-- The tenant as which the command in mailbox `mb` acts (R327). -/
def tidOf (s : State) (mb : Nat) : Nat := (callerTid s mb).getD 0

/-- No schedule is resident and no pass waits for its reservation. -/
def idleMarver (s : State) : Prop := s.mrv.scheds = [] ∧ s.mrv.order = []

/-- What the highest word of CP_PUSH or CP_PULL makes of the transfer it describes (R173): refused with the first failing reason, held, or held
until its posting comes. Nothing but the port, and at it but the direction, changes. -/
def transferPosted (s t : State) (k : Nat) (pull : Bool) (hi : BitVec 64) : Prop :=
  let d := (s.port k).dir pull
  let d1 := (t.port k).dir pull
  let x := xferOf s k pull hi
  let refused (r : Reason) : Prop := d1 = { d with err := r, ev := true }
  let held (y : Xfer) : Prop :=
    (if d.run = none then d1.run = some y ∧ d1.cnt = 0 ∧ d1.cid = y.cid else d1.run = d.run ∧ d1.que = some y ∧ d1.cnt = d.cnt) ∧
    d1.err = d.err ∧ d1.ev = d.ev
  t = { s with ports := t.ports } ∧ (∀ j, j ≠ k → t.port j = s.port j) ∧ (t.port k).dir (!pull) = (s.port k).dir (!pull) ∧
  if 2 ≤ heldCount d then refused .full
  else if xferAlign s k pull hi = true then refused .align
  else match checkGroup s k x.gid x.cid, postingAt s k x.gid x.cid with
    | some r, _ => refused r
    | none, none => held { x with waiting := true }
    | none, some c => match checkPosted s k pull x c with
      | some r => refused r
      | none => held { x with nchunk := chunksOf c x.nelem }

/-- Core k may give an operation: none is held, the block is at LIMP or above, and a task is bound to the core (R154, R183). -/
def mayOperate (s : State) (k : Nat) : Prop := (s.port k).sync = none ∧ 2 ≤ s.boot.level.code ∧ (s.port k).tv = true

/-- The operation that CP_SYNC describes is held at the port, and nothing else changes (R183). -/
def operationHeld (s t : State) (k : Nat) (kind : SoOpKind) (hi : BitVec 64) : Prop :=
  t = { s with ports := t.ports } ∧ (∀ j, j ≠ k → t.port j = s.port j) ∧
  ∃ h, (t.port k).sync = some h ∧ h.kind = kind ∧ h.soid = fld (s.port k).syncLo 0 15 ∧ h.opnd = fld hi 0 32 ∧
    h.before = (s.port k).nseq ∧ h.sent = false ∧ (t.port k).syncSt = (s.port k).syncSt

/-- Core k may post a wait on the object that CP_WAIT names: it has none, its tenant is set, and the object is a root object of that tenant
(R131, R134, R154, R185). -/
def mayWait (s : State) (k : Nat) : Prop :=
  2 ≤ s.boot.level.code ∧ (s.port k).wait = none ∧ (s.port k).tv = true ∧ fld (s.port k).waitLo 0 15 < 0x4000 ∧
  (s.obj (fld (s.port k).waitLo 0 15)).al = true ∧ (s.obj (fld (s.port k).waitLo 0 15)).tid = (s.port k).tid

/-- What a GEN or COUNT wait does on its object, `now` telling whether its condition holds (R139, R145, R147). -/
def objectWaited (s t : State) (k target : Nat) (now : Bool) : Prop :=
  let lo := (s.port k).waitLo
  let o := s.obj (fld lo 0 15)
  let p := t.port k
  t = { s with ports := t.ports } ∧ (∀ j, j ≠ k → t.port j = s.port j) ∧ p.waitSt = .ok ∧
  if o.st = .abandoned then p.wait = none ∧ p.wres.code = .ownerLost ∧ p.wres.v = true
  else if o.st = .frozen ∨ now = false then
    (∃ w, p.wait = some w ∧ w.target = target ∧ w.id = fld lo 0 15 ∧ w.remain.isSome = decide (o.st = .frozen) ∧
      w.deadline = s.tb + waitUnits s o.gid (fld lo 20 20) * 1024) ∧ p.wres.v = false ∧ p.cgReq = !bit lo 19
  else p.wait = none ∧ p.wres.code = .ok ∧ p.wres.v = true ∧ p.wres.gen = o.gen ∧ p.wres.val = BitVec.ofNat 32 o.count ∧
    p.cgReq = (s.port k).cgReq

/-- A slot operation goes to the object mapped: the slot is mapped and free, the block is at LIMP or above, and an ARRIVE operand is 1 to 65,535
(R154, R405). -/
def slotMay (s : State) (n : Nat) (kind : SoOpKind) (w : BitVec 64) : Prop :=
  hostLive s = true ∧ fld w 0 2 = soOpCode kind ∧ (s.slot n).soid.isSome = true ∧ (s.slot n).busy = false ∧ 2 ≤ s.boot.level.code ∧
  (kind = .arrive → 1 ≤ fld w 32 32 ∧ fld w 32 32 ≤ 65535)

/-- The slot is BUSY and its operation is on its way with the TID and TAG recorded; nothing but the slot and the operations changes (R405). -/
def slotSent (s t : State) (n : Nat) (kind : SoOpKind) (w : BitVec 64) : Prop :=
  (t.slot n).busy = true ∧ (t.slot n).res = (s.slot n).res ∧ (∀ m, m ≠ n → t.slot m = s.slot m) ∧ (∃ i, (s.slot n).soid = some i ∧
    t.sync = { s.sync with ops := s.sync.ops ++
      [{ soid := i, kind := kind, opnd := fld w 32 32, tid := (s.slot n).tid, tag := some (s.slot n).tag, caller := .host n }] }) ∧
  t.grp = s.grp ∧ t.ports = s.ports ∧ t.flt = s.flt

/-- What a PUSH or PULL wait does: at once with no transfer running or its target reached, else asleep on the running one (R185, R270). -/
def streamWaited (s t : State) (k : Nat) (pull : Bool) (hi : BitVec 64) : Prop :=
  let d := (s.port k).dir pull
  let p := t.port k
  t = { s with ports := t.ports } ∧ (∀ j, j ≠ k → t.port j = s.port j) ∧
  match d.run with
  | none => p.wait = none ∧ p.wres.code = .ok ∧ p.wres.v = true
  | some x =>
    if fld hi 0 32 ≠ 0 ∧ fld hi 0 32 ≤ d.cnt ∧ (pull = true → pullMay s x = true) then
      p.wait = none ∧ p.wres.v = true ∧ p.wres.val = BitVec.ofNat 32 d.cnt
    else ∃ w, p.wait = some w ∧ w.cid = x.cid ∧ w.gid = some x.gid ∧ p.wres.v = false

end Sys2Proof.Machine
end

