-- ==== Sys2Proof/Certificates/Slice0/Obligations.lean ====
section
/-! DEFINITION. The statements about the model, by the parts of the manual that they come from. -/
open Sys2Proof Sys2Proof.Machine

/-! ## Tree links and nodes (02) -/

/-- R31, R33, R38: what any one control copy carries is outvoted by the other two. A word without beat or return only moves the receiver's
own counts; a return that a word carries reaches the sender of the opposite direction; a beat that passes its CRC is accepted, and a whole
up beat enters the input FIFO of its child slot.
R33, R40: a beat whose CRC does not match is answered with NAK, discarded until RPL, counted and raised as F_HOP_CRC; no other core
port, group or sync object changes. Until RPL the beats after it are discarded. -/
def Obligations.BeatsAreVotedAndChecked : Prop :=
  (∀ v x : BitVec 20, vote v v x = v ∧ vote v x v = v ∧ vote x v v = v) ∧
  (∀ (d : LinkDir) (v x : BitVec 20) (data : List Byte) (crc : BitVec 16) (s : State),
    d.link.ok = true → s.boot.rst = none → bit v 0 = false → bit v 9 = false →
    ∃ t, exec (.treeBeatReceive d v x v data crc) s = .next t ∧ t = s.modLink d (wordIn v x v v) ∧
      (t.link d).cyc = (s.link d).cyc + 1 ∧ (t.link d).liveLvl = bit v 18) ∧
  (∀ (d : LinkDir) (v : BitVec 20) (k : RetKind) (data : List Byte) (crc : BitVec 16) (s : State),
    d.link.ok = true → s.boot.rst = none → bit v 0 = false → bit v 9 = true → retKindOf (fld v 10 3) = some k →
    ∃ t, exec (.treeBeatReceive d v v v data crc) s = .next t ∧
      (t.link (revDir d)).retIn = (s.link (revDir d)).retIn ++ [(k, chCtx (fld v 13 4) (bit v 17))] ∧ t.flt = s.flt ∧ t.ports = s.ports) ∧
  (∀ (d : LinkDir) (v : BitVec 20) (data : List Byte) (s : State),
    d.link.ok = true → s.boot.rst = none → bit v 0 = true → bit v 9 = false → (s.link d).lost = false →
    (tabGet {} (s.link d).rx (beatKey (s.link d) v data)).dup = 0 →
    ((tabGet {} (s.link d).rx (beatKey (s.link d) v data)).discard = false ∨ bit v 3 = true) →
    ∃ t, exec (.treeBeatReceive d v v v data (crc16 data)) s = .next t ∧
      (tabGet {} (t.link d).rx (beatKey (s.link d) v data)).discard = false ∧ (tabGet {} (t.link d).rx (beatKey (s.link d) v data)).naks = 0 ∧
      (t.link d).hopErr = (s.link d).hopErr ∧ t.flt = s.flt ∧ t.ports = s.ports ∧ t.grp = s.grp ∧
      (d.down = false → beatKey (s.link d) v data ≠ ctlKey → bit v 1 = true → linkW d.link ≤ data.length →
        (tabGet {} (s.link d).rx (beatKey (s.link d) v data)).part = [] →
        (let k := beatKey (s.link d) v data
         let u := upTarget d.link (k % 2 == 1)
         (tabGet {} (t.nchan u.1 (k / 2) u.2.1).slots u.2.2).fifo =
           (tabGet {} (s.nchan u.1 (k / 2) u.2.1).slots u.2.2).fifo ++ [⟨true, bit v 2, data, headGid data⟩]))) ∧
  (∀ (d : LinkDir) (v : BitVec 20) (data : List Byte) (crc : BitVec 16) (s : State),
    d.link.ok = true → s.boot.rst = none → bit v 0 = true → bit v 9 = false → (s.link d).lost = false → crc16 data ≠ crc →
    ((tabGet {} (s.link d).rx (failedKey (s.link d) v)).discard = false ∨ bit v 3 = true) →
    ∃ t, exec (.treeBeatReceive d v v v data crc) s = .next t ∧
      (t.link d).hopErr = (s.link d).hopErr + 1 ∧
      (tabGet {} (t.link d).rx (failedKey (s.link d) v)).discard = true ∧
      (let k := failedKey (s.link d) v
       (tabGet {} (t.link d).rets (if k = ctlKey then 0 else k)).nak = true) ∧
      t.flt.synd = addEvent (linkEv .hopCrc d (if failedKey (s.link d) v = ctlKey then 0 else failedKey (s.link d) v / 2) 0) s.flt.synd ∧
      t.ports = s.ports ∧ t.grp = s.grp ∧ t.sync = s.sync ∧ t.fab.chans = s.fab.chans) ∧
  (∀ (d : LinkDir) (v : BitVec 20) (data : List Byte) (s : State),
    d.link.ok = true → s.boot.rst = none → bit v 0 = true → bit v 3 = false → bit v 9 = false → (s.link d).lost = false →
    (tabGet {} (s.link d).rx (beatKey (s.link d) v data)).discard = true →
    exec (.treeBeatReceive d v v v data (crc16 data)) s = .next (s.modLink d (wordIn v v v v)))

/-- R38 to R41: BEAT_CREDIT frees the sender's oldest units, NAK_RETURN sends again from the oldest unit not yet credited and marks it RPL,
while the receiver passes over those it had taken (log entry 19); a NAK of channel 0, context 0 may stand for a LINKCTL frame, which goes
again whole. REWIND of a child sends its retained chunks again. Each takes its return off the sender's list.
R39, R55: RELEASE frees the child's oldest retained up chunk, or marks the oldest down chunk that a child slot has taken as released by it;
HELD marks the oldest chunk not yet held and sends RELEASE to the children that fed it. -/
def Obligations.ReturnsOfATreeLink : Prop :=
  (∀ (d : LinkDir) (ch : Nat) (ctx : Bool) (s : State),
    d.link.ok = true → ch < 16 → (RetKind.beat, chCtx ch ctx) ∈ (s.link d).retIn →
    ∃ t, exec (.beatCredit d ch ctx) s = .next t ∧ (t.link d).retIn = (s.link d).retIn.erase (RetKind.beat, chCtx ch ctx) ∧
      (tabGet {} (t.link d).tx (chCtx ch ctx)).sent = (tabGet {} (s.link d).tx (chCtx ch ctx)).sent.drop (unitsPerBeat (s.link d).width) ∧
      t.fab.chans = s.fab.chans ∧ t.ports = s.ports ∧ t.flt = s.flt ∧ t.grp = s.grp) ∧
  (∀ (d : LinkDir) (ch : Nat) (ctx : Bool) (s : State),
    d.link.ok = true → ch < 16 → (RetKind.nak, chCtx ch ctx) ∈ (s.link d).retIn →
    (tabGet {} (s.link d).rx (chCtx ch ctx)).discard = true →
    ∃ t, exec (.nakReturn d ch ctx) s = .next t ∧ (t.link d).retIn = (s.link d).retIn.erase (RetKind.nak, chCtx ch ctx) ∧
      (let a := tabGet {} (s.link d).tx (chCtx ch ctx)
       let b := tabGet {} (t.link d).tx (chCtx ch ctx)
       b.ready = a.sent ++ a.ready ∧ b.sent = [] ∧ b.rpl = true ∧ (tabGet {} (t.link d).rx (chCtx ch ctx)).dup = a.acc) ∧
      t.fab.chans = s.fab.chans ∧ t.ports = s.ports ∧ t.flt = s.flt ∧ t.grp = s.grp) ∧
  (∀ (d : LinkDir) (s : State), d.link.ok = true → (RetKind.nak, 0) ∈ (s.link d).retIn → (tabGet {} (s.link d).rx ctlKey).discard = true →
    ∃ t, exec (.nakReturn d 0 false) s = .next t ∧
      (let a := tabGet {} (s.link d).tx ctlKey
       let b := tabGet {} (t.link d).tx ctlKey
       b.ready = a.sent ++ a.ready ∧ b.sent = [] ∧ b.acc = 0 ∧ b.rpl = true) ∧
      t.fab.chans = s.fab.chans ∧ t.ports = s.ports ∧ t.flt = s.flt ∧ t.grp = s.grp) ∧
  (∀ (l : LinkId) (ch : Nat) (ctx : Bool) (s : State),
    l.ok = true → ch < 16 → (RetKind.rewind, chCtx ch ctx) ∈ (s.link ⟨l, false⟩).retIn →
    ∃ t, exec (.rewind ⟨l, false⟩ ch ctx) s = .next t ∧
      (t.link ⟨l, false⟩).retIn = (s.link ⟨l, false⟩).retIn.erase (RetKind.rewind, chCtx ch ctx) ∧
      (tabGet {} (t.link ⟨l, false⟩).tx (chCtx ch ctx)).ready =
        (((s.nchan (upSender l ctx).1 ch (upSender l ctx).2).up.filter fun u => !u.gone).map (·.frame)).flatMap (fun f =>
          frameBeats (linkW l) (unitBytes l (s.link ⟨l, false⟩).width) f.gid (frameBytes f)) ∧
      t.fab.chans = s.fab.chans ∧ t.ports = s.ports ∧ t.flt = s.flt ∧ t.grp = s.grp) ∧
  (∀ (l : LinkId) (ch : Nat) (ctx : Bool) (s : State),
    l.ok = true → ch < 16 → (RetKind.rewind, chCtx ch ctx) ∈ (s.link ⟨l, true⟩).retIn →
    childLink s (upTarget l ctx).1 (upTarget l ctx).2.1 (upTarget l ctx).2.2 = some (l, ctx) →
    ∃ t, exec (.rewind ⟨l, true⟩ ch ctx) s = .next t ∧
      (t.link ⟨l, true⟩).retIn = (s.link ⟨l, true⟩).retIn.erase (RetKind.rewind, chCtx ch ctx) ∧
      (let u := upTarget l ctx
       (tabGet {} (t.link ⟨l, true⟩).tx (chCtx ch ctx)).ready =
        (((s.nchan u.1 ch u.2.1).down.filter fun x => !x.gone && x.taken.contains u.2.2 && !x.released.contains u.2.2).map (·.frame)).flatMap fun f =>
          frameBeats (linkW l) (unitBytes l (s.link ⟨l, true⟩).width) f.gid (frameBytes f)) ∧
      t.ports = s.ports ∧ t.flt = s.flt ∧ t.grp = s.grp) ∧
  (∀ (l : LinkId) (ch : Nat) (ctx : Bool) (s : State),
    l.ok = true → ch < 16 → (RetKind.release, chCtx ch ctx) ∈ (s.link ⟨l, false⟩).retIn →
    ∃ t, exec (.release ⟨l, false⟩ ch ctx) s = .next t ∧
      (t.link ⟨l, false⟩).retIn = (s.link ⟨l, false⟩).retIn.erase (RetKind.release, chCtx ch ctx) ∧
      (t.nchan (upSender l ctx).1 ch (upSender l ctx).2).up = (s.nchan (upSender l ctx).1 ch (upSender l ctx).2).up.drop 1 ∧
      t.ports = s.ports ∧ t.grp = s.grp ∧ t.flt = s.flt ∧ t.mrv = s.mrv) ∧
  (∀ (l : LinkId) (ch : Nat) (ctx : Bool) (s : State),
    l.ok = true → ch < 16 → (RetKind.release, chCtx ch ctx) ∈ (s.link ⟨l, true⟩).retIn →
    exec (.release ⟨l, true⟩ ch ctx) s = .next
      (slotReleased (s.modLink ⟨l, true⟩ fun x => { x with retIn := x.retIn.erase (RetKind.release, chCtx ch ctx) })
        (upTarget l ctx).1 ch (upTarget l ctx).2.1 (upTarget l ctx).2.2)) ∧
  (∀ (d : LinkDir) (ch : Nat) (ctx : Bool) (y : UpChunk × List UpChunk) (s : State),
    d.link.ok = true → ch < 16 → (RetKind.held, chCtx ch ctx) ∈ (s.link d).retIn →
    markHeld (s.nchan (upSender d.link ctx).1 ch (upSender d.link ctx).2).up = some y → y.1.gone = false →
    ∃ t, exec (.held d ch ctx) s = .next t ∧ (t.link d).retIn = (s.link d).retIn.erase (RetKind.held, chCtx ch ctx) ∧
      (t.nchan (upSender d.link ctx).1 ch (upSender d.link ctx).2).up = y.2 ∧
      t.ports = s.ports ∧ t.grp = s.grp ∧ t.flt = s.flt ∧ t.mrv = s.mrv) ∧
  (∀ (u : UpChunk) (us : List UpChunk), u.heldUp = false → markHeld (u :: us) = some (u, { u with heldUp := true } :: us)) ∧
  (∀ (u : UpChunk) (us : List UpChunk), u.heldUp = true → markHeld (u :: us) = (markHeld us).map fun y => (y.1, u :: y.2))

/-- R31, R32, R45: a copy in disagreement for four cycles raises F_LINK_CTL and its count begins anew; 64 cycles without a change of LIVE lose a
link: F_LINK_LOST above the blocks, a standby link that no longer serves a re-home, HOME_LOST from a cell that hears its hub no more,
and a re-home where the hub is no longer heard.
R56 to R60: the buddy passes HOME_LOST on towards the region hub, which re-homes the block unless its buddy already carries another or a
standby link is unusable; REHOME_GO goes on to the block's cells, and a cell that gets it is switched to its standby link. -/
def Obligations.LinkFailuresAndRehoming : Prop :=
  (∀ (d : LinkDir) (copy i : Nat) (s : State), d.link.ok = true → copy < 3 → i < 20 → 4 ≤ tabGet 0 (s.link d).dis (copy * 20 + i) →
    exec (.linkCtlDisagree d copy i) s = .next
      (raise (s.modLink d fun l => { l with dis := tabSet 0 l.dis (copy * 20 + i) 0 }) (linkEv .linkCtl d 0 i))) ∧
  (∀ (d : LinkDir) (s : State), d.link.ok = true → 64 ≤ (s.link d).liveAge → (s.link d).lost = false →
    ((∃ r, d.link = .region r) ∨ ∃ h, d.link = .half h) →
    exec (.liveTimeout d) s = .next (raise (s.modLink d fun l => { l with lost := true }) (linkEv .linkLost d 0 0))) ∧
  (∀ (c : Nat) (dn : Bool) (s : State), c < 1280 → 64 ≤ (s.link ⟨.standby c, dn⟩).liveAge → (s.link ⟨.standby c, dn⟩).lost = false →
    switched s c = false →
    ∃ t, exec (.liveTimeout ⟨.standby c, dn⟩) s = .next t ∧ (t.link ⟨.standby c, false⟩).unusable = true ∧
      (t.link ⟨.standby c, true⟩).unusable = true ∧ (t.link ⟨.standby c, dn⟩).lost = true ∧
      t.flt.synd = addEvent (linkEv .standby ⟨.standby c, dn⟩ 0 0) s.flt.synd ∧ t.grp = s.grp ∧ t.ports = s.ports) ∧
  (∀ (c : Nat) (s : State), c < 1280 → 64 ≤ (s.link ⟨.cell c, true⟩).liveAge → (s.link ⟨.cell c, true⟩).lost = false →
    (s.rehome (blockOfCell c)).step < 2 → (s.link ⟨.standby c, false⟩).unusable = false → (s.link ⟨.standby c, true⟩).homeAsk = none →
    ∃ t, exec (.liveTimeout ⟨.cell c, true⟩) s = .next t ∧ (t.link ⟨.cell c, true⟩).lost = true ∧ (t.rehome (blockOfCell c)).step = 1 ∧
      (t.link ⟨.standby c, true⟩).homeAsk = some (0, (s.link ⟨.standby c, true⟩).cyc) ∧
      (tabGet {} (t.link ⟨.standby c, false⟩).tx ctlKey).ready.length > (tabGet {} (s.link ⟨.standby c, false⟩).tx ctlKey).ready.length ∧
      t.flt = s.flt ∧ t.grp = s.grp ∧ t.ports = s.ports) ∧
  (∀ (b : Nat) (dn : Bool) (s : State), b < 64 → 64 ≤ (s.link ⟨.block b, dn⟩).liveAge → (s.link ⟨.block b, dn⟩).lost = false →
    exec (.liveTimeout ⟨.block b, dn⟩) s = .next (rehomeStart (s.modLink ⟨.block b, dn⟩ fun l => { l with lost := true }) b)) ∧
  (∀ (c : Nat) (s : State), c < 1280 → 64 ≤ (s.link ⟨.cell c, false⟩).liveAge → (s.link ⟨.cell c, false⟩).lost = false →
    exec (.liveTimeout ⟨.cell c, false⟩) s = .next (rehomeStart (s.modLink ⟨.cell c, false⟩ fun l => { l with lost := true }) (blockOfCell c))) ∧
  (∀ (c : Nat) (dn : Bool) (f : LinkCtl) (r : List LinkCtl) (s : State), c < 1280 →
    takeFirst (fun f => fld (ctlBlock f) 0 8 == 3) (s.link ⟨.standby c, dn⟩).ctlIn = some (f, r) →
    exec (.homeLost ⟨.standby c, dn⟩) s = .next
      (queueCtl (s.modLink ⟨.standby c, dn⟩ fun l => { l with ctlIn := r }) ⟨.block (buddy (blockOfCell c)), false⟩
        { f with slvl := 2, sidx := buddy (blockOfCell c) })) ∧
  (∀ (h : Nat) (dn : Bool) (f : LinkCtl) (r : List LinkCtl) (s : State), h < 64 →
    takeFirst (fun f => fld (ctlBlock f) 0 8 == 3) (s.link ⟨.block h, dn⟩).ctlIn = some (f, r) →
    exec (.homeLost ⟨.block h, dn⟩) s = .next
      (rehomeStart (s.modLink ⟨.block h, dn⟩ fun l => { l with ctlIn := r }) (fld (ctlBlock f) 55 6))) ∧
  (∀ (b : Nat) (s : State), b < 64 → (s.rehome b).step < 2 → (s.rehome (buddy b)).step < 2 → canRehome s b = true →
    ((rehomeStart s b).rehome b).step = 2 ∧ bit (rehomeStart s b).lehr.rehomeB b = true ∧
    (rehomeStart s b).flt.synd = addEvent { mkEv .rehome 3 (regionOfBlock b) with detail := BitVec.ofNat 16 b } s.flt.synd ∧
    (rehomeStart s b).grp = s.grp ∧ (rehomeStart s b).ports = s.ports) ∧
  (∀ (b : Nat) (s : State), (s.rehome b).step < 2 → (s.rehome (buddy b)).step < 2 → canRehome s b = false → rehomeStart s b = pathLost s b) ∧
  (∀ (h : Nat) (dn : Bool) (f : LinkCtl) (r : List LinkCtl) (s : State), h < 64 →
    takeFirst (fun f => fld (ctlBlock f) 0 8 == 4) (s.link ⟨.block h, dn⟩).ctlIn = some (f, r) →
    ∃ t, exec (.rehomeGo ⟨.block h, dn⟩) s = .next t ∧ (t.rehome (fld (ctlBlock f) 55 6)).step = max 3 (s.rehome (fld (ctlBlock f) 55 6)).step ∧
      (∀ i < 20, (tabGet {} (t.link ⟨.standby (20 * fld (ctlBlock f) 55 6 + i), true⟩).tx ctlKey).ready.length >
        (tabGet {} (s.link ⟨.standby (20 * fld (ctlBlock f) 55 6 + i), true⟩).tx ctlKey).ready.length) ∧
      t.flt = s.flt ∧ t.ports = s.ports ∧ t.grp = s.grp) ∧
  (∀ (c : Nat) (dn : Bool) (f : LinkCtl) (r : List LinkCtl) (s : State), c < 1280 →
    takeFirst (fun f => fld (ctlBlock f) 0 8 == 4) (s.link ⟨.standby c, dn⟩).ctlIn = some (f, r) → switched s c = false →
    ∃ t, exec (.rehomeGo ⟨.standby c, dn⟩) s = .next t ∧ switched t c = true ∧
      (tabGet {} t.fab.links (LinkDir.key ⟨.cell c, false⟩)).tx = [] ∧ t.flt = s.flt ∧ t.ports = s.ports ∧ t.grp = s.grp)

/-- R43, R67: the NAKs of a direction call for a check of 128 cycles; a request holds the opposite direction and is answered; an answer
starts the count; a request or HOME_LOST that is not answered within 256 cycles is sent again.
R44, R45, R46, R67: the count's end judges the lanes and reports them: spares in use and a half width are raised, eighth width only
reports. The report sets both ends free with the width and the spares judged, or as lost where no half is whole. -/
def Obligations.LaneChecksAndReports : Prop :=
  (∀ (d : LinkDir) (s : State), d.link.ok = true → (s.link d).chk = .idle →
    ((∃ k, 3 ≤ (tabGet {} (s.link d).rx k).naks) ∨ 8 ≤ ((s.link d).nakTimes.filter fun x => (s.link d).cyc < x + 1024).length) →
    ∃ t, exec (.laneCheckTrigger d) s = .next t ∧ (t.link d).chk = .asked 128 (s.link d).cyc ∧ (t.link d).nakTimes = [] ∧
      (tabGet {} (t.link (revDir d)).tx ctlKey).ready.length > (tabGet {} (s.link (revDir d)).tx ctlKey).ready.length ∧
      t.flt = s.flt ∧ t.ports = s.ports ∧ t.grp = s.grp) ∧
  (∀ (d : LinkDir) (f : LinkCtl) (r : List LinkCtl) (k c : Nat) (s : State), d.link.ok = true →
    takeFirst (fun f => fld (ctlBlock f) 0 8 == 1) (s.link d).ctlIn = some (f, r) → bit (ctlBlock f) 8 = true → (s.link d).chk = .asked k c →
    ∃ t, exec (.laneCheck d) s = .next t ∧ (t.link d).chk = .running k ∧ (t.link d).ctlIn = r ∧ t.flt = s.flt ∧ t.ports = s.ports) ∧
  (∀ (d : LinkDir) (f : LinkCtl) (r : List LinkCtl) (s : State), d.link.ok = true →
    takeFirst (fun f => fld (ctlBlock f) 0 8 == 1) (s.link d).ctlIn = some (f, r) → bit (ctlBlock f) 8 = false →
    ∃ t, exec (.laneCheck d) s = .next t ∧ (t.link (revDir d)).hold = true ∧
      (t.link (revDir d)).prbsDue = some (fld (ctlBlock f) 16 24) ∧ (t.link d).ctlIn = r ∧
      (tabGet {} (t.link (revDir d)).tx ctlKey).ready.length > (tabGet {} (s.link (revDir d)).tx ctlKey).ready.length ∧ t.flt = s.flt) ∧
  (∀ (d : LinkDir) (k c : Nat) (s : State), d.link.ok = true → (s.link d).chk = .asked k c → c + 256 ≤ (s.link d).cyc →
    ∃ t, exec (.linkctlRetry d) s = .next t ∧ (t.link d).chk = .asked k (s.link d).cyc ∧
      (tabGet {} (t.link (revDir d)).tx ctlKey).ready.length > (tabGet {} (s.link (revDir d)).tx ctlKey).ready.length ∧
      t.flt = s.flt ∧ t.ports = s.ports) ∧
  (∀ (n why c : Nat) (s : State), n < 1280 → (s.link ⟨.standby n, true⟩).homeAsk = some (why, c) → c + 256 ≤ (s.link ⟨.standby n, true⟩).cyc →
    ∃ t, exec (.linkctlRetry ⟨.standby n, true⟩) s = .next t ∧
      (t.link ⟨.standby n, true⟩).homeAsk = some (why, (s.link ⟨.standby n, true⟩).cyc) ∧
      (tabGet {} (t.link ⟨.standby n, false⟩).tx ctlKey).ready.length > (tabGet {} (s.link ⟨.standby n, false⟩).tx ctlKey).ready.length ∧
      t.flt = s.flt ∧ t.ports = s.ports) ∧
  (∀ (d : LinkDir) (fails : List LaneFail) (k : Nat) (s : State), d.link.ok = true → (s.link d).chk = .running k →
    ∃ t, exec (.prbsCountEnd d fails) s = .next t ∧
      (t.link d).chk = .counted (checkMode d (s.link d) fails) (2040 < fails.length) fails (s.link d).cyc ∧ t.grp = s.grp ∧ t.ports = s.ports ∧
      (checkMode d (s.link d) fails ≠ 3 →
        t.flt = (if (s.link d).width = .eighth then s else raiseAll s (repairEvents d (s.link d) fails (checkMode d (s.link d) fails))).flt ∧
        (tabGet {} (t.link (revDir d)).tx ctlKey).ready.length > (tabGet {} (s.link (revDir d)).tx ctlKey).ready.length)) ∧
  (∀ (d : LinkDir) (f : LinkCtl) (r : List LinkCtl) (m c : Nat) (o : Bool) (fails : List LaneFail) (s : State), d.link.ok = true →
    takeFirst (fun f => fld (ctlBlock f) 0 8 == 2) (s.link d).ctlIn = some (f, r) → (s.link (revDir d)).chk = .counted m o fails c →
    (s.link (revDir d)).width ≠ .eighth → m ≠ 3 →
    ∃ t, exec (.laneReport d) s = .next t ∧ (t.link d).ctlIn = r ∧ (t.link (revDir d)).chk = .idle ∧ (t.link (revDir d)).hold = false ∧
      (t.link (revDir d)).prbs = false ∧ (t.link (revDir d)).width = modeWidth m ∧
      (t.link (revDir d)).spares = (s.link (revDir d)).spares ++ newSpares d.link (s.link (revDir d)) fails ∧
      (t.link (revDir d)).lost = (s.link (revDir d)).lost ∧ t.grp = s.grp ∧ t.ports = s.ports) ∧
  (∀ (d : LinkDir) (f : LinkCtl) (r : List LinkCtl) (c : Nat) (o : Bool) (fails : List LaneFail) (s : State), d.link.ok = true →
    takeFirst (fun f => fld (ctlBlock f) 0 8 == 2) (s.link d).ctlIn = some (f, r) → (s.link (revDir d)).chk = .counted 3 o fails c →
    (s.link (revDir d)).width ≠ .eighth →
    ∃ t, exec (.laneReport d) s = .next t ∧ (t.link d).ctlIn = r ∧ (t.link (revDir d)).chk = .idle ∧ (t.link (revDir d)).hold = false ∧
      (t.link (revDir d)).lost = true ∧ t.grp = s.grp ∧ t.ports = s.ports) ∧
  (∀ (d : LinkDir) (f : LinkCtl) (r : List LinkCtl) (m c : Nat) (o : Bool) (fails : List LaneFail) (s : State), d.link.ok = true →
    takeFirst (fun f => fld (ctlBlock f) 0 8 == 2) (s.link d).ctlIn = some (f, r) → (s.link (revDir d)).chk = .counted m o fails c →
    (s.link (revDir d)).width = .eighth →
    exec (.laneReport d) s = .next ((s.modLink d fun l => { l with ctlIn := r }).modLink (revDir d) fun l =>
      { l with chk := .idle, hold := false, prbs := false, prbsLeft := 0 }))

/-- R31, R42, R44, R48, R57, R67: in each cycle a sender drives LIVE and at most one return, in the order of R42; with nothing to send it drives no
beat; a unit of a LINKCTL frame, or of the channel and context whose turn it is, goes with its CRC; PRBS runs for its cycles; a hub that
its block has left drives nothing. -/
def Obligations.GrantDrivesOneUnit : Prop :=
  (∀ (d : LinkDir) (s : State), d.link.ok = true → s.boot.rst = none → (s.link d).lost = false → silent s d = false →
    (s.link (revDir d)).rets = [] → (s.link d).tx = [] → (s.link d).prbs = false →
    ∃ t, exec (.linkGrant d) s = .next t ∧ (t.link d).beatOut = none ∧ bit (t.link d).word 0 = false ∧ bit (t.link d).word 9 = false ∧
      (t.link d).liveDrv = (if 16 ≤ (s.link d).liveCnt + 1 then !(s.link d).liveDrv else (s.link d).liveDrv) ∧
      t.flt = s.flt ∧ t.ports = s.ports ∧ t.fab.chans = s.fab.chans) ∧
  (∀ (d : LinkDir) (k : RetKind) (code key : Nat) (s : State), d.link.ok = true → s.boot.rst = none → (s.link d).lost = false →
    silent s d = false → pickRet (s.link (revDir d)).rets = some (k, code, key) →
    ∃ t, exec (.linkGrant d) s = .next t ∧ bit (t.link d).word 9 = true ∧ fld (t.link d).word 10 3 = code ∧
      (t.link (revDir d)).rets = tabMod {} (s.link (revDir d)).rets key (retSent k) ∧
      t.flt = s.flt ∧ t.ports = s.ports ∧ t.fab.chans = s.fab.chans) ∧
  (∀ (d : LinkDir) (u : Beat) (r : List Beat) (s : State), d.link.ok = true → s.boot.rst = none → (s.link d).lost = false →
    silent s d = false → cellQuiet s d = false → (s.link d).prbs = false →
    ((s.link d).midKey = ctlKey ∨ (tabGet {} (s.link d).tx (s.link d).midKey).sent.length % unitsPerBeat (s.link d).width = 0) →
    (tabGet {} (s.link d).tx ctlKey).ready = u :: r →
    ∃ t, exec (.linkGrant d) s = .next t ∧ (t.link d).beatOut = some (u.data, crc16 u.data) ∧ bit (t.link d).word 0 = true ∧
      (tabGet {} (t.link d).tx ctlKey).ready = r ∧ t.flt = s.flt ∧ t.ports = s.ports ∧ t.fab.chans = s.fab.chans) ∧
  (∀ (d : LinkDir) (c : Nat) (ctx : Bool) (u : Beat) (r : List Beat) (s : State), d.link.ok = true → s.boot.rst = none →
    (s.link d).lost = false → silent s d = false → cellQuiet s d = false → (s.link d).prbs = false →
    (tabGet {} (s.link d).tx (s.link d).midKey).sent.length % unitsPerBeat (s.link d).width = 0 →
    (tabGet {} (s.link d).tx ctlKey).ready = [] → (s.link d).hold = false → s.stopped = false → (s.node (txNode d)).kac = false →
    grantChan s d (s.link d) ctx = some c → (grantChan s d (s.link d) (!ctx) = none ∨ (s.link d).lastForeign = !ctx) →
    (tabGet {} (s.link d).tx (chCtx c ctx)).ready = u :: r →
    ∃ t, exec (.linkGrant d) s = .next t ∧ (t.link d).beatOut = some (u.data, crc16 u.data) ∧ bit (t.link d).word 0 = true ∧
      fld (t.link d).word 4 4 = c ∧ bit (t.link d).word 8 = ctx ∧ (tabGet {} (t.link d).tx (chCtx c ctx)).ready = r ∧
      (tabGet {} (t.link d).tx (chCtx c ctx)).sent = (tabGet {} (s.link d).tx (chCtx c ctx)).sent ++ [u] ∧
      (t.link d).lastForeign = ctx ∧ t.flt = s.flt ∧ t.ports = s.ports ∧ t.fab.chans = s.fab.chans) ∧
  (∀ (d : LinkDir) (s : State), d.link.ok = true → s.boot.rst = none → (s.link d).lost = false → silent s d = false → (s.link d).prbs = true →
    ∃ t, exec (.linkGrant d) s = .next t ∧ (t.link d).beatOut = none ∧ (t.link d).prbsLeft = (s.link d).prbsLeft - 1 ∧
      (t.link d).prbs = decide (1 < (s.link d).prbsLeft) ∧ (t.link d).tx = (s.link d).tx ∧ t.flt = s.flt ∧ t.ports = s.ports) ∧
  (∀ (d : LinkDir) (s : State), d.link.ok = true → s.boot.rst = none → (s.link d).lost = false → silent s d = true →
    exec (.linkGrant d) s = .next (s.modLink d fun l => { l with word := pack 20 [(18, 1, b2n l.liveDrv)], beatOut := none }))

/-- R36, R67: the oldest whole frame is judged: a LINKCTL frame that is as R67 requires is kept, any other raises F_LINK_CTL; a good and
wanted up frame goes to the slot of its link, a good down frame that is new is held, a current frame that is not as R35 to R37 require
raises F_FRAME, and a frame of another epoch is discarded and answered. -/
def Obligations.FrameIsJudged : Prop :=
  (∀ (d : LinkDir) (ctx : Bool) (w : List Byte × Nat) (r : List (List Byte × Nat)) (s : State), d.link.ok = true →
    (tabGet {} (s.link d).rx ctlKey).whole = w :: r →
    exec (.frameReceive d 16 ctx) s = .next
      (let t := modRx s d ctlKey fun x => { x with whole := r }
       if ctlOk d w.1 w.2 then
         t.modLink d fun l => { l with ctlIn := l.ctlIn ++ [{ slvl := (parseFrame w.1).slvl, sidx := (parseFrame w.1).sidx, payload := (parseFrame w.1).payload }] }
       else raise t (linkEv .linkCtl d 0 0))) ∧
  (∀ (l : LinkId) (ch : Nat) (ctx : Bool) (w : List Byte × Nat) (r : List (List Byte × Nat)) (s : State), l.ok = true → ch < 16 →
    (tabGet {} (s.link ⟨l, false⟩).rx (chCtx ch ctx)).whole = w :: r →
    frameCurrent s (upTarget l ctx).1 (upTarget l ctx).2.1 (parseFrame w.1) = true →
    frameOk ⟨l, false⟩ ch (parseFrame w.1) w.1 w.2 = true →
    wanted s (upTarget l ctx).1 ch (upTarget l ctx).2.1 (parseFrame w.1) = true →
    exec (.frameReceive ⟨l, false⟩ ch ctx) s = .next
      ((modRx s ⟨l, false⟩ (chCtx ch ctx) fun x => { x with whole := r }).modNchan (upTarget l ctx).1 ch (upTarget l ctx).2.1 fun c =>
        { c with slots := tabMod {} c.slots (upTarget l ctx).2.2 fun x => { x with frames := x.frames ++ [parseFrame w.1] } })) ∧
  (∀ (l : LinkId) (ch : Nat) (ctx : Bool) (w : List Byte × Nat) (r : List (List Byte × Nat)) (k : ChunkKey) (s : State), l.ok = true → ch < 16 →
    (tabGet {} (s.link ⟨l, true⟩).rx (chCtx ch ctx)).whole = w :: r →
    frameCurrent s (downTarget l ctx).1 (downTarget l ctx).2 (parseFrame w.1) = true → chunkKey s (parseFrame w.1) = some k →
    frameOk ⟨l, true⟩ ch (parseFrame w.1) w.1 w.2 = true →
    (s.nchan (downTarget l ctx).1 ch (downTarget l ctx).2).downSeen.contains k = false →
    ∃ t, exec (.frameReceive ⟨l, true⟩ ch ctx) s = .next t ∧
      (t.nchan (downTarget l ctx).1 ch (downTarget l ctx).2).down =
        (s.nchan (downTarget l ctx).1 ch (downTarget l ctx).2).down ++ [{ frame := parseFrame w.1, since := s.tb }] ∧
      (t.nchan (downTarget l ctx).1 ch (downTarget l ctx).2).downComing =
        (s.nchan (downTarget l ctx).1 ch (downTarget l ctx).2).downComing.drop 1 ∧
      (tabGet {} (t.link ⟨l, true⟩).rx (chCtx ch ctx)).whole = r ∧ t.flt = s.flt ∧ t.ports = s.ports ∧ t.grp = s.grp) ∧
  (∀ (l : LinkId) (ch : Nat) (ctx : Bool) (w : List Byte × Nat) (r : List (List Byte × Nat)) (s : State), l.ok = true → ch < 16 →
    (tabGet {} (s.link ⟨l, false⟩).rx (chCtx ch ctx)).whole = w :: r →
    frameCurrent s (upTarget l ctx).1 (upTarget l ctx).2.1 (parseFrame w.1) = true →
    frameOk ⟨l, false⟩ ch (parseFrame w.1) w.1 w.2 = false →
    exec (.frameReceive ⟨l, false⟩ ch ctx) s = .next
      (raise (modRx s ⟨l, false⟩ (chCtx ch ctx) fun x => { x with whole := r }) (frameEvent s ⟨l, false⟩ (parseFrame w.1)))) ∧
  (∀ (l : LinkId) (ch : Nat) (ctx : Bool) (w : List Byte × Nat) (r : List (List Byte × Nat)) (s : State), l.ok = true → ch < 16 →
    (tabGet {} (s.link ⟨l, false⟩).rx (chCtx ch ctx)).whole = w :: r →
    nodeEpoch s (upTarget l ctx).1 (upTarget l ctx).2.1 (parseFrame w.1).gid ≠ some (parseFrame w.1).epoch →
    ∃ t, exec (.frameReceive ⟨l, false⟩ ch ctx) s = .next t ∧ t.flt = s.flt ∧ t.ports = s.ports ∧ t.grp = s.grp ∧
      (tabGet {} (t.nchan (upTarget l ctx).1 ch (upTarget l ctx).2.1).slots (upTarget l ctx).2.2).frames =
        (tabGet {} (s.nchan (upTarget l ctx).1 ch (upTarget l ctx).2.1).slots (upTarget l ctx).2.2).frames)

/-- R50: a cell with a free up buffer, whose turn it is among the channels that wait, opens the chunk that its cores' next supplies call for,
and asks those cores for their elements.
R49, R52, R108, R125, R176: once every core that feeds a cell's chunk has supplied its elements, the chunk is combined in the order of the
pairwise tree, the cell holds it whole, and the pushes count it; an uncombined contribution is passed on as it is. A hub or root whose
slots have each brought the last beat and a good frame of the chunk holds it whole, combined from those frames. -/
def Obligations.CellsFormUpChunks : Prop :=
  (∀ (cell ch : Nat) (o : OutChunk) (s : State), cell < 1280 → ch < 16 → s.stopped = false → s.boot.brake = false →
    (s.node (.cell cell)).kac = false → (s.nchan (.cell cell) ch false).out = none → cellUpFree s cell ch = true →
    cellNext s cell ch = some o →
    exec (.upChunkOpen cell ch) s = .next
      (let s1 := s.modNchan (.cell cell) ch false fun c => { c with out := some o, slots := [] }
       (cellFeeders s1 cell o).foldl (askCore o ch) s1)) ∧
  (∀ (cell ch : Nat) (ctx : Bool) (o : OutChunk) (k0 : Coll) (s : State), cell < 1280 → ch < 16 → (s.node (.cell cell)).kac = false →
    (s.nchan (.cell cell) ch false).out = some o → collOf (s.group o.hdr.gid) o.hdr.cid = some k0 →
    ((cellFeeders s cell o).all fun k => (tabGet {} (s.nchan (.cell cell) ch false).slots (k % 4)).ready) = true →
    exec (.upCombine (.cell cell) ch ctx) s = .next
      (let ks := cellFeeders s cell o
       let slot (k : Nat) : SlotIn := tabGet {} (s.nchan (.cell cell) ch false).slots (k % 4)
       let r := combineCols o.hdr.fmt o.hdr.op 2 o.nel ([0, 1, 2, 3].map fun q => if ks.contains (4 * cell + q) then (slot q).ops else [])
         (ks.foldl (fun (a : BitVec 64) k => addFlags a (slot k).cvf (slot k).afl) 0)
         (swTree 2 ([0, 1, 2, 3].map fun q => if ks.contains (4 * cell + q) then some (slot q).sw else none))
       let s1 := s.modNchan (.cell cell) ch false fun c => { c with slots := [] }
       let s2 := if o.src.isSome then copyStep s1 (.cell cell) ch false o.hdr.gid k0 o.hdr.cseq.toNat else s1
       ks.foldl (coreHeld o.hdr.gid o.hdr.cid) (chunkWhole s2 (.cell cell) ch false
         { o.hdr with payload := padTo r.1 (4 * ceilDiv r.1.length 4), status := r.2, nslot := ks.length } o.src))) ∧
  (∀ (n : NodeId) (ch : Nat) (ctx : Bool) (o : OutChunk) (got : List (Nat × Frame)) (s : State), n.ok = true → ch < 16 → (∀ c, n ≠ .cell c) →
    (s.node n).kac = false → ((purgeSlots s n ch ctx).nchan n ch ctx).out = some o → o.src = none → o.eof = true →
    got.map (·.1) = memberSlots s n ctx o.hdr.gid →
    (∀ e ∈ got, ∃ fs, (tabGet {} ((purgeSlots s n ch ctx).nchan n ch ctx).slots e.1).frames = e.2 :: fs ∧ sameChunk e.2 o.hdr = true) →
    exec (.upCombine n ch ctx) s = .next
      (chunkWhole ((purgeSlots s n ch ctx).modNchan n ch ctx fun c =>
        { c with slots := (memberSlots s n ctx o.hdr.gid).foldl (fun t i => tabMod {} t i fun x => { x with frames := x.frames.drop 1 }) c.slots })
        n ch ctx (combineFrames n o.hdr got) none))

/-- R50, R53: a node offers each child slot the oldest chunk that waits for it; the slot takes it when a down buffer is free, which is reserved,
and the frame goes down its link. A cell offers its chunks to its cores; one that has no part in the collective accepts at once. -/
def Obligations.DownChunkGoesToAFreeBuffer : Prop :=
  (∀ (n : NodeId) (ch : Nat) (ctx : Bool) (s : State), n.ok = true → ch < 16 → (∀ c, n ≠ .cell c) → (s.node n).kac = false →
    s.stopped = false →
    exec (.downOffer n ch ctx) s = .next ((List.range (nslots n)).foldl (fun t i => offerSlot t n ch ctx i) s)) ∧
  (∀ (n : NodeId) (ch i : Nat) (ctx : Bool) (l : LinkId × Bool) (x : DownChunk) (pre r : List DownChunk) (s : State),
    childLink s n ctx i = some l → (s.nchan n ch ctx).down = pre ++ x :: r →
    (∀ y ∈ pre, y.taken.contains i = true ∨ (downSlots s n ctx y.frame).contains i = false) → x.taken.contains i = false →
    (downSlots s n ctx x.frame).contains i = true → childFree s n ch ctx i (downTarget l.1 l.2) = true →
    offerSlot s n ch ctx i = queueFrame
      ((s.modNchan n ch ctx fun c => { c with down := pre ++ { x with taken := x.taken ++ [i] } :: r }).modNchan (downTarget l.1 l.2).1 ch (downTarget l.1 l.2).2
        fun c => { c with downComing := c.downComing ++ [frameKey x.frame] }) ⟨l.1, true⟩ ch l.2 x.frame) ∧
  (∀ (c ch : Nat) (ctx : Bool) (s : State), c < 1280 → ch < 16 → (s.node (.cell c)).kac = false → s.stopped = false →
    exec (.downOffer (.cell c) ch ctx) s = .next (cellOffer s c ch)) ∧
  (∀ (k : Nat) (f : Frame) (c : Coll) (s : State), collOf (s.group f.gid) f.cid = some c → c.coresLeft.contains (2 * k + 1) = false →
    ((s.port k).pull.opened.any fun x => x.gid == f.gid && x.cid == f.cid) = false → coreAccepts s k f = some s)

/-- R54, R209, R230: a packet that has waited its group's STALL raises F_STALL of the class of STALLACT, and its next period begins; so does the
oldest down chunk that a child has not taken; none while the power brake holds.
R62, R63, R295: a disagreement of a node's copies, on either path, or of Marver's step control raises F_LOCKSTEP; which copy and which of the
chunks at hand it concerns are free values (log entry 3). A block hub has one copy. A check that fails both copies loses the node; one
that fails a copy fences it; one that fails none leaves it as it was. -/
def Obligations.StallsAndKnownAnswers : Prop :=
  (∀ (p g : Nat) (vcb : Bool) (k : Packet) (s : State), p < 6 → s.boot.brake = false → stuckPacket s ((s.lport p).cls vcb) = some (g, k) →
    exec (.stallTimeout (.port p vcb)) s = .next
      (raise (modCls s p vcb fun c => { c with parked := c.parked.map fun e => if e.1 == k then (e.1, s.tb, e.2.2) else e })
        (stallEvent s 8 p 0 0 g (hCid k.head) (hCseq k.head)))) ∧
  (∀ (p : Nat) (vcb : Bool) (s : State), p < 6 → s.boot.brake = true → exec (.stallTimeout (.port p vcb)) s = .next s) ∧
  (∀ (n : NodeId) (ch i : Nat) (ctx : Bool) (x : DownChunk) (s : State), n.ok = true → ch < 16 → i < 20 →
    s.boot.brake = false → waveHolds s n ctx i = false →
    ((s.nchan n ch ctx).down.find? fun y => (if n.lvl = 1 then !y.released.contains i else !y.taken.contains i) &&
      (downSlots s n ctx y.frame).contains i) = some x →
    x.since + (s.group x.frame.gid).stall * 1024 * (tabGet 0 x.told i + 1) ≤ s.tb →
    ∃ t, exec (.stallTimeout (.child n ch ctx i)) s = .next t ∧
      t.flt.synd = addEvent (stallEvent s n.skind n.idx n.lvl i x.frame.gid x.frame.cid x.frame.cseq) s.flt.synd ∧
      ((t.nchan n ch ctx).down.map fun y => { y with told := [] }) = ((s.nchan n ch ctx).down.map fun y => { y with told := [] }) ∧
      t.grp = s.grp ∧ t.ports = s.ports) ∧
  (∀ (s : State) (a b c d g : Nat) (x y : BitVec 32), (stallEvent s a b c d g x y).cls = if (s.group g).report then 0 else 2) ∧
  (∀ (n : NodeId) (ch : Nat) (ctx down : Bool) (s : State), n.ok = true → ch < 16 → (∀ b, n ≠ .block b) → (s.node n).fenced = none →
    (s.node n).nodeLost = false → (s.node n).kac = false →
    ∃ t, exec (.lockstepMismatch (.node n) ch ctx down) s = .next t ∧
      t.flt.synd = addEvent (copyEvent s .lockstep n (Config.freeNat s.freeCtr % 2) ch
        ((stagePick (takeFree s).2 n ch ctx down).1.map (·.2))) s.flt.synd ∧
      t.grp = s.grp ∧ t.sync = s.sync ∧ t.host = s.host) ∧
  (∀ (b ch : Nat) (ctx down : Bool) (s : State), b < 64 → ch < 16 → exec (.lockstepMismatch (.node (.block b)) ch ctx down) s = .next s) ∧
  (∀ (ch : Nat) (ctx down : Bool) (s : State), ch < 16 → exec (.lockstepMismatch .steps ch ctx down) s = .next
    (raise (takeFree s).2 { mkEv .lockstep 6 16 with detail := pack 16 [(0, 1, Config.freeNat s.freeCtr % 2)] })) ∧
  (∀ (n : NodeId) (s : State), n.ok = true → (s.node n).kac = true →
    exec (.knownAnswerDone n true true) s = .next
      (raise ((s.modNode n fun x => { x with kac := false }).modNode n fun x => { x with nodeLost := true }) (copyEvent s .nodeLost n 0 0 none)) ∧
    (∃ t, exec (.knownAnswerDone n true false) s = .next t ∧ (t.node n).fenced = some false ∧ (t.node n).kac = false ∧
      t.flt.synd = addEvent (copyEvent s .copyFenced n 0 0 none) s.flt.synd) ∧
    (∃ t, exec (.knownAnswerDone n false true) s = .next t ∧ (t.node n).fenced = some true ∧ (t.node n).kac = false ∧
      t.flt.synd = addEvent (copyEvent s .copyFenced n 1 0 none) s.flt.synd) ∧
    ∃ t, exec (.knownAnswerDone n false false) s = .next t ∧ (t.node n).fenced = (s.node n).fenced ∧ (t.node n).kac = false ∧ t.flt = s.flt)

/-! ## Sync objects, waits and the Cane (05), messages (16) -/

/-- R135 to R138, R145: the accepted ARRIVEs of one edge count the sum of their operands. An ARMED object that reaches its threshold crosses:
k = COUNT / THRESH is added to GEN, the excess stays, TBX is set and k trigger notices go to Marver in one batch. While FROZEN the sum goes
to HELD.
R135: SIGNAL advances GEN by one, clears the COUNT of an ARMED object, sets TBX and hands Marver exactly one trigger notice; RESET
takes the new threshold and keeps GEN; READ returns the record; a refused operation changes no object. -/
def Obligations.OperationsOnSyncObjects : Prop :=
  (∀ (i n : Nat) (l r : List SoOp) (s : State), i < 32768 → takeOps i n s.sync.ops = (l, r) → l ≠ [] →
    (∀ op ∈ l, op.soid = i ∧ op.kind = .arrive ∧ soStatus s op = .ok) →
    ∃ t, exec (.soOpApply i n) s = .next t ∧ t.sync.ops = r ∧
      (let o := s.obj i
       let m := (l.map (·.opnd)).foldl (· + ·) 0
       let c := min (o.count + m) 0xFFFFFFFF
       let k := c / o.thresh
       if o.st = .armed ∧ 0 < o.thresh ∧ o.thresh ≤ c then
         (t.obj i).gen = o.gen + BitVec.ofNat 16 k ∧ (t.obj i).count = c % o.thresh ∧ (t.obj i).tbx = BitVec.ofNat 32 s.tb ∧
           t.sync.trig = s.sync.trig ++ [(i, k, false)]
       else if o.st = .frozen then
         (t.obj i).held = min (o.held + m) 0xFFFFFFFF ∧ (t.obj i).count = o.count ∧ (t.obj i).gen = o.gen ∧ t.sync.trig = s.sync.trig
       else (t.obj i).count = c ∧ (t.obj i).gen = o.gen ∧ t.sync.trig = s.sync.trig) ∧
      (t.obj i).thresh = (s.obj i).thresh ∧ (t.obj i).st = (s.obj i).st ∧ (∀ j, j ≠ i → t.obj j = s.obj j) ∧
      t.grp = s.grp ∧ t.fab = s.fab ∧ t.flt = s.flt ∧ t.cane = s.cane ∧ t.boot = s.boot) ∧
  (∀ (i : Nat) (op : SoOp) (r : List SoOp) (s : State), i < 32768 → takeOps i 1 s.sync.ops = ([op], r) → op.soid = i → op.kind = .signal →
    soStatus s op = .ok →
    ∃ t, exec (.soOpApply i 1) s = .next t ∧ t.sync.ops = r ∧ (t.obj i).gen = (s.obj i).gen + 1 ∧
      (t.obj i).count = (if (s.obj i).st = .armed then 0 else (s.obj i).count) ∧ (t.obj i).tbx = BitVec.ofNat 32 s.tb ∧
      t.sync.trig = s.sync.trig ++ [(i, 1, false)] ∧ (∀ j, j ≠ i → t.obj j = s.obj j) ∧ t.grp = s.grp ∧ t.fab = s.fab) ∧
  (∀ (i : Nat) (op : SoOp) (r : List SoOp) (s : State), i < 32768 → takeOps i 1 s.sync.ops = ([op], r) → op.soid = i → op.kind = .reset →
    soStatus s op = .ok →
    ∃ t, exec (.soOpApply i 1) s = .next t ∧ t.sync.ops = r ∧ (t.obj i).count = 0 ∧ (t.obj i).thresh = op.opnd ∧ (t.obj i).sat = false ∧
      (t.obj i).st = (if op.opnd = 0 then .idle else .armed) ∧ (t.obj i).gen = (s.obj i).gen ∧ t.sync.trig = s.sync.trig ∧
      (∀ j, j ≠ i → t.obj j = s.obj j) ∧ t.grp = s.grp ∧ t.fab = s.fab) ∧
  (∀ (i k : Nat) (op : SoOp) (r : List SoOp) (s : State), i < 32768 → takeOps i 1 s.sync.ops = ([op], r) → op.soid = i → op.kind = .read →
    soStatus s op = .ok → op.caller = .core k →
    ∃ t, exec (.soOpApply i 1) s = .next t ∧ t.sync.objs = s.sync.objs ∧ t.sync.ops = r ∧ (t.port k).sync = none ∧ (t.port k).syncSt = .ok ∧
      (t.port k).rv = true ∧ (t.port k).sorec = soRecord s i) ∧
  (∀ (i : Nat) (op : SoOp) (r : List SoOp) (s : State), i < 32768 → takeOps i 1 s.sync.ops = ([op], r) → op.soid = i →
    (soStatus s op ≠ .ok ∨ op.kind = .read) →
    ∃ t, exec (.soOpApply i 1) s = .next t ∧ t.sync.objs = s.sync.objs ∧ t.sync.ops = r ∧ t.sync.trig = s.sync.trig ∧
      ∀ k, op.caller = .core k → (t.port k).sync = none ∧ (t.port k).syncSt = soStatus s op)

/-- R142, R144, R153, R186: a sleeping waiter is woken with the cause and the object's values; a gated one sees cp_wake rise and cp_cg_req
fall. An expired wait ends in W_TIMEOUT and is recorded as F_WAIT_TIMEOUT; one whose deadline has not passed sleeps on. -/
def Obligations.SleepersAreWoken : Prop :=
  (∀ (cell : Nat) (n : Notice) (r : List Notice) (s : State), cell < 1280 → takeFirst (fun n => n.cell == cell) s.sync.notices = some (n, r) →
    ∃ t, exec (.soNotice cell) s = .next t ∧
      (∀ k w, k ∈ n.cores → (s.port k).wait = some w → n.st = .abandoned ∨ (n.st ≠ .frozen ∧ condHolds w.mode w.target n.count n.gen = true) →
        t.port k = { s.port k with wait := none, cgReq := false, wake := (s.port k).wake || w.gate, wres :=
          { code := if n.st = .abandoned then .ownerLost else if n.psn then .poison else .ok, v := true, mode := w.mode, st := n.st, gen := n.gen,
            val := BitVec.ofNat 32 n.count } }) ∧
      (∀ k w, k ∈ n.cores → (s.port k).wait = some w → n.st ≠ .abandoned → n.st = .frozen ∨ condHolds w.mode w.target n.count n.gen = false →
        t.port k = s.port k) ∧
      (∀ j, j ∉ n.cores → t.port j = s.port j) ∧ t.sync.objs = s.sync.objs ∧ t.grp = s.grp ∧ t.flt = s.flt ∧ t.fab = s.fab) ∧
  (∀ (k : Nat) (w : Wait) (s : State), k < 5120 → (s.port k).wait = some w → w.remain = none → w.deadline ≤ s.tb →
    ∃ t, exec (.waitTimeout k) s = .next t ∧ (t.port k).wait = none ∧ (t.port k).wres.code = .timeout ∧ (t.port k).wres.v = true ∧
      (t.port k).cgReq = false ∧ t.flt.synd = addEvent (timeoutEvent s k w) s.flt.synd ∧ (timeoutEvent s k w).cls = 0 ∧
      (∀ j, j ≠ k → t.port j = s.port j) ∧ t.sync.objs = s.sync.objs ∧ t.cane = s.cane ∧ t.grp = s.grp) ∧
  (∀ (k : Nat) (w : Wait) (s : State), k < 5120 → (s.port k).wait = some w → s.tb < w.deadline → exec (.waitTimeout k) s = .next s) ∧
  (∀ (k : Nat) (s : State), k < 5120 → (s.port k).cgReq = true →
    ∃ t, exec (.cpCgAck k true) s = .next t ∧ t.port k = { s.port k with cgAck := true } ∧ (∀ j, j ≠ k → t.port j = s.port j) ∧
      ∃ u, exec (.cpCgAck k false) t = .next u ∧ u.port k = { s.port k with cgAck := false, wake := false })

/-- R134, R150, R154: a remote ARRIVE or SIGNAL is judged by the group's owning tenant. Accepted, it has its effect; refused, it goes back with
SO_REFUSE and changes no object; before FULL, or on a chip not placed, it is refused with ST_BUSY. The refusal raises F_SO_REMOTE (C2) on
the group that the operation named. -/
def Obligations.RemoteOperations : Prop :=
  (∀ (p g : Nat) (f : BitVec 512) (r : List (BitVec 512)) (s : State), p < 6 → s.stopped = false →
    takeFirst (fun f => cKind f == ckSoOp) (s.lport p).inbox = some (f, r) → findTag s (cTag f) = some g →
    ∃ t, exec (.soRemoteOp p) s = .next t ∧ (t.lport p).inbox = r ∧ t.grp = s.grp ∧ t.flt = s.flt ∧
      (let i := fld f 128 15
       let op : SoOp := { soid := i, kind := if fld f 143 2 = 1 then .signal else .arrive, opnd := fld f 145 16,
                          tid := (s.group g).tid, tag := none, caller := .remote (cSrc f) g p (cTag f) }
       (remoteReady s = false ∨ soStatus s op ≠ .ok → t.sync.objs = s.sync.objs) ∧
       (remoteReady s = true → soStatus s op = .ok → op.kind = .signal → (t.obj i).gen = (s.obj i).gen + 1 ∧ t.ports = s.ports) ∧
       (remoteReady s = true → soStatus s op = .ok → op.kind = .arrive → (s.obj i).st = .idle →
          (t.obj i).count = min ((s.obj i).count + op.opnd) 0xFFFFFFFF ∧ (t.obj i).lastk = 3 ∧ (t.obj i).lastx = cSrc f ∧ t.ports = s.ports))) ∧
  (∀ (p g : Nat) (f : BitVec 512) (r : List (BitVec 512)) (s : State), p < 6 →
    takeFirst (fun f => cKind f == ckSoRefuse) (s.lport p).inbox = some (f, r) → findTag s (cTag f) = some g →
    ∃ t, exec (.soRefuse p) s = .next t ∧ (t.lport p).inbox = r ∧
      t.flt.synd = addEvent (soRemoteEvent s g (cSrc f) (fld f 128 15) (fld f 145 4)) s.flt.synd ∧
      (soRemoteEvent s g (cSrc f) (fld f 128 15) (fld f 145 4)).cls = 2 ∧ t.sync = s.sync ∧ t.ports = s.ports ∧ t.grp = s.grp)

/-- R156, R157, R164: when every unmasked leg stands at the target, the release leg goes to it and the phase count rises by one; a channel that
spans chips enters its first stage instead. The release reaches a cell, whose cores that wait for it wake with W_OK and the new phase count. -/
def Obligations.CaneReleasesItsMembers : Prop :=
  (∀ (cn g : Nat) (s : State), cn < 64 → caneReady s cn = true → (s.cchan cn).bound = some g → (s.cchan cn).xchip = false →
    bootBarrier s cn = false →
    ∃ t, exec (.caneRelease cn) s = .next t ∧ (t.cchan cn).phase = (s.cchan cn).phase + 1 ∧
      (t.cchan cn).sense = decide ((s.cchan cn).phase.toNat % 2 = 0) ∧ (t.cchan cn).legs = (s.cchan cn).legs ∧
      (∀ c, (∃ k ∈ caneMembers s cn, cellOf k = c) → (cn, c, decide ((s.cchan cn).phase.toNat % 2 = 0), (s.cchan cn).phase + 1) ∈ t.cane.rel) ∧
      (∀ d, d ≠ cn → t.cchan d = s.cchan d) ∧ t.ports = s.ports ∧ t.grp = s.grp ∧ t.sync.objs = s.sync.objs ∧ t.flt = s.flt) ∧
  (∀ (cn : Nat) (s : State), cn < 64 → caneReady s cn = true → bootBarrier s cn = true → exec (.caneRelease cn) s = .next (caneRelease s cn)) ∧
  (∀ (cn g : Nat) (s : State), cn < 64 → caneReady s cn = true → bootBarrier s cn = false → (s.cchan cn).bound = some g →
    (s.cchan cn).xchip = true → (s.cchan cn).stage = 0 → remoteReady s = true →
    exec (.caneRelease cn) s = .next (enterStages cn g (caneTarget (s.cchan cn)) 0 (stagesOf s g) s)) ∧
  (∀ (cn : Nat) (s : State), cn < 64 → (s.stopped = true ∨ (s.cchan cn).lost = true ∨ caneArrived s cn = false) →
    exec (.caneRelease cn) s = .next s) ∧
  (∀ (cn cell : Nat) (lv : Bool) (ph : BitVec 32) (r : List (Nat × Nat × Bool × BitVec 32)) (s : State), cn < 64 →
    cell < 1280 → takeFirst (fun r => r.1 == cn && r.2.1 == cell) s.cane.rel = some ((cn, cell, lv, ph), r) →
    ∃ t, exec (.caneReleaseArrive cn cell) s = .next t ∧ t.cane.rel = r ∧ tabGet false (t.cchan cn).relLeg cell = lv ∧
      (∀ k w, cellOf k = cell → (s.port k).wait = some w → w.mode = .cane → w.id = cn →
        (t.port k).wait = none ∧ (t.port k).wres.code = .ok ∧ (t.port k).wres.val = ph ∧ (t.port k).wake = ((s.port k).wake || w.gate)) ∧
      (∀ j, cellOf j ≠ cell → t.port j = s.port j) ∧ t.grp = s.grp ∧ t.flt = s.flt ∧ t.sync.objs = s.sync.objs)

/-- R158: a flagged copy of a channel on a link raises F_CANE_VOTE; the first lets operation continue, a second raises F_CANE_LOST of class C2
besides and fences the channel.
R164, R165: a member records the token of another chip under its parity, stage and origin, and goes on when its stage is complete; a token of
a group that no inter-chip channel is bound to here raises F_SO_REMOTE; one of a tag that no group has is dropped. -/
def Obligations.CaneCopiesAndTokens : Prop :=
  (∀ (lv n sl cn cp : Nat) (s : State), lv < 4 → cn < 64 → cp < 3 → s.cane.flags.contains (lv, n, sl, cn, cp) = false →
    ∃ t, exec (.caneVoteDisagree lv n sl cn cp) s = .next t ∧ t.cane.flags = s.cane.flags ++ [(lv, n, sl, cn, cp)] ∧
      (∀ d, d ≠ cn → t.cchan d = s.cchan d) ∧ t.grp = s.grp ∧ t.sync.objs = s.sync.objs ∧
      (∃ e ∈ t.flt.synd, e.code = .caneVote ∧ e.sidx = cn ∧ e.cls = 1) ∧
      (if s.cane.flags.any (fun f => f.1 == lv && f.2.1 == n && f.2.2.1 == sl && f.2.2.2.1 == cn) then
         (t.cchan cn).lost = true ∧ ∃ e ∈ t.flt.synd, e.code = .caneLost ∧ e.sidx = cn ∧ e.cls = 2 ∧ e.gid = (s.cchan cn).bound
       else t.cchan cn = s.cchan cn ∧ t.ports = s.ports)) ∧
  (∀ (p g cn : Nat) (f : BitVec 512) (r : List (BitVec 512)) (s : State), p < 6 → s.stopped = false →
    takeFirst (fun f => cKind f == ckToken) (s.lport p).inbox = some (f, r) → findTag s (cTag f) = some g → caneOfX s g = some cn →
    fld f 131 12 ≠ s.self →
    exec (.caneToken p) s = .next (tokenRecord (s.modLport p fun l => { l with inbox := r }) cn g ⟨bit f 128, fld f 129 2, fld f 131 12⟩)) ∧
  (∀ (cn g : Nat) (k : Token) (s : State), (s.cchan cn).stage = 0 →
    k ∈ ((tokenRecord s cn g k).cchan cn).tokens ∧ ((tokenRecord s cn g k).cchan cn).phase = (s.cchan cn).phase ∧
    (∀ d, d ≠ cn → (tokenRecord s cn g k).cchan d = s.cchan d) ∧ (tokenRecord s cn g k).ports = s.ports ∧ (tokenRecord s cn g k).flt = s.flt) ∧
  (∀ (p g : Nat) (f : BitVec 512) (r : List (BitVec 512)) (s : State), p < 6 → s.stopped = false →
    takeFirst (fun f => cKind f == ckToken) (s.lport p).inbox = some (f, r) → findTag s (cTag f) = some g → caneOfX s g = none →
    ∃ t, exec (.caneToken p) s = .next t ∧ (t.lport p).inbox = r ∧ t.cane = s.cane ∧ t.grp = s.grp ∧ t.ports = s.ports ∧
      ∃ e ∈ t.flt.synd, e.code = .soRemote ∧ e.sidx = fld f 131 12 ∧ e.gid = some g ∧ e.cls = 2) ∧
  (∀ (p : Nat) (f : BitVec 512) (r : List (BitVec 512)) (s : State), p < 6 → s.stopped = false →
    takeFirst (fun f => cKind f == ckToken) (s.lport p).inbox = some (f, r) → findTag s (cTag f) = none →
    exec (.caneToken p) s = .next (s.modLport p fun l => { l with inbox := r }))

/-- R152, R400, R401: with MSGEN and hw_msg_rdy at 1 the oldest due message leaves, with the address of the window and DBASE above its
source; at 0 none does. A pending bit the host clears falls, unless events were counted: then it is set again and one message is due. -/
def Obligations.MessagesLeaveAndAreCleared : Prop :=
  (∀ (src : Nat) (r : List Nat) (s : State), s.host.msgen = true → s.host.due = src :: r →
    ∃ t, exec (.msgEmit true) s = .next t ∧ t.host.due = r ∧ t.host.msgOut = some (s.host.msgAddr, msgData s src) ∧
      t.host.slots = s.host.slots ∧ t.sync = s.sync ∧ t.ports = s.ports ∧ t.flt = s.flt ∧ t.gaf = s.gaf ∧
      exec (.msgEmit false) s = .next s) ∧
  (∀ (s : State), s.host.msgen = false → exec (.msgEmit true) s = .next s) ∧
  (∀ (n : Nat) (s : State), n < 4096 → hostLive s = true →
    ∃ t, exec (.slotIpClear n) s = .next t ∧ (t.slot n).ip = ((s.slot n).ip && decide ((s.slot n).cnt ≠ 0)) ∧
      ((s.slot n).ip = true → (t.slot n).cnt = 0 ∧ ((s.slot n).cnt ≠ 0 → n ∈ t.host.due)) ∧ (∀ m, m ≠ n → t.slot m = s.slot m) ∧
      t.sync = s.sync ∧ t.flt = s.flt) ∧
  (∀ (w : BitVec 64) (s : State), hostLive s = true →
    ∃ t, exec (.caneIpClear w) s = .next t ∧ t.cane = s.cane ∧ t.flt = s.flt ∧ ∀ cn, cn < 64 →
      bit t.host.caneIp cn = (bit s.host.caneIp cn && (!bit w cn || decide (tabGet 0 s.host.caneCnt cn ≠ 0))) ∧
      (bit w cn = true → bit s.host.caneIp cn = true → tabGet 0 s.host.caneCnt cn ≠ 0 → (srcCane + cn) ∈ t.host.due)) ∧
  (∀ (hi : Bool) (w : BitVec 64) (s : State), hostLive s = true →
    ∃ t, exec (.mbipClear hi w) s = .next t ∧ t.gaf = s.gaf ∧ t.flt = s.flt ∧ ∀ m, m < 72 →
      (let mine : Bool := decide (64 ≤ m) == hi && bit w (m % 64)
       bit t.host.mbip m = (bit s.host.mbip m && (!mine || decide (tabGet 0 s.host.mbCnt m ≠ 0))) ∧
       (mine = true → bit s.host.mbip m = true → tabGet 0 s.host.mbCnt m ≠ 0 → (srcMb + m) ∈ t.host.due))) ∧
  (∀ (w : BitVec 64) (s : State), hostLive s = true →
    ∃ t, exec (.fipClear w) s = .next t ∧ t.flt = s.flt ∧ ∀ c, c < 5 →
      bit t.host.fip c = (bit s.host.fip c && (!bit w c || decide (tabGet 0 s.host.fCnt c ≠ 0))) ∧
      (bit w c = true → bit s.host.fip c = true → tabGet 0 s.host.fCnt c ≠ 0 → (srcFault + c) ∈ t.host.due))

/-! ## Formats and arithmetic (03, 04) -/

/-- R71, R72, R88: a code of FP32 or FP16 that is no NaN comes back unchanged and without a flag, and a NaN becomes the canonical one with NAN.
R89, R121, R122: an integer below 2^47 in magnitude comes back unchanged under the same S; no conversion into I80 exceeds 2^47 - 1 in
magnitude; a zero of either sign becomes 0, and 0 becomes +0. -/
def Obligations.ConversionsKeepValues : Prop :=
  (∀ (f : FpFmt) (w : Nat), f = fp32 ∨ f = fp16 → w < 2 ^ (1 + f.t + f.eb) →
    encodeFp f (decodeFp f w) = if (decodeFp f w).cls = .nan then (canonNan f, fNAN) else (w, 0)) ∧
  (∀ n s : Int, -(2 ^ 47) < n → n < 2 ^ 47 → encodeI80 (decodeI80 n s) s = (n, 0)) ∧
  (∀ (x : Exact) (s : Int), -(2 ^ 47) < (encodeI80 x s).1 ∧ (encodeI80 x s).1 < 2 ^ 47) ∧
  (∀ (b : Bool) (f : FpFmt) (s : Int), encodeI80 (.zero b) s = (0, 0) ∧ encodeFp f (decodeI80 0 s) = (0, 0))

/-- R108, R121: an ISUM addition is the exact sum modulo 2^80 within the range of I80, raises IOVF exactly where the sum leaves that range,
and gives the same value in any grouping and order.
R110, R112, R114: every level of the tree passes a lone partial through unchanged, and rounds a lone term once. -/
def Obligations.CombinesFollowTheTree : Prop :=
  (∀ n : Int, -(2 ^ 79) ≤ (wrap80 n).1 ∧ (wrap80 n).1 < 2 ^ 79 ∧ ((wrap80 n).1 - n) % 2 ^ 80 = 0 ∧
    (wrap80 n).2 = if -(2 ^ 79) ≤ n ∧ n < 2 ^ 79 then 0 else aIOVF) ∧
  (∀ a b c : Int, let sum := fun x y => (comb .i80 opISUM (.int x) y).1
    sum a (sum b (.int c)) = (comb .i80 opISUM (sum a (.int b)) (.int c)).1 ∧ sum a (.int b) = sum b (.int a)) ∧
  (∀ (f : Acc) (op k : Nat) (x : Exact), combTree f op k [.part x] = (.part x, 0) ∧
    combTree f op (k + 1) [.term x] = (.part (roundAcc f x).1, (roundAcc f x).2)) ∧
  (∀ (op k : Nat) (n : Int), combTree .i80 op k [.int n] = (.int n, 0))

/-! ## Core ports (06) -/

/-- R170: an access to an offset that Table 6-2 leaves reserved reads 0, ignores any write and sets CP_ERR.ADDR; a write to a register whose
fields are all RO is ignored and sets CP_ERR.WRO. Nothing else of the block changes. -/
def Obligations.ReservedAndReadOnlyOffsets : Prop :=
  (∀ (k off : Nat) (d : BitVec 64) (s : State), k < 5120 → portLive s k = true → off % 8 = 0 → off < 1024 → cpDefined off = false →
    (∃ t, exec (.cpRegWrite k true off d) s = .next t ∧ t.port k = { s.port k with errAddr := true } ∧
      (∀ j, j ≠ k → t.port j = s.port j) ∧ t = { s with ports := t.ports }) ∧
    (∃ t, exec (.cpRegWrite k false off d) s = .next t ∧ t.port k = { s.port k with errAddr := true, rdata := 0 } ∧
      (∀ j, j ≠ k → t.port j = s.port j) ∧ t = { s with ports := t.ports })) ∧
  (∀ (k off : Nat) (d : BitVec 64) (s : State), k < 5120 → portLive s k = true → off % 8 = 0 → off < 1024 → cpReadOnly off = true →
    ∃ t, exec (.cpRegWrite k true off d) s = .next t ∧ t.port k = { s.port k with errWro := true } ∧
      (∀ j, j ≠ k → t.port j = s.port j) ∧ t = { s with ports := t.ports })

/-- R9, R169, R172, R181, R185: a write to a context half or the weight is what later reads return; a read of CP_SCALAR_RES or CP_WRES
returns the word and clears V. -/
def Obligations.RegisterReadsAndWrites : Prop :=
  (∀ (k : Nat) (hi : Bool) (d : BitVec 64) (s : State), k < 5120 → portLive s k = true →
    ∃ t, exec (.cpRegWrite k true (if hi then 0x018 else 0x010) d) s = .next t ∧
      t.port k = { s.port k with ctxPush := setHalf (s.port k).ctxPush hi d } ∧ t = { s with ports := t.ports } ∧
      ∃ u, exec (.cpRegWrite k false (if hi then 0x018 else 0x010) 0) t = .next u ∧ (u.port k).rdata = d) ∧
  (∀ (k : Nat) (s : State), k < 5120 → portLive s k = true →
    (∃ t, exec (.scalarResRead k) s = .next t ∧
      t.port k = { s.port k with rdata := scalWord (s.port k).scalRes, scalRes := { (s.port k).scalRes with v := false } } ∧
      t = { s with ports := t.ports }) ∧
    (∃ t, exec (.wresRead k) s = .next t ∧
      t.port k = { s.port k with rdata := wresWord (s.port k).wres, wres := { (s.port k).wres with v := false } } ∧
      t = { s with ports := t.ports }))

/-- R173: with two transfers held in a direction a third is refused with FULL; one that passes the checks against its posting runs, or is
queued behind the running one; one whose CID is not posted waits. A refusal sets ERR and EV and moves no byte. -/
def Obligations.TransfersArePosted : Prop :=
  (∀ (k : Nat) (hi : BitVec 64) (s : State), k < 5120 → portLive s k = true →
    ∃ t, exec (.cpPush k hi) s = .next t ∧ transferPosted s t k false hi) ∧
  (∀ (k : Nat) (hi : BitVec 64) (s : State), k < 5120 → portLive s k = true →
    ∃ t, exec (.cpPull k hi) s = .next t ∧ transferPosted s t k true hi) ∧
  (∀ (k : Nat) (hi : BitVec 64) (c : Coll) (s : State), k < 5120 → portLive s k = true → (s.port k).push.run = none →
    (s.port k).push.que = none → (s.port k).push.opened = [] → xferAlign s k false hi = false →
    checkGroup s k (xferOf s k false hi).gid (xferOf s k false hi).cid = none →
    postingAt s k (xferOf s k false hi).gid (xferOf s k false hi).cid = some c → checkPosted s k false (xferOf s k false hi) c = none →
    ∃ t, exec (.cpPush k hi) s = .next t ∧
      (t.port k).push.run = some { xferOf s k false hi with nchunk := chunksOf c (xferOf s k false hi).nelem } ∧ (t.port k).push.cnt = 0 ∧
      (t.port k).push.err = (s.port k).push.err ∧ (t.port k).push.ev = (s.port k).push.ev) ∧
  (∀ (k : Nat) (hi : BitVec 64) (c : Coll) (s : State), k < 5120 → portLive s k = true → (s.port k).pull.run = none →
    (s.port k).pull.que = none → (s.port k).pull.opened = [] → xferAlign s k true hi = false →
    checkGroup s k (xferOf s k true hi).gid (xferOf s k true hi).cid = none →
    postingAt s k (xferOf s k true hi).gid (xferOf s k true hi).cid = some c → checkPosted s k true (xferOf s k true hi) c = none →
    ∃ t, exec (.cpPull k hi) s = .next t ∧
      (t.port k).pull.run = some { xferOf s k true hi with nchunk := chunksOf c (xferOf s k true hi).nelem } ∧ (t.port k).pull.cnt = 0 ∧
      (t.port k).pull.fv = false ∧ (t.port k).pull.sw = 0 ∧ (t.port k).pull.psn = (s.port k).pull.psn ∧
      (t.port k).pull.err = (s.port k).pull.err ∧ (t.port k).pull.ev = (s.port k).pull.ev)

/-- R175, R177, R179: a beat that a running push asked for is added to its chunk, and the last one completes the cell's slot; one of a push that
has ended is discarded; a read in error sets CP_ERR.RDERR and raises F_CORE_MEM, and ends the push that it belongs to with MEM. An acknowledged
write leaves the list of writes outstanding; the last of a chunk counts it, and the last chunk ends the pull; one in error ends it with MEM
and raises F_CORE_MEM.
R173, R181: a scalar posted while one is in progress sets SCFULL and nothing else; one whose CID is not posted waits; one that passes the
checks against its posting is in progress. When its posting does not come within STALL, the scalar, push or pull is refused with NOPOST. -/
def Obligations.CoreMemoryAndScalars : Prop :=
  (∀ (k : Nat) (data : BitVec 128) (q : RdReq) (r : List RdReq) (x : Xfer) (c : Coll) (s : State), k < 5120 →
    (s.port k).rdReq = q :: r → pushOf s k = some (x, c) → x.seq = q.seq → q.stale = false → x.buf.length + 16 < pushBeats x c * 16 →
    ∃ t, exec (.cpRdData k data false) s = .next t ∧
      ((t.port k).push.run.map (·.buf)) = some (x.buf ++ leBytes 16 data.toNat) ∧ (t.port k).push.cnt = (s.port k).push.cnt ∧
      (∀ j, j ≠ k → t.port j = s.port j) ∧ t = { s with ports := t.ports }) ∧
  (∀ (k : Nat) (data : BitVec 128) (q : RdReq) (r : List RdReq) (x : Xfer) (c : Coll) (s : State), k < 5120 →
    (s.port k).rdReq = q :: r → pushOf s k = some (x, c) → x.seq = q.seq → q.stale = false → pushBeats x c * 16 ≤ x.buf.length + 16 →
    ∃ t, exec (.cpRdData k data false) s = .next t ∧ (t.port k).rdReq = r ∧
      (t.port k).push.run = some { x with buf := [], issued := 0, cur := x.cur + 1 } ∧
      (let y := tabGet {} (t.nchan (.cell (cellOf k)) c.ch false).slots (k % 4)
       let z := supplyOf c x.ctx x.weight (pushLen x c) (x.buf ++ leBytes 16 data.toNat)
       y.ready = true ∧ y.ops = z.ops ∧ y.cvf = z.cvf ∧ y.sw = z.sw) ∧
      (∀ j, j ≠ k → t.port j = s.port j) ∧ t.grp = s.grp ∧ t.flt = s.flt) ∧
  (∀ (k : Nat) (data : BitVec 128) (q : RdReq) (r : List RdReq) (s : State), k < 5120 → (s.port k).rdReq = q :: r → (s.port k).push.run = none →
    exec (.cpRdData k data false) s = .next (s.modPort k fun p => { p with rdReq := r })) ∧
  (∀ (k : Nat) (data : BitVec 128) (q : RdReq) (r : List RdReq) (s : State), k < 5120 → (s.port k).rdReq = q :: r →
    ∃ t, exec (.cpRdData k data true) s = .next t ∧ (t.port k).errRd = true ∧
      (∀ x, (s.port k).push.run = some x → x.seq = q.seq → (t.port k).push.err = .mem ∧ (t.port k).push.ev = true) ∧
      ∃ e ∈ t.flt.synd, e.code = .coreMem ∧ e.sidx = k ∧ e.gid = some q.gid ∧ e.cls = 2) ∧
  (∀ (k : Nat) (q : Nat × Nat × List Byte) (r : List (Nat × Nat × List Byte)) (s : State), k < 5120 → (s.port k).wrOut = q :: r →
    ∃ t, exec (.cpWrAck k false) s = .next t ∧ (t.port k).wrOut = r ∧ (t.port k).wrAcc = (s.port k).wrAcc - 1 ∧
      (t.port k).fPullvis = (match (s.port k).fPullvis with | some n => if n ≤ 1 then none else some (n - 1) | none => none) ∧ t.flt = s.flt) ∧
  (∀ (k n j a : Nat) (b : List Byte) (sw : BitVec 64) (again : Bool) (rest : List (Nat × BitVec 64 × Nat × Bool))
    (r : List (Nat × Nat × List Byte)) (x : Xfer) (s : State), k < 5120 → (s.port k).wrOut = (x.seq, a, b) :: r →
    (s.port k).pull.run = some x → x.ackNeed = (n + 2, sw, j, again) :: rest →
    x.prog < x.nchunk →
    ∃ t, exec (.cpWrAck k false) s = .next t ∧ (t.port k).wrOut = r ∧ (t.port k).pull.cnt = (s.port k).pull.cnt ∧
      (t.port k).pull.run = some { x with ackNeed := (n + 1, sw, j, again) :: rest }) ∧
  (∀ (k j a : Nat) (b : List Byte) (sw : BitVec 64) (rest : List (Nat × BitVec 64 × Nat × Bool))
    (r : List (Nat × Nat × List Byte)) (x : Xfer) (s : State), k < 5120 → (s.port k).wrOut = (x.seq, a, b) :: r →
    (s.port k).pull.run = some x → x.ackNeed = (1, sw, j, false) :: rest → x.waiting = false →
    ∃ t, exec (.cpWrAck k false) s = .next t ∧ (t.port k).wrOut = r ∧
      (x.prog + 1 < x.nchunk → (t.port k).pull.cnt = (s.port k).pull.cnt + 1 ∧
        (t.port k).pull.run = some { x with ackNeed := rest, prog := x.prog + 1 }) ∧
      (x.nchunk ≤ x.prog + 1 → isFirst s x.gid x.cid = true → (s.port k).pull.que = none → (t.port k).pull.run = none)) ∧
  (∀ (k seq a : Nat) (b : List Byte) (r : List (Nat × Nat × List Byte)) (x : Xfer) (s : State), k < 5120 →
    (s.port k).wrOut = (seq, a, b) :: r → (s.port k).pull.run = some x → x.seq = seq →
    ∃ t, exec (.cpWrAck k true) s = .next t ∧ (t.port k).errWr = true ∧ (t.port k).pull.err = .mem ∧
      ∃ e ∈ t.flt.synd, e.code = .coreMem ∧ e.sidx = k ∧ e.gid = some x.gid ∧ e.cls = 2) ∧
  (∀ (k : Nat) (hi : BitVec 64) (s : State), k < 5120 → portLive s k = true → (s.port k).scal.isSome = true →
    ∃ t, exec (.cpScalar k hi) s = .next t ∧ t.port k = { s.port k with errSc := true } ∧ t = { s with ports := t.ports }) ∧
  (∀ (k : Nat) (hi : BitVec 64) (s : State), k < 5120 → portLive s k = true → (s.port k).scal = none → scalAlign s k hi = false →
    checkGroup s k (scalOf s k hi).gid (scalOf s k hi).cid = none → postingAt s k (scalOf s k hi).gid (scalOf s k hi).cid = none →
    ∃ t, exec (.cpScalar k hi) s = .next t ∧ t.port k = { s.port k with scal := some (scalOf s k hi) } ∧ t = { s with ports := t.ports }) ∧
  (∀ (k : Nat) (hi : BitVec 64) (c : Coll) (s : State), k < 5120 → portLive s k = true → (s.port k).scal = none →
    scalAlign s k hi = false → postingAt s k (scalOf s k hi).gid (scalOf s k hi).cid = some c → checkScalar s k (scalOf s k hi) c = none →
    ∃ t, exec (.cpScalar k hi) s = .next t ∧ (t.port k).scal = some { scalOf s k hi with waiting := false } ∧ t = { s with ports := t.ports } ∧
      (t.port k).scalRes = (s.port k).scalRes ∧ ∀ j, j ≠ k → t.port j = s.port j) ∧
  (∀ (k : Nat) (x : Scal) (s : State), k < 5120 → (s.port k).scal = some x → x.waiting = true → x.since + (s.group x.gid).stall * 1024 ≤ s.tb →
    ∃ t, exec (.nopostTimeout k 2) s = .next t ∧ (t.port k).scal = none ∧ (t.port k).scalRes = { err := .nopost, ev := true, v := true } ∧
      t.grp = s.grp ∧ ∀ j, j ≠ k → t.port j = s.port j) ∧
  (∀ (k : Nat) (x : Xfer) (s : State), k < 5120 → (s.port k).push.run = some x → (s.port k).push.que = none → x.waiting = true →
    x.since + (s.group x.gid).stall * 1024 ≤ s.tb →
    ∃ t, exec (.nopostTimeout k 0) s = .next t ∧ (t.port k).push.run = none ∧ (t.port k).push.err = .nopost ∧ (t.port k).push.ev = true ∧
      t.grp = s.grp ∧ ∀ j, j ≠ k → t.port j = s.port j) ∧
  (∀ (k : Nat) (x : Xfer) (s : State), k < 5120 → (s.port k).pull.run = some x → (s.port k).pull.que = none → x.waiting = true →
    x.since + (s.group x.gid).stall * 1024 ≤ s.tb →
    ∃ t, exec (.nopostTimeout k 1) s = .next t ∧ (t.port k).pull.run = none ∧ (t.port k).pull.err = .nopost ∧ (t.port k).pull.ev = true ∧
      t.grp = s.grp ∧ ∀ j, j ≠ k → t.port j = s.port j)

/-- R149, R150, R154, R183: an operation written while one is held, or before LIMP, returns ST_BUSY and is dropped; with TV = 0, ST_DENIED; else
it is held. Held, it goes to its object, with the port's TID and TAG, once its ORD condition holds; a remote one leaves as an SO_OP flit, or
ends with the status of its refusal. -/
def Obligations.SyncOperationsOfACore : Prop :=
  (∀ (k : Nat) (hi : BitVec 64) (s : State), k < 5120 → portLive s k = true → fld (s.port k).syncLo 16 2 = 0 → mayOperate s k →
    ∃ t, exec (.cpSyncArrive k hi) s = .next t ∧ operationHeld s t k .arrive hi) ∧
  (∀ (k : Nat) (hi : BitVec 64) (s : State), k < 5120 → portLive s k = true → fld (s.port k).syncLo 16 2 = 1 → mayOperate s k →
    ∃ t, exec (.cpSyncSignal k hi) s = .next t ∧ operationHeld s t k .signal hi) ∧
  (∀ (k : Nat) (hi : BitVec 64) (s : State), k < 5120 → portLive s k = true → fld (s.port k).syncLo 16 2 = 2 → mayOperate s k →
    ∃ t, exec (.cpSyncReset k hi) s = .next t ∧ operationHeld s t k .reset hi) ∧
  (∀ (k : Nat) (hi : BitVec 64) (s : State), k < 5120 → portLive s k = true → fld (s.port k).syncLo 16 2 = 3 → mayOperate s k →
    ∃ t, exec (.cpSyncRead k hi) s = .next t ∧ operationHeld s t k .read hi) ∧
  (∀ (k : Nat) (hi : BitVec 64) (c : Instr × Nat) (s : State),
    c ∈ [(Instr.cpSyncArrive k hi, 0), (.cpSyncSignal k hi, 1), (.cpSyncReset k hi, 2), (.cpSyncRead k hi, 3)] → k < 5120 →
    portLive s k = true → fld (s.port k).syncLo 16 2 = c.2 →
    (((s.port k).sync.isSome = true ∨ s.boot.level.code < 2) →
      ∃ t, exec c.1 s = .next t ∧ t.port k = { s.port k with syncSt := .busy } ∧ t = { s with ports := t.ports }) ∧
    ((s.port k).sync = none → 2 ≤ s.boot.level.code → (s.port k).tv = false →
      ∃ t, exec c.1 s = .next t ∧ t.port k = { s.port k with syncSt := .denied } ∧ t = { s with ports := t.ports })) ∧
  (∀ (k : Nat) (h : SyncHold) (s : State), k < 5120 → (s.port k).sync = some h → h.sent = false → h.rmt = false → s.stopped = false →
    (h.ord % 2 = 1 → endedBefore (s.port k).push h.before = true) → (2 ≤ h.ord → endedBefore (s.port k).pull h.before = true) →
    ∃ t, exec (.syncOrdMet k) s = .next t ∧ (t.port k).sync = some { h with sent := true } ∧
      t.sync.ops = s.sync.ops ++ [{ soid := h.soid, kind := h.kind, opnd := h.opnd, tid := (s.port k).tid, tag := some (s.port k).tag, caller := .core k }] ∧
      t.sync.objs = s.sync.objs ∧ (∀ j, j ≠ k → t.port j = s.port j) ∧ t.grp = s.grp ∧ t.flt = s.flt) ∧
  (∀ (k : Nat) (h : SyncHold) (s : State), k < 5120 → (s.port k).sync = some h → h.sent = false → h.rmt = true → s.stopped = false →
    ordHolds (s.port k) h = true → remoteStatus s (s.port k).tid h.gid h.chip h.kind h.opnd = .ok → bit (s.group h.gid).cores k = true →
    exec (.syncOrdMet k) s = .next
      (remoteSend (s.modPort k fun q => { q with sync := some { h with sent := true } }) h.gid h.chip h.soid h.kind h.opnd (some k))) ∧
  (∀ (k : Nat) (h : SyncHold) (s : State), k < 5120 → (s.port k).sync = some h → h.sent = false → h.rmt = true → s.stopped = false →
    ordHolds (s.port k) h = true → remoteStatus s (s.port k).tid h.gid h.chip h.kind h.opnd ≠ .ok →
    ∃ t, exec (.syncOrdMet k) s = .next t ∧ (t.port k).sync = none ∧
      (t.port k).syncSt = remoteStatus s (s.port k).tid h.gid h.chip h.kind h.opnd ∧ (∀ j, j ≠ k → t.port j = s.port j) ∧ t.grp = s.grp) ∧
  (∀ (k : Nat) (h : SyncHold) (s : State), k < 5120 → (s.port k).sync = some h → h.ord % 2 = 1 → endedBefore (s.port k).push h.before = false →
    exec (.syncOrdMet k) s = .next s)

/-- R157, R184: an arrival that passes the checks drives the core's leg to the target; one refused leaves it. ARRIVE_WAIT arrives and posts
its wait together, or does neither. READ returns the record of Table 5-9. -/
def Obligations.CaneOperationsOfACore : Prop :=
  (∀ (k : Nat) (w : BitVec 64) (s : State), k < 5120 → portLive s k = true → fld w 6 2 = 0 → caneStatus s k (fld w 0 6) = .ok →
    ∃ t, exec (.cpCaneArrive k w) s = .next t ∧ (t.port k).caneSt = .ok ∧ (t.port k).wait = (s.port k).wait ∧
      (∀ d, d ≠ fld w 0 6 → t.cchan d = s.cchan d) ∧ (∀ j, j ≠ k → t.port j = s.port j) ∧
      legOf (t.cchan (fld w 0 6)) k = cellTarget (s.cchan (fld w 0 6)) k ∧ hasArrived (t.cchan (fld w 0 6)) k = true ∧
      (∀ j, j ≠ k → legOf (t.cchan (fld w 0 6)) j = legOf (s.cchan (fld w 0 6)) j) ∧ t.grp = s.grp ∧ t.flt = s.flt ∧ t.sync = s.sync) ∧
  (∀ (k : Nat) (w : BitVec 64) (s : State), k < 5120 → portLive s k = true → fld w 6 2 = 0 → caneStatus s k (fld w 0 6) ≠ .ok →
    ∃ t, exec (.cpCaneArrive k w) s = .next t ∧ t.port k = { s.port k with caneSt := caneStatus s k (fld w 0 6) } ∧
      t = { s with ports := t.ports }) ∧
  (∀ (k : Nat) (w : BitVec 64) (s : State), k < 5120 → portLive s k = true → fld w 6 2 = 1 → caneStatus s k (fld w 0 6) = .ok →
    (s.port k).wait = none →
    ∃ t, exec (.cpCaneArriveWait k w) s = .next t ∧ (t.port k).caneSt = .ok ∧ hasArrived (t.cchan (fld w 0 6)) k = true ∧
      (t.port k).cgReq = !bit w 28 ∧ (t.port k).wres.v = false ∧
      ∃ x, (t.port k).wait = some x ∧ x.mode = .cane ∧ x.id = fld w 0 6 ∧
        x.deadline = s.tb + waitUnits s (caneGroup s (fld w 0 6)) (fld w 8 20) * 1024) ∧
  (∀ (k : Nat) (w : BitVec 64) (s : State), k < 5120 → portLive s k = true → fld w 6 2 = 1 →
    (caneStatus s k (fld w 0 6) ≠ .ok ∨ (s.port k).wait.isSome = true) →
    ∃ t, exec (.cpCaneArriveWait k w) s = .next t ∧ t.cane = s.cane ∧ (t.port k).wait = (s.port k).wait ∧
      (t.port k).caneSt = (if caneStatus s k (fld w 0 6) = .ok then .busy else caneStatus s k (fld w 0 6))) ∧
  (∀ (k : Nat) (w : BitVec 64) (s : State), k < 5120 → portLive s k = true → fld w 6 2 = 2 → caneGranted s k (fld w 0 6) = true →
    ∃ t, exec (.cpCaneRead k w) s = .next t ∧ t = { s with ports := t.ports } ∧ (t.port k).caneSt = .ok ∧ (t.port k).rv = true ∧
      (t.port k).sorec = BitVec.ofNat 256 (caneRecord s (fld w 0 6)).toNat) ∧
  (∀ (k : Nat) (w : BitVec 64) (s : State), k < 5120 → portLive s k = true → fld w 6 2 = 2 → caneGranted s k (fld w 0 6) = false →
    ∃ t, exec (.cpCaneRead k w) s = .next t ∧ t = { s with ports := t.ports } ∧ t.port k = { s.port k with caneSt := .denied })

/-- R139, R140, R145, R185: a wait posted while one is in progress returns ST_BUSY. GEN and COUNT complete at once where the condition holds
and sleep otherwise; on a FROZEN object they sleep, and on an ABANDONED one they end with W_OWNER_LOST.
R185: CANE needs an arrival in the current phase; PUSH and PULL complete at once with no transfer running; SCALAR while V is 1; FENCE when
CP_FENCE reads 0. Each sleeps otherwise. -/
def Obligations.WaitsOfACore : Prop :=
  (∀ (k : Nat) (hi : BitVec 64) (s : State), k < 5120 → portLive s k = true → (s.port k).wait.isSome = true → 2 ≤ s.boot.level.code →
    (fld (s.port k).waitLo 16 3 = 0 → ∃ t, exec (.cpWaitGen k hi) s = .next t ∧ t.port k = { s.port k with waitSt := .busy } ∧
      t = { s with ports := t.ports }) ∧
    (fld (s.port k).waitLo 16 3 = 1 → ∃ t, exec (.cpWaitCount k hi) s = .next t ∧ t.port k = { s.port k with waitSt := .busy } ∧
      t = { s with ports := t.ports })) ∧
  (∀ (k : Nat) (hi : BitVec 64) (s : State), k < 5120 → portLive s k = true → fld (s.port k).waitLo 16 3 = 0 → mayWait s k →
    fld hi 0 32 < 65536 → ∃ t, exec (.cpWaitGen k hi) s = .next t ∧
      objectWaited s t k (fld hi 0 32) (decide (((s.obj (fld (s.port k).waitLo 0 15)).gen - BitVec.ofNat 16 (fld hi 0 32)).toNat < 32768))) ∧
  (∀ (k : Nat) (hi : BitVec 64) (s : State), k < 5120 → portLive s k = true → fld (s.port k).waitLo 16 3 = 1 → mayWait s k →
    ∃ t, exec (.cpWaitCount k hi) s = .next t ∧
      objectWaited s t k (fld hi 0 32) (decide (fld hi 0 32 ≤ (s.obj (fld (s.port k).waitLo 0 15)).count))) ∧
  (∀ (k : Nat) (hi : BitVec 64) (s : State), k < 5120 → portLive s k = true → fld (s.port k).waitLo 16 3 = 2 → (s.port k).wait = none →
    (s.port k).tv = true → caneGranted s k (fld (s.port k).waitLo 0 6) = true → caneMember s (fld (s.port k).waitLo 0 6) k = true →
    (s.cchan (fld (s.port k).waitLo 0 6)).lost = false → hasArrived (s.cchan (fld (s.port k).waitLo 0 6)) k = true →
    ∃ t w, exec (.cpWaitCane k hi) s = .next t ∧ t = { s with ports := t.ports } ∧ (t.port k).wait = some w ∧ w.mode = .cane ∧
      w.phase = (s.cchan (fld (s.port k).waitLo 0 6)).phase) ∧
  (∀ (k : Nat) (hi : BitVec 64) (s : State), k < 5120 → portLive s k = true → fld (s.port k).waitLo 16 3 = 2 → (s.port k).wait = none →
    (s.port k).tv = true → caneGranted s k (fld (s.port k).waitLo 0 6) = true → caneMember s (fld (s.port k).waitLo 0 6) k = true →
    (s.cchan (fld (s.port k).waitLo 0 6)).lost = false → hasArrived (s.cchan (fld (s.port k).waitLo 0 6)) k = false →
    ∃ t, exec (.cpWaitCane k hi) s = .next t ∧ t = { s with ports := t.ports } ∧ t.port k = { s.port k with waitSt := .conflict }) ∧
  (∀ (k : Nat) (hi : BitVec 64) (s : State), k < 5120 → portLive s k = true → fld (s.port k).waitLo 16 3 = 3 → (s.port k).wait = none →
    ∃ t, exec (.cpWaitPush k hi) s = .next t ∧ streamWaited s t k false hi) ∧
  (∀ (k : Nat) (hi : BitVec 64) (s : State), k < 5120 → portLive s k = true → fld (s.port k).waitLo 16 3 = 4 → (s.port k).wait = none →
    ∃ t, exec (.cpWaitPull k hi) s = .next t ∧ streamWaited s t k true hi) ∧
  (∀ (k : Nat) (hi : BitVec 64) (s : State), k < 5120 → portLive s k = true → fld (s.port k).waitLo 16 3 = 5 → (s.port k).wait = none →
    ∃ t, exec (.cpWaitScalar k hi) s = .next t ∧ t = { s with ports := t.ports } ∧ (t.port k).wait.isSome = !(s.port k).scalRes.v ∧
      (t.port k).wres.v = (s.port k).scalRes.v) ∧
  (∀ (k : Nat) (hi : BitVec 64) (s : State), k < 5120 → portLive s k = true → fld (s.port k).waitLo 16 3 = 6 → (s.port k).wait = none →
    ∃ t, exec (.cpWaitFence k hi) s = .next t ∧ t = { s with ports := t.ports } ∧
      (t.port k).wait.isSome = ((s.port k).fPullvis.isSome || (s.port k).fSync || (s.port k).fPush.isSome) ∧
      (t.port k).wres.v = !(t.port k).wait.isSome)

/-- R187: PULLVIS covers the writes accepted before it, how many of those outstanding being a free number (log entry 111); SYNC the operation
held, PUSHHELD the pushes written before it; a fence with nothing to wait for reads 0 at once. Nothing but that fence changes.
R173, R178, R282: a posting reaches a cell and is recorded there; a commit notice closes the open pulls of its collective at the cell's
cores. Both leave their lists. -/
def Obligations.FencesPostingsAndCommits : Prop :=
  (∀ (k : Nat) (s : State), k < 5120 → portLive s k = true →
    (∃ t, exec (.fencePullvis k) s = .next t ∧ t = { s with ports := t.ports, freeCtr := s.freeCtr + 1 } ∧ (∀ j, j ≠ k → t.port j = s.port j) ∧
      (let n := (s.port k).wrAcc + Config.freeNat s.freeCtr % ((s.port k).wrOut.length + 1 - (s.port k).wrAcc)
       t.port k = { s.port k with wrAcc := n, fPullvis := if n = 0 then none else some n })) ∧
    (∃ t, exec (.fenceSync k) s = .next t ∧ t = { s with ports := t.ports } ∧ (∀ j, j ≠ k → t.port j = s.port j) ∧
      t.port k = { s.port k with fSync := (s.port k).sync.isSome }) ∧
    (∃ t, exec (.fencePushheld k) s = .next t ∧ t = { s with ports := t.ports } ∧ (∀ j, j ≠ k → t.port j = s.port j) ∧
      t.port k = { s.port k with fPush := if endedBefore (s.port k).push (s.port k).nseq then none else some (s.port k).nseq })) ∧
  (∀ (cell g : Nat) (cid : BitVec 32) (r : List (Nat × Nat × BitVec 32)) (s : State), cell < 1280 →
    takeFirst (fun e => e.1 == cell) s.mrv.postOut = some ((cell, g, cid), r) →
    (∀ q < 4, (∀ b, ∀ x ∈ ((s.port (4 * cell + q)).dir b).run.toList ++ ((s.port (4 * cell + q)).dir b).que.toList, x.waiting = false) ∧
      ∀ x, (s.port (4 * cell + q)).scal = some x → x.waiting = false) →
    ∃ t, exec (.postingArrive cell) s = .next t ∧ t.mrv.postOut = r ∧
      (t.group g).colls = (s.group g).colls.map (fun c =>
        if c.cid = cid then { c with cellsTo := c.cellsTo.filter (· != cell), cellsAt := c.cellsAt ++ [cell] } else c) ∧
      t.ports = s.ports ∧ t.sync = s.sync ∧ t.flt = s.flt ∧ ∀ h, h ≠ g → t.group h = s.group h) ∧
  (∀ (cell g q : Nat) (cid : BitVec 32) (r : List (Nat × Nat × BitVec 32)) (x : Xfer) (c : Coll) (s : State), cell < 1280 → q < 4 →
    takeFirst (fun e => e.1 == cell) s.mrv.postOut = some ((cell, g, cid), r) → collOf (s.group g) cid = some c → dGid c.desc = g →
    (∀ p < 4, p ≠ q → s.port (4 * cell + p) = {}) → (s.port (4 * cell + q)).push.que = none → (s.port (4 * cell + q)).pull = {} →
    (s.port (4 * cell + q)).scal = none → (s.port (4 * cell + q)).push.run = some x → x.waiting = true → x.gid = g → x.cid = cid →
    checkGroup s (4 * cell + q) g cid = none → checkPosted s (4 * cell + q) false x c = none →
    ∃ t, exec (.postingArrive cell) s = .next t ∧ t.mrv.postOut = r ∧
      (t.port (4 * cell + q)).push.run = some { x with waiting := false, nchunk := chunksOf c x.nelem }) ∧
  (∀ (cell g : Nat) (cid : BitVec 32) (r : List (Nat × Nat × BitVec 32)) (s : State), cell < 1280 →
    takeFirst (fun e => e.1 == cell) s.mrv.commits = some ((cell, g, cid), r) →
    ∃ t, exec (.commitNotice cell) s = .next t ∧ t.mrv.commits = r ∧
      (∀ k, cellOf k = cell → (t.port k).pull.opened = (s.port k).pull.opened.filter (fun x => !(x.gid == g && x.cid == cid)) ∧
        (t.port k).push = (s.port k).push) ∧
      (∀ j, cellOf j ≠ cell → t.port j = s.port j) ∧ t.grp = s.grp ∧ t.sync = s.sync ∧ t.flt = s.flt)

/-! ## Gaffer: mailboxes, transactions, groups, items, settings (07, 09, 12) -/

/-- R326, R328, R329, R330: a write of a command area is stored while FULL is 0, the word with header byte 12 sets FULL and clears DONE; while
FULL it sets OVR alone. The next serve takes the command that passes every common check, and answers any other at the first failure.
IF_QUERY is answered with the versions, the level and the caller. -/
def Obligations.MailboxesAreServed : Prop :=
  (∀ (mb off : Nat) (be : BitVec 8) (d : BitVec 64) (s : State), mb < 72 → off < 256 → hostLive s = true → mbReached mb = true →
    (s.mbox mb).full = false →
    ∃ t, exec (.mbCmdWrite mb off be d) s = .next t ∧
      (let o := off / 8 * 8
       (t.mbox mb).cmd = setFld (s.mbox mb).cmd (8 * o) 64 (mergeBytes (BitVec.ofNat 64 (fld (s.mbox mb).cmd (8 * o) 64)) d be).toNat ∧
       (t.mbox mb).full = (decide (o = 8) && bit be 4) ∧
       (t.mbox mb).done = (if decide (o = 8) && bit be 4 then false else (s.mbox mb).done)) ∧
      (t.mbox mb).rsp = (s.mbox mb).rsp ∧ (∀ m, m ≠ mb → t.mbox m = s.mbox m) ∧ t = { s with gaf := t.gaf }) ∧
  (∀ (mb off : Nat) (be : BitVec 8) (d : BitVec 64) (s : State), mb < 72 → off < 256 → hostLive s = true → mbReached mb = true →
    (s.mbox mb).full = true →
    ∃ t, exec (.mbCmdWrite mb off be d) s = .next t ∧ t.mbox mb = { s.mbox mb with ovr := true } ∧ t = { s with gaf := t.gaf }) ∧
  (∀ (mb : Nat) (s : State), s.gaf.serving = none → s.gaf.restart = false → s.boot.rst = none → nextMb s = some mb →
    (let u := expireTxs s
     let v : State := { u with gaf := { u.gaf with lastT := if 2 ≤ mb then mb else u.gaf.lastT } }
     commonFail v mb = none → exec .mbServeSelect s = .next { v with gaf := { v.gaf with serving := some mb } })) ∧
  (∀ (mb : Nat) (e : St × Nat) (s : State), s.gaf.serving = none → s.gaf.restart = false → s.boot.rst = none → nextMb s = some mb →
    commonFail { expireTxs s with gaf := { (expireTxs s).gaf with lastT := if 2 ≤ mb then mb else s.gaf.lastT } } mb = some e →
    ∃ t, exec .mbServeSelect s = .next t ∧ t.gaf.serving = none ∧ answered s t mb e.1 e.2 [] ∧ (∀ m, m ≠ mb → t.mbox m = s.mbox m) ∧
      t.grp = s.grp ∧ t.ports = s.ports ∧ t.sync = s.sync ∧ t.flt = s.flt) ∧
  (∀ (mb : Nat) (s : State), serves s mb 0x0001 →
    ∃ t, exec .ifQuery s = .next t ∧ answered s t mb .ok 0 (ifAnswer s mb) ∧ t.gaf.serving = none ∧ t.grp = s.grp ∧ t.flt = s.flt ∧ t.boot = s.boot)

/-- R338 to R341: TX_BEGIN opens a transaction of one second; a commit whose staged commands still stand applies them all, at once when nothing
needs a pause and else when its pauses hold within 100 us; one that fails applies none and names the command; a rollback and an expiry apply
none. A commit whose pauses do not hold within 100 us ends with ST_BUSY. -/
def Obligations.TransactionsApplyAllOrNothing : Prop :=
  (∀ (mb : Nat) (s : State), serves s mb 0x0010 → openTx s mb = none →
    ∃ t, exec .txBegin s = .next t ∧ openTx t mb = some { txid := s.gaf.nextTx, deadline := s.tb + 1000000000 } ∧
      answered s t mb .ok 0 (leBytes 4 s.gaf.nextTx.toNat) ∧ t.gaf.nextTx ≠ 0 ∧ t.grp = s.grp ∧ t.fab = s.fab ∧ t.boot = s.boot) ∧
  (∀ (mb : Nat) (x : Tx) (s : State), serves s mb 0x0010 → openTx s mb = some x →
    ∃ t, exec .txBegin s = .next t ∧ openTx t mb = some x ∧ answered s t mb .conflict 0 [] ∧ t.grp = s.grp ∧ t.boot = s.boot) ∧
  (∀ (mb : Nat) (x : Tx) (s : State), serves s mb 0x0011 → openTx s mb = some x →
    (let u : State := { s with gaf := { s.gaf with serving := none } }
     recheck u mb u 0 x.staged = none → noPause u x = true →
     ∃ t, exec .txCommit s = .next t ∧ openTx t mb = none ∧ t.grp = (stagedView u x).grp ∧ t.boot = (stagedView u x).boot ∧
       t.flt = (stagedView u x).flt ∧ t.fab.weight = (stagedView u x).fab.weight ∧ answered s t mb .ok 0 [])) ∧
  (∀ (mb : Nat) (x : Tx) (s : State), serves s mb 0x0011 → openTx s mb = some x →
    (let u : State := { s with gaf := { s.gaf with serving := none } }
     recheck u mb u 0 x.staged = none → noPause u x = false →
     ∃ t, exec .txCommit s = .next t ∧ openTx t mb = some { x with committing := some s.tb } ∧ t.gaf.parked = s.gaf.parked ++ [.commit mb] ∧
       t.mbox mb = s.mbox mb ∧ t.grp = s.grp ∧ t.boot = s.boot ∧ t.flt = s.flt ∧ (∀ c ∈ pauseChans x, c ∈ t.fab.pauseCh) ∧
       (∀ h ∈ pauseHalves s x, h ∈ t.fab.pauseHalf) ∧ ∀ p < 6, p ∈ pauseVcbs x → (t.lport p).pauseVcb = true)) ∧
  (∀ (mb : Nat) (x : Tx) (e : Nat × St) (s : State), serves s mb 0x0011 → openTx s mb = some x →
    (let u : State := { s with gaf := { s.gaf with serving := none } }
     recheck u mb u 0 x.staged = some e →
     ∃ t, exec .txCommit s = .next t ∧ openTx t mb = none ∧ answered s t mb e.2 e.1 [] ∧ t.grp = s.grp ∧ t.boot = s.boot ∧ t.flt = s.flt)) ∧
  (∀ (mb : Nat) (s : State), serves s mb 0x0012 →
    ∃ t, exec .txRollback s = .next t ∧ openTx t mb = none ∧ answered s t mb .ok 0 [] ∧ t.grp = s.grp ∧ t.fab = s.fab ∧ t.boot = s.boot ∧ t.flt = s.flt) ∧
  (∀ (mb : Nat) (x : Tx) (s : State), mb < 72 → openTx s mb = some x → x.committing = none → x.deadline ≤ s.tb →
    exec (.txExpire mb) s = .next { s with gaf := { s.gaf with txs := tabSet none s.gaf.txs mb none } }) ∧
  (∀ (mb a : Nat) (x : Tx) (s : State), mb < 72 → heldCommit s mb = some (x, a) → pausesHold s x = true → s.tb < a + 100000 → s.stopped = false →
    s.gaf.restart = false → .commit mb ∈ s.gaf.parked →
    ∃ t, exec (.txPauseHeld mb) s = .next t ∧ openTx t mb = none ∧ t.grp = (stagedView s x).grp ∧ t.boot = (stagedView s x).boot ∧
      t.flt = (stagedView s x).flt ∧ t.fab.weight = (stagedView s x).fab.weight ∧ answered s t mb .ok 0 [] ∧
      t.gaf.parked = s.gaf.parked.filter (· != .commit mb)) ∧
  (∀ (mb a : Nat) (x : Tx) (s : State), mb < 72 → heldCommit s mb = some (x, a) → a + 100000 ≤ s.tb → .commit mb ∈ s.gaf.parked →
    ∃ t, exec (.txPauseTimeout mb) s = .next t ∧ openTx t mb = none ∧ answered s t mb .busy 0 [] ∧ t.grp = s.grp ∧ t.boot = s.boot ∧
      t.flt = s.flt ∧ t.fab.weight = s.fab.weight ∧ t.gaf.parked = s.gaf.parked.filter (· != .commit mb))

/-- R190, R191, R207, R209, R280, R337, Table 7-5: with TXID 0, a group setting of a DISABLED group that passes its own checks takes effect at
once on that group alone; of a group in another state but FREE it is refused with ST_CONFLICT. -/
def Obligations.GroupSettingsTakeEffect : Prop :=
  (∀ (mb g : Nat) (mem : List Byte) (s : State), serves s mb 0x0102 → cmdTxid (s.mbox mb).cmd = 0 → fld (payOf s mb) 0 12 = g →
    (s.group g).st = .disabled → listFail s (tidOf s mb) g (payOf s mb) mem = none →
    ∃ t, exec (.groupUpdate mem) s = .next t ∧ t.group g = withList (s.group g) (payOf s mb) mem ∧ answered s t mb .ok 0 [] ∧
      (∀ h, h ≠ g → t.group h = s.group h) ∧ t.fab = s.fab ∧ t.boot = s.boot) ∧
  (∀ (mb g : Nat) (s : State), serves s mb 0x0503 → cmdTxid (s.mbox mb).cmd = 0 → fld (payOf s mb) 0 12 = g →
    (s.group g).st = .disabled → ((s.group g).report = false ∨ reportOk s (tidOf s mb) (pinOfN (payOf s mb)) (pinOfW (payOf s mb)) = true) →
    ∃ t, exec .channelPin s = .next t ∧ answered s t mb .ok 0 [] ∧ (∀ h, h ≠ g → t.group h = s.group h) ∧ t.fab = s.fab ∧
      t.group g = { s.group g with
        chn := if bit (payOf s mb) 23 then some (fld (payOf s mb) 16 4) else (s.group g).chn, pinn := bit (payOf s mb) 23
        chw := if bit (payOf s mb) 31 then some (fld (payOf s mb) 24 4) else (s.group g).chw, pinw := bit (payOf s mb) 31 }) ∧
  (∀ (mb g : Nat) (s : State), serves s mb 0x0503 → cmdTxid (s.mbox mb).cmd = 0 → fld (payOf s mb) 0 12 = g →
    (s.group g).st = .disabled → (s.group g).report = true → reportOk s (tidOf s mb) (pinOfN (payOf s mb)) (pinOfW (payOf s mb)) = false →
    ∃ t, exec .channelPin s = .next t ∧ answered s t mb .conflict 0 [] ∧ t.grp = s.grp ∧ t.fab = s.fab) ∧
  (∀ (mb g : Nat) (s : State), serves s mb 0x0506 → cmdTxid (s.mbox mb).cmd = 0 → fld (payOf s mb) 0 12 = g →
    (s.group g).st = .disabled → (pby (payOf s mb) 2 1 = 0 ∨ lowestApex s (s.group g) ≤ pby (payOf s mb) 2 1) →
    ∃ t, exec .hubPlace s = .next t ∧ answered s t mb .ok 0 [] ∧ t.group g = { s.group g with apexSet := pby (payOf s mb) 2 1 } ∧
      (∀ h, h ≠ g → t.group h = s.group h) ∧ t.fab = s.fab) ∧
  (∀ (mb g : Nat) (s : State), serves s mb 0x0506 → cmdTxid (s.mbox mb).cmd = 0 → fld (payOf s mb) 0 12 = g →
    (s.group g).st = .disabled → pby (payOf s mb) 2 1 ≠ 0 → pby (payOf s mb) 2 1 < lowestApex s (s.group g) →
    ∃ t, exec .hubPlace s = .next t ∧ answered s t mb .range 2 [] ∧ t.grp = s.grp ∧ t.fab = s.fab) ∧
  (∀ (mb g : Nat) (s : State), serves s mb 0x0507 → cmdTxid (s.mbox mb).cmd = 0 → fld (payOf s mb) 0 12 = g →
    (s.group g).st = .disabled → (bit (payOf s mb) 16 = false ∨ earlyClash s g = false) →
    ∃ t, exec .deliveryMode s = .next t ∧ answered s t mb .ok 0 [] ∧ t.group g = { s.group g with dmode := bit (payOf s mb) 16 } ∧
      (∀ h, h ≠ g → t.group h = s.group h) ∧ t.fab = s.fab) ∧
  (∀ (mb g : Nat) (s : State), serves s mb 0x0507 → cmdTxid (s.mbox mb).cmd = 0 → fld (payOf s mb) 0 12 = g →
    (s.group g).st = .disabled → bit (payOf s mb) 16 = true → earlyClash s g = true →
    ∃ t, exec .deliveryMode s = .next t ∧ answered s t mb .conflict 0 [] ∧ t.grp = s.grp ∧ t.fab = s.fab) ∧
  (∀ (mb g : Nat) (mem : List Byte) (c : Instr × Nat) (s : State),
    c ∈ [(Instr.groupUpdate mem, 0x0102), (.channelPin, 0x0503), (.hubPlace, 0x0506), (.deliveryMode, 0x0507)] →
    serves s mb c.2 → cmdTxid (s.mbox mb).cmd = 0 → fld (payOf s mb) 0 12 = g → (s.group g).st ≠ .disabled → (s.group g).st ≠ .free →
    ∃ t, exec c.1 s = .next t ∧ answered s t mb .conflict 0 [] ∧ t.grp = s.grp ∧ t.fab = s.fab)

/-- R27, R208, R211, R212, R315, R337, R384, R385: with TXID 0, a setting of the block takes effect at once, and nothing else changes but its
change count and the answer. HALF_CLOCK waits for FULL, and CHIP_PLACE is refused while a group names another chip, or for the first rate
outside its range; the field that DETAIL names is the model's choice (log entry 130). -/
def Obligations.BlockSettingsTakeEffect : Prop :=
  (∀ (mb : Nat) (s : State), serves s mb 0x0504 → cmdTxid (s.mbox mb).cmd = 0 →
    ∃ t, exec .channelWeight s = .next t ∧ answered s t mb .ok 0 [] ∧ tabGet 1 t.fab.weight (fld (payOf s mb) 0 8) = pby (payOf s mb) 1 1 ∧
      (∀ c, c ≠ fld (payOf s mb) 0 8 → tabGet 1 t.fab.weight c = tabGet 1 s.fab.weight c) ∧ t.grp = s.grp ∧ t.boot = s.boot) ∧
  (∀ (mb : Nat) (s : State), serves s mb 0x0505 → cmdTxid (s.mbox mb).cmd = 0 →
    ∃ t, exec .vcbWeightSet s = .next t ∧ answered s t mb .ok 0 [] ∧ tabGet 4 t.grp.vcbW (tidOf s mb) = fld (payOf s mb) 0 8 ∧
      (∀ i, i ≠ tidOf s mb → tabGet 4 t.grp.vcbW i = tabGet 4 s.grp.vcbW i) ∧ t.grp.groups = s.grp.groups ∧ t.fab = s.fab) ∧
  (∀ (mb : Nat) (s : State), serves s mb 0x0602 → cmdTxid (s.mbox mb).cmd = 0 →
    ∃ t, exec .linkClassSet s = .next t ∧ answered s t mb .ok 0 [] ∧ tabGet {} t.grp.lclass (fld (payOf s mb) 0 8) =
      { rate := pby (payOf s mb) 1 1, depth := pby (payOf s mb) 2 2, wt := pby (payOf s mb) 4 1, upd := !(tabGet {} s.grp.lclass (fld (payOf s mb) 0 8)).upd } ∧
      (∀ p, p ≠ fld (payOf s mb) 0 8 → tabGet {} t.grp.lclass p = tabGet {} s.grp.lclass p) ∧ t.grp.groups = s.grp.groups ∧ t.fab = s.fab) ∧
  (∀ (mb : Nat) (s : State), serves s mb 0x0603 → cmdTxid (s.mbox mb).cmd = 0 → s.boot.level = .full →
    ∃ t, exec .halfClock s = .next t ∧ t.grp = s.grp ∧ t.flt = s.flt ∧ answered s t mb .ok 0 [] ∧
      t.boot.h0slow = (if fld (payOf s mb) 0 8 = 0 then bit (payOf s mb) 8 else s.boot.h0slow) ∧
      t.boot.h1slow = (if fld (payOf s mb) 0 8 = 0 then s.boot.h1slow else bit (payOf s mb) 8) ∧ t.boot.cap = s.boot.cap) ∧
  (∀ (mb : Nat) (s : State), serves s mb 0x0603 → cmdTxid (s.mbox mb).cmd = 0 → s.boot.level ≠ .full →
    ∃ t, exec .halfClock s = .next t ∧ t.grp = s.grp ∧ answered s t mb .busy 0 [] ∧ t.boot = s.boot ∧ t.fab = s.fab) ∧
  (∀ (mb : Nat) (s : State), serves s mb 0x0604 → cmdTxid (s.mbox mb).cmd = 0 →
    ∃ t, exec .escSet s = .next t ∧ answered s t mb .ok 0 [] ∧ t.flt = { s.flt with tesc := fld (payOf s mb) 0 32 } ∧ t.grp = s.grp ∧ t.boot = s.boot) ∧
  (∀ (mb : Nat) (s : State), serves s mb 0x0605 → cmdTxid (s.mbox mb).cmd = 0 →
    ∃ t, exec .powerCapSet s = .next t ∧ answered s t mb .ok 0 [] ∧ t.boot = { s.boot with cap := fld (payOf s mb) 0 8 } ∧ t.grp = s.grp ∧ t.flt = s.flt) ∧
  (∀ (mb : Nat) (s : State), serves s mb 0x0601 → cmdTxid (s.mbox mb).cmd = 0 → namesOther s = false →
    (∀ n < 6, portUsed (payOf s mb) n = true → 1 ≤ rateOf (payOf s mb) n ∧ rateOf (payOf s mb) n ≤ rateMax (payOf s mb) n) →
    ∃ t, exec .chipPlace s = .next t ∧ t.grp = s.grp ∧ t.flt = s.flt ∧ t.fab = s.fab ∧ answered s t mb .ok 0 [] ∧
      (let p := payOf s mb
       t.boot = { s.boot with
         placed := true, x := pby p 0 1, y := pby p 1 1, z := pby p 2 1, nx := pby p 3 1, ny := pby p 4 1, nz := pby p 5 1
         rates := (List.range 6).map fun n => if portUsed p n then rateOf p n else 0 })) ∧
  (∀ (mb : Nat) (s : State), serves s mb 0x0601 → cmdTxid (s.mbox mb).cmd = 0 → namesOther s = true →
    ∃ t, exec .chipPlace s = .next t ∧ t.grp = s.grp ∧ t.flt = s.flt ∧ answered s t mb .conflict 0 [] ∧ t.boot = s.boot) ∧
  (∀ (mb n : Nat) (s : State), serves s mb 0x0601 → cmdTxid (s.mbox mb).cmd = 0 → namesOther s = false → n < 6 →
    portUsed (payOf s mb) n = true → (rateOf (payOf s mb) n = 0 ∨ rateMax (payOf s mb) n < rateOf (payOf s mb) n) →
    (∀ m < n, portUsed (payOf s mb) m = true → 1 ≤ rateOf (payOf s mb) m ∧ rateOf (payOf s mb) m ≤ rateMax (payOf s mb) m) →
    ∃ t, exec .chipPlace s = .next t ∧ t.grp = s.grp ∧ t.flt = s.flt ∧ answered s t mb .range (8 + 2 * n) [] ∧ t.boot = s.boot)

/-- R338, R339: a command that may be staged, served with the TXID of its mailbox's open transaction, changes no setting: it is added to the
transaction, or refused. -/
def Obligations.StagedCommandsWait : Prop :=
  ∀ (mb : Nat) (mem : List Byte) (c : Instr × Nat) (x : Tx) (s : State),
    c ∈ [(Instr.groupUpdate mem, 0x0102), (.channelPin, 0x0503), (.channelWeight, 0x0504), (.vcbWeightSet, 0x0505), (.hubPlace, 0x0506),
         (.deliveryMode, 0x0507), (.chipPlace, 0x0601), (.linkClassSet, 0x0602), (.halfClock, 0x0603), (.escSet, 0x0604), (.powerCapSet, 0x0605)] →
    serves s mb c.2 → openTx s mb = some x → cmdTxid (s.mbox mb).cmd = x.txid → x.txid ≠ 0 →
    ∃ t, exec c.1 s = .next t ∧ t.grp = s.grp ∧ t.fab = s.fab ∧ t.boot = s.boot ∧ t.flt = s.flt ∧ t.gaf.chg = s.gaf.chg ∧
      (t.mbox mb).done = true ∧ (t.mbox mb).full = false ∧
      ((∃ e, openTx t mb = some { x with staged := x.staged ++ [e] } ∧ x.staged.length < 64 ∧ answered s t mb .ok 0 []) ∨
       (openTx t mb = some x ∧ ∃ st det, st ≠ .ok ∧ (st = .range ∨ det = 0) ∧ answered s t mb st det []))

/-- R190, R192, R195, R196, R198, R200, R206, Table 7-5: a FREE group, named or the lowest, is created DISABLED; an enable of one whose list is
unchanged since its last compile enables it, else its masks are compiled first; an enable of a DRAINING group is held; a disable of an ENABLED
group begins the drain; a DISABLED group with nothing bound is destroyed. What an enable lets go on is the named operation of the model; a
clause beside it says what a group of one chip with no schedule resident holds then. -/
def Obligations.GroupLifecycle : Prop :=
  (∀ (mb g : Nat) (mem : List Byte) (s : State), serves s mb 0x0101 →
    (if bit (payOf s mb) 15 then freeGroup s = some g else fld (payOf s mb) 0 12 = g) →
    (s.group g).st = .free → listFail s (tidOf s mb) g (payOf s mb) mem = none →
    ∃ t, exec (.groupCreate mem) s = .next t ∧ t.group g = withList { st := .disabled, tid := tidOf s mb } (payOf s mb) mem ∧
      answered s t mb .ok 0 (leBytes 2 g) ∧ (∀ h, h ≠ g → t.group h = s.group h) ∧ t.fab = s.fab) ∧
  (∀ (mb g : Nat) (mem : List Byte) (s : State), serves s mb 0x0101 → bit (payOf s mb) 15 = false → fld (payOf s mb) 0 12 = g →
    (s.group g).st ≠ .free →
    ∃ t, exec (.groupCreate mem) s = .next t ∧ answered s t mb .conflict 0 [] ∧ t.grp = s.grp ∧ t.fab = s.fab) ∧
  (∀ (mb g : Nat) (s : State), serves s mb 0x0103 → fld (payOf s mb) 0 12 = g → (s.group g).st = .disabled → (s.group g).compiled = true →
    (let u : State := { s with gaf := { s.gaf with serving := none } }
     exec .groupEnable s = .next (reply (enableNow (bumpKey (u.modGroup g fun e => { e with notify := notifyOf (payOf s mb) 16 }) g) g) mb .ok))) ∧
  (∀ (mb g : Nat) (s : State), serves s mb 0x0103 → fld (payOf s mb) 0 12 = g → (s.group g).st = .disabled → (s.group g).compiled = true →
    isXchip (s.group g) = false → (s.group g).colls = [] → idleMarver s →
    ∃ t, exec .groupEnable s = .next t ∧ (t.group g).st = .enabled ∧ (t.group g).trap = none ∧ (t.group g).plog = [] ∧
      (t.group g).epoch = (s.group g).epoch ∧ (t.group g).notify = none ∧ answered s t mb .ok 0 [] ∧ ∀ h, h ≠ g → t.group h = s.group h) ∧
  (∀ (mb g : Nat) (s : State), serves s mb 0x0103 → fld (payOf s mb) 0 12 = g → (s.group g).st = .disabled → (s.group g).compiled = false →
    ∃ t, exec .groupEnable s = .next t ∧ t.group g = { s.group g with compiling := true, notify := notifyOf (payOf s mb) 16 } ∧
      t.gaf.parked = s.gaf.parked ++ [.enable mb g] ∧ t.mbox mb = s.mbox mb ∧ ∀ h, h ≠ g → t.group h = s.group h) ∧
  (∀ (mb g : Nat) (s : State), serves s mb 0x0103 → fld (payOf s mb) 0 12 = g → (s.group g).st = .draining → (s.group g).enq = false →
    ∃ t, exec .groupEnable s = .next t ∧ t.group g = { s.group g with enq := true, notify := notifyOf (payOf s mb) 16 } ∧
      answered s t mb .draining 0 [] ∧ ∀ h, h ≠ g → t.group h = s.group h) ∧
  (∀ (g : Nat) (s : State), g < 4096 → (s.group g).compiling = true → (s.group g).st = .disabled → s.stopped = false → s.gaf.restart = false →
    exec (.maskCompileDone g) s = .next (answerParked (enableNow (bumpKey (writeMasks s g) g) g)
      (fun x => match x with | .enable _ i => i == g | _ => false) .ok)) ∧
  (∀ (mb g : Nat) (s : State), g < 4096 → (s.group g).compiling = true → (s.group g).st = .disabled → s.stopped = false →
    s.gaf.restart = false → isXchip (s.group g) = false → (s.group g).colls = [] → idleMarver s → .enable mb g ∈ s.gaf.parked →
    (∀ m, .enable m g ∈ s.gaf.parked → m = mb) →
    ∃ t, exec (.maskCompileDone g) s = .next t ∧ (t.group g).st = .enabled ∧ (t.group g).compiled = true ∧ answered s t mb .ok 0 [] ∧
      (∀ m, .enable m g ∉ t.gaf.parked) ∧
      t.maskOf .spine g = some { mask := maskFor (presentOf s (s.group g)) .spine, epoch := (s.group g).epoch, host := (s.group g).hostm, marver := false }) ∧
  (∀ (mb g : Nat) (s : State), serves s mb 0x0104 → fld (payOf s mb) 0 12 = g → (s.group g).st = .enabled →
    (let u : State := { s with gaf := { s.gaf with serving := none } }
     exec .groupDisable s = .next (reply (drainBegin (bumpKey u g) g) mb .ok))) ∧
  (∀ (mb g : Nat) (s : State), serves s mb 0x0104 → fld (payOf s mb) 0 12 = g → (s.group g).st = .enabled → idleMarver s →
    ∃ t, exec .groupDisable s = .next t ∧ (t.group g).st = .draining ∧ (t.group g).since = s.tb ∧ (t.group g).colls = (s.group g).colls ∧
      (t.group g).epoch = (s.group g).epoch ∧ (t.group g).enq = false ∧ answered s t mb .ok 0 []) ∧
  (∀ (mb g : Nat) (s : State), serves s mb 0x0105 → fld (payOf s mb) 0 12 = g → g < 4096 → (s.group g).st = .disabled →
    nbound s g = 0 → schedsOf s g = [] →
    ∃ t, exec .groupDestroy s = .next t ∧ (∀ h, h ≠ g → t.group h = s.group h) ∧ t.group g = {} ∧ (∀ n, t.maskOf n g = none) ∧
      (∀ n h, h < 4096 → h ≠ g → t.maskOf n h = s.maskOf n h) ∧ answered s t mb .ok 0 []) ∧
  (∀ (mb g : Nat) (s : State), serves s mb 0x0105 → fld (payOf s mb) 0 12 = g → g < 4096 → (s.group g).st = .disabled →
    (nbound s g ≠ 0 ∨ schedsOf s g ≠ []) →
    ∃ t, exec .groupDestroy s = .next t ∧ t.grp = s.grp ∧ t.fab = s.fab ∧ answered s t mb .conflict 0 [])

/-- R189, R198, R199, R201, R290: a drain that has ended moves the epoch and leaves the group DISABLED, or ENABLED where an enable is held; one
that has not within 8 stall periods raises F_DRAIN_STUCK (C2). A handshake that is not older is kept and judged; the last matching one sets
PEERS; a stall period without it raises F_PEER_WAIT (C0). The queries answer the group's record and logs and change nothing. -/
def Obligations.DrainsPeersAndQueries : Prop :=
  (∀ (g : Nat) (s : State), g < 4096 → (s.group g).st = .draining → s.stopped = false → drained s g = true → (s.group g).enq = false →
    ∃ t, exec (.drainEnd g) s = .next t ∧ (t.group g).st = .disabled ∧ (t.group g).epoch = (s.group g).epoch + 1 ∧ (t.group g).peers = false ∧
      (∀ h, h ≠ g → t.group h = s.group h) ∧ t.flt = s.flt ∧ t.sync.objs = s.sync.objs) ∧
  (∀ (g : Nat) (s : State), g < 4096 → (s.group g).st = .draining → s.stopped = false → drained s g = true → (s.group g).enq = true →
    exec (.drainEnd g) s = .next (enableNow (epochWake (epochStep (clearPend s g) g) g) g)) ∧
  (∀ (g : Nat) (s : State), g < 4096 → (s.group g).st = .draining → s.stopped = false → drained s g = true → (s.group g).enq = true →
    isXchip (s.group g) = false → idleMarver s →
    ∃ t, exec (.drainEnd g) s = .next t ∧ (t.group g).st = .enabled ∧ (t.group g).epoch = (s.group g).epoch + 1 ∧ (t.group g).enq = false) ∧
  (∀ (g : Nat) (s : State), g < 4096 → (s.group g).st = .draining → s.stopped = false →
    (s.group g).since + 8 * (s.group g).stall * 1024 ≤ s.tb →
    ∃ t, exec (.drainStuck g) s = .next t ∧ t.group g = { s.group g with since := s.tb } ∧
      ∃ e ∈ t.flt.synd, e.code = .drainStuck ∧ e.cls = 2 ∧ e.gid = some g) ∧
  (∀ (p g : Nat) (f : BitVec 512) (u s : State), p < 6 → s.stopped = false → takeCtrl s p ckHandshake = some (f, u) →
    findTag s (cTag f) = some g → ((BitVec.ofNat 16 (fld f 128 16)) - (s.group g).epoch).toNat < 0x8000 →
    (let h : Handshake := { chip := cSrc f, epoch := BitVec.ofNat 16 (fld f 128 16), crc := BitVec.ofNat 32 (fld f 144 32), clog := fld f 176 4 }
     exec (.handshake p) s = .next (resumeGroup (peersTry
       (u.modGroup g fun e => { e with hs := e.hs.filter (fun y => y.chip != h.chip || y.epoch != h.epoch) ++ [h] }) g) g))) ∧
  (∀ (p g : Nat) (f : BitVec 512) (u s : State), p < 6 → s.stopped = false → takeCtrl s p ckHandshake = some (f, u) →
    findTag s (cTag f) = some g → (s.group g).st = .enabled → isXchip (s.group g) = true → (s.group g).colls = [] →
    idleMarver s → (∀ h ∈ (s.group g).hs, newerBy (s.group g) h = 0) → missingChips s g = [cSrc f] →
    BitVec.ofNat 16 (fld f 128 16) = (s.group g).epoch → BitVec.ofNat 32 (fld f 144 32) = (s.group g).listCrc → fld f 176 4 = (s.group g).clog →
    ∃ t, exec (.handshake p) s = .next t ∧ (t.group g).peers = true ∧ (t.group g).st = .enabled ∧ (t.group g).epoch = (s.group g).epoch ∧
      (t.lport p).inbox = (u.lport p).inbox) ∧
  (∀ (g : Nat) (s : State), g < 4096 → ((s.group g).st = .enabled ∨ (s.group g).st = .draining) → isXchip (s.group g) = true → (s.group g).peers = false →
    s.stopped = false → (s.group g).peerSince + (s.group g).stall * 1024 ≤ s.tb →
    ∃ t, exec (.peerWait g) s = .next t ∧ t.group g = { s.group g with peerSince := s.tb } ∧
      ∃ e ∈ t.flt.synd, e.code = .peerWait ∧ e.cls = 0 ∧ e.gid = some g) ∧
  (∀ (mb : Nat) (s : State), serves s mb 0x0106 →
    ∃ t, exec .groupQuery s = .next t ∧ answered s t mb .ok 0 (leBytes 32 (groupRecord s (fld (payOf s mb) 0 12)).toNat) ∧ t.grp = s.grp ∧
      t.sync = s.sync ∧ t.flt = s.flt) ∧
  (∀ (mb : Nat) (s : State), serves s mb 0x0107 →
    ∃ t, exec .groupLogs s = .next t ∧ answered s t mb .ok 0 (groupLogs s (fld (payOf s mb) 0 12) (pby (payOf s mb) 2 1)) ∧ t.grp = s.grp ∧
      t.sync = s.sync ∧ t.flt = s.flt)

/-- R195, R237, R243, R261, R262, R267, R280: a posting that fails a check is refused with its status and changes no group; one of the die alone
joins its group in issue order; one that needs Marver takes a free schedule number and its group stages through Marver. A loaded schedule is
resident under the number named or a free one. An unload with no pass in progress takes place, one with passes under way waits parked; one
still parked after 100 us is refused, and the schedule stays. Which free number is taken, the die's format of a loaded schedule and the field
that DETAIL names are the model's choices (log entries 35 and 130). -/
def Obligations.PostingsAndSchedules : Prop :=
  (∀ (mb : Nat) (st : St) (d : Desc) (s : State), serves s mb 0x0201 → d = BitVec.ofNat 1024 (fld (payOf s mb) 0 1024) → postFail s (dGid d) d = some st →
    ∃ t, exec .collPost s = .next t ∧ answered s t mb st (if st = .range then postOffset s (dGid d) d else 0) [] ∧ t.grp = s.grp ∧ t.mrv = s.mrv) ∧
  (∀ (mb : Nat) (d : Desc) (s : State), serves s mb 0x0201 → d = BitVec.ofNat 1024 (fld (payOf s mb) 0 1024) → postFail s (dGid d) d = none →
    needsMarver (s.group (dGid d)) d = false →
    ∃ t, exec .collPost s = .next t ∧ answered s t mb .ok 0 (leBytes 2 0) ∧ (t.group (dGid d)).norder = (s.group (dGid d)).norder + 1 ∧
      (∃ c ∈ (t.group (dGid d)).colls, c.desc = d ∧ c.cid = dCid d ∧ c.order = (s.group (dGid d)).norder ∧ c.sched = none ∧
        c.coresLeft = partsOf s (s.group (dGid d)) d) ∧
      (∀ h, h ≠ dGid d → t.group h = s.group h)) ∧
  (∀ (mb : Nat) (d : Desc) (s : State), serves s mb 0x0201 → d = BitVec.ofNat 1024 (fld (payOf s mb) 0 1024) → postFail s (dGid d) d = none →
    needsMarver (s.group (dGid d)) d = true →
    ∃ t, exec .collPost s = .next t ∧ ∃ n ∈ freeNumbers s (dStand d), answered s t mb .ok 0 (leBytes 2 (0x8000 + n)) ∧
      (t.group (dGid d)).apex = 5 ∧
      ∃ x, t.sched n = some x ∧ x.coll = some d ∧ x.hdr.gid = dGid d ∧ 1 ≤ x.hdr.units ∧ x.hdr.units ≤ 8960 ∧ x.steps.length ≤ 128) ∧
  (∀ (mb n : Nat) (mem : List Byte) (s : State), serves s mb 0x0501 →
    (if bit (payOf s mb) 15 then (freeNumbers s true) ≠ [] ∧ n = (freeNumbers s true).getD (Config.freeNat (s.freeCtr + 1) % (freeNumbers s true).length) 0
     else fld (payOf s mb) 0 9 = n ∧ s.sched n = none) →
    (let h := readHdr (hdrBits mem)
     let ts := (List.range (fld (hdrBits mem) 12 7 + 1)).map fun i => readStep (descBits mem i)
     let tf := Config.freeNat s.freeCtr % 12
     foreignGroup s (tidOf s mb) h.gid = false → keyHeld { s with gaf := { s.gaf with serving := none } } h.gid = false → (s.group h.gid).st ≠ .free →
     loadOk s mem (loadWfmt ts) tf ts = true → ((s.group h.gid).dmode = true → rewritesInput (s.group h.gid) (loadWfmt ts) tf ts = false) →
     ∃ t, exec (.schedLoad mem) s = .next t ∧ answered s t mb .ok 0 (leBytes 2 n) ∧
       ∃ x, t.sched n = some x ∧ x.hdr = h ∧ x.steps = ts ∧ x.tid = tidOf s mb ∧ x.wfmt = loadWfmt ts ∧ x.tfmt = tf)) ∧
  (∀ (mb n : Nat) (mem : List Byte) (s : State), serves s mb 0x0501 → bit (payOf s mb) 15 = false → fld (payOf s mb) 0 9 = n → s.sched n = none →
    (let h := readHdr (hdrBits mem)
     let ts := (List.range (fld (hdrBits mem) 12 7 + 1)).map fun i => readStep (descBits mem i)
     foreignGroup s (tidOf s mb) h.gid = false → keyHeld { s with gaf := { s.gaf with serving := none } } h.gid = false →
     loadOk s mem (loadWfmt ts) (Config.freeNat s.freeCtr % 12) ts = false →
     ∃ t, exec (.schedLoad mem) s = .next t ∧ answered s t mb .range 8 [] ∧ t.mrv = s.mrv ∧ t.grp = s.grp)) ∧
  (∀ (mb n : Nat) (x : Sched) (s : State), serves s mb 0x0502 → fld (payOf s mb) 0 9 = n → s.sched n = some x → x.passes = [] →
    (∀ m k, .unload m k ∉ s.gaf.parked) →
    ∃ t, exec .schedUnload s = .next t ∧ t.sched n = none ∧ answered s t mb .ok 0 [] ∧ t.gaf.parked = s.gaf.parked ∧ t.grp = s.grp ∧
      ∀ m, m ≠ n → t.sched m = s.sched m) ∧
  (∀ (mb n : Nat) (x : Sched) (s : State), serves s mb 0x0502 → fld (payOf s mb) 0 9 = n → s.sched n = some x → x.passes ≠ [] →
    (∀ q ∈ x.passes, q.steps.any (·.started) = true) → (∀ m k, .unload m k ∉ s.gaf.parked) →
    ∃ t, exec .schedUnload s = .next t ∧ t.sched n = some { x with unloading := some s.tb } ∧ t.mbox mb = s.mbox mb ∧
      t.gaf.parked = s.gaf.parked ++ [.unload mb n] ∧ t.grp = s.grp) ∧
  (∀ (mb n a : Nat) (x : Sched) (s : State), n < 512 → s.sched n = some x → x.unloading = some a → a + 100000 ≤ s.tb →
    .unload mb n ∈ s.gaf.parked → (∀ m, .unload m n ∈ s.gaf.parked → m = mb) →
    ∃ t, exec (.schedUnloadTimeout n) s = .next t ∧ (∃ y, t.sched n = some y ∧ y.unloading = none ∧ y.hdr = x.hdr ∧ y.steps = x.steps) ∧
      answered s t mb .busy 0 [] ∧ .unload mb n ∉ t.gaf.parked)

/-- R133, R148, R155, R163, R336, R406: SO_ALLOC gives the object named or the lowest of a range, free or to be reclaimed, the record of R133;
SO_FREE returns it to all zeros unless it is FROZEN or has waiters; SO_QUERY answers the record. CANE_BIND binds a loose channel to a DISABLED
group, CANE_UNBIND clears it. A host slot is mapped to an allocated object, and unmapped at once or after the operation in flight. That a
reclaimed object starts afresh and that a group binds one channel that spans chips are the model's readings (log entries 33 and 34).
R138, R145 to R148, R336: a task binds its cores under its TID and TAG; suspended, its objects freeze and keep their counts; resumed, those
that no operation is on its way to return to their earlier states; killed, they become ABANDONED, its cores' transfers end and the cores are
unbound; released at its baseline, they are freed, and else listed. -/
def Obligations.ItemsAndTasks : Prop :=
  (∀ (mb i : Nat) (s : State), serves s mb 0x0301 → (taskOf s (tidOf s mb) (fld (payOf s mb) 64 16)).isSome = true →
    (bit (payOf s mb) 95 = true → (s.group (fld (payOf s mb) 80 12)).st ≠ .free) →
    (let p := payOf s mb
     let r := if bit p 17 then (0x4000 + 256 * fld p 24 8, 256) else (0, 0x4000)
     let fits (j : Nat) : Prop := if bit p 16 then (s.obj j).al = true ∧ (s.obj j).st = .abandoned ∧ (s.obj j).tid = tidOf s mb else (s.obj j).al = false
     fits i → (if bit p 15 then r.1 ≤ i ∧ i < r.1 + r.2 ∧ ∀ j, r.1 ≤ j → j < i → ¬ fits j else fld p 0 15 = i) →
     ∃ t, exec .soAlloc s = .next t ∧ answered s t mb .ok 0 (leBytes 2 i) ∧
       (let n := fld p 32 32
        t.obj i = { al := true, tid := tidOf s mb, tag := fld p 64 16, gid := if bit p 95 then some (fld p 80 12) else none,
                    bthr := n, thresh := n, st := if n = 0 then .idle else .armed }) ∧
       (∀ j, j ≠ i → t.obj j = s.obj j) ∧ t.grp = s.grp ∧ t.ports = s.ports)) ∧
  (∀ (mb i : Nat) (s : State), serves s mb 0x0301 → (taskOf s (tidOf s mb) (fld (payOf s mb) 64 16)).isSome = true →
    bit (payOf s mb) 95 = false → bit (payOf s mb) 16 = false → bit (payOf s mb) 15 = false → fld (payOf s mb) 0 15 = i → (s.obj i).al = true →
    ∃ t, exec .soAlloc s = .next t ∧ answered s t mb .conflict 0 [] ∧ t.sync = s.sync) ∧
  (∀ (mb i : Nat) (s : State), serves s mb 0x0302 → fld (payOf s mb) 0 15 = i → (s.obj i).al = true → (s.obj i).st ≠ .frozen → nwait s i = 0 →
    ∃ t, exec .soFree s = .next t ∧ (∀ j, j ≠ i → t.obj j = s.obj j) ∧ t.grp = s.grp ∧ t.obj i = {} ∧ answered s t mb .ok 0 []) ∧
  (∀ (mb i : Nat) (s : State), serves s mb 0x0302 → fld (payOf s mb) 0 15 = i → (s.obj i).al = true → ((s.obj i).st = .frozen ∨ nwait s i ≠ 0) →
    ∃ t, exec .soFree s = .next t ∧ t.sync = s.sync ∧ t.grp = s.grp ∧ answered s t mb .conflict 0 []) ∧
  (∀ (mb i : Nat) (s : State), serves s mb 0x0303 → fld (payOf s mb) 0 15 = i → ((s.obj i).al = true ∨ mb = 0) →
    ∃ t, exec .soQuery s = .next t ∧ answered s t mb .ok 0 (leBytes 32 (soRecord s i).toNat) ∧ t.sync = s.sync ∧ t.grp = s.grp) ∧
  (∀ (mb cn g : Nat) (s : State), serves s mb 0x0310 → fld (payOf s mb) 0 8 = cn → fld (payOf s mb) 16 12 = g → (s.cchan cn).lost = false →
    (s.cchan cn).bound = none → (s.group g).st = .disabled →
    (isXchip (s.group g) = true → isProduct (s.group g).chips = true ∧ caneOfX s g = none) →
    ∃ t, exec .caneBind s = .next t ∧ answered s t mb .ok 0 [] ∧ (t.cchan cn).bound = some g ∧ (t.cchan cn).hostm = bit (payOf s mb) 32 ∧
      (t.cchan cn).inte = bit (payOf s mb) 33 ∧ (t.cchan cn).xchip = isXchip (s.group g) ∧ (t.cchan cn).phase = (s.cchan cn).phase ∧
      (∀ d, d ≠ cn → t.cchan d = s.cchan d) ∧ t.grp = s.grp) ∧
  (∀ (mb cn g : Nat) (s : State), serves s mb 0x0310 → fld (payOf s mb) 0 8 = cn → fld (payOf s mb) 16 12 = g → (s.cchan cn).lost = false →
    ((s.cchan cn).bound.isSome = true ∨ (s.group g).st ≠ .disabled) →
    ∃ t, exec .caneBind s = .next t ∧ answered s t mb .conflict 0 [] ∧ t.cane = s.cane ∧ t.grp = s.grp) ∧
  (∀ (mb cn g : Nat) (s : State), serves s mb 0x0311 → fld (payOf s mb) 0 8 = cn → (s.cchan cn).bound = some g → (s.group g).st = .disabled →
    ∃ t, exec .caneUnbind s = .next t ∧ answered s t mb .ok 0 [] ∧ (t.cchan cn).bound = none ∧ (t.cchan cn).phase = 0 ∧ (t.cchan cn).legs = [] ∧
      (∀ d, d ≠ cn → t.cchan d = s.cchan d) ∧ t.grp = s.grp) ∧
  (∀ (mb n i : Nat) (s : State), serves s mb 0x0320 → fld (payOf s mb) 0 16 = n → fld (payOf s mb) 16 15 = i → n < 4096 → (s.obj i).al = true →
    (s.slot n).soid = none →
    ∃ t, exec .hostSlotMap s = .next t ∧ answered s t mb .ok 0 [] ∧ (t.slot n).soid = some i ∧ (t.slot n).tid = tidOf s mb ∧
      (t.slot n).tag = fld (payOf s mb) 32 16 ∧ (t.slot n).inte = bit (payOf s mb) 48 ∧ (t.slot n).count = (s.obj i).count ∧
      (t.slot n).gen = (s.obj i).gen ∧ (∀ m, m ≠ n → t.slot m = s.slot m) ∧ t.sync = s.sync ∧ t.grp = s.grp) ∧
  (∀ (mb n : Nat) (s : State), serves s mb 0x0321 → fld (payOf s mb) 0 16 = n → n < 4096 → (s.slot n).soid.isSome = true → (s.slot n).busy = false →
    ∃ t, exec .hostSlotUnmap s = .next t ∧ answered s t mb .ok 0 [] ∧ t.sync = s.sync ∧ t.slot n = {} ∧ n ∉ t.host.due) ∧
  (∀ (mb n : Nat) (s : State), serves s mb 0x0321 → fld (payOf s mb) 0 16 = n → n < 4096 → (s.slot n).soid.isSome = true → (s.slot n).busy = true →
    ∃ t, exec .hostSlotUnmap s = .next t ∧ answered s t mb .ok 0 [] ∧ t.sync = s.sync ∧ t.slot n = { s.slot n with unmap := true }) ∧
  (∀ (mb : Nat) (mem : List Byte) (s : State), serves s mb 0x0401 → (taskOf s (tidOf s mb) (fld (payOf s mb) 0 16)).isSome = false →
    (let cores := taskMask mem (payOf s mb)
     (∀ k, k < 5120 → bit cores k = true → (s.port k).tv = false) ∧ inCells (s.tenant (tidOf s mb)) cores = true ∧ namesAbsent s cores = false) →
    s.grp.tasks.length < 4096 →
    ∃ t, exec (.taskBind mem) s = .next t ∧ answered s t mb .ok 0 [] ∧
      t.grp.tasks = s.grp.tasks ++ [{ tid := tidOf s mb, tag := fld (payOf s mb) 0 16, cores := taskMask mem (payOf s mb) }] ∧
      (∀ k, t.port k = if bit (taskMask mem (payOf s mb)) k then { s.port k with tid := tidOf s mb, tag := fld (payOf s mb) 0 16, tv := true } else s.port k) ∧
      t.sync.objs = s.sync.objs) ∧
  (∀ (mb : Nat) (x : Task) (s : State), serves s mb 0x0402 → taskOf s (tidOf s mb) (fld (payOf s mb) 0 16) = some x → x.suspended = false →
    ∃ t, exec .taskSuspend s = .next t ∧ answered s t mb .ok 0 [] ∧ taskOf t x.tid x.tag = some { x with suspended := true } ∧
      ∀ i, (s.obj i).al = true → (s.obj i).tid = x.tid → (s.obj i).tag = x.tag → ((s.obj i).st = .idle ∨ (s.obj i).st = .armed) →
        t.obj i = { s.obj i with st := .frozen, fpre := decide ((s.obj i).st = .armed) }) ∧
  (∀ (mb : Nat) (x : Task) (s : State), serves s mb 0x0403 → taskOf s (tidOf s mb) (fld (payOf s mb) 0 16) = some x → x.suspended = true →
    ∃ t, exec .taskResume s = .next t ∧ answered s t mb .ok 0 [] ∧ taskOf t x.tid x.tag = some { x with suspended := false } ∧
      ∀ i, (s.obj i).al = true → (s.obj i).tid = x.tid → (s.obj i).tag = x.tag → (s.obj i).st = .frozen → (∀ o ∈ s.sync.ops, o.soid ≠ i) →
        (t.obj i).st = (if (s.obj i).fpre then .armed else .idle) ∧ (t.obj i).held = 0 ∧ (t.obj i).thresh = (s.obj i).thresh) ∧
  (∀ (mb : Nat) (x : Task) (s : State), serves s mb 0x0404 → taskOf s (tidOf s mb) (fld (payOf s mb) 0 16) = some x →
    ∃ t, exec .taskKill s = .next t ∧ answered s t mb .ok 0 [] ∧ taskOf t x.tid x.tag = none ∧
      (∀ k, k < 5120 → bit x.cores k = true → (t.port k).tv = false ∧ (t.port k).push.run = none ∧ (t.port k).push.que = none ∧
        (t.port k).pull.run = none ∧ (t.port k).pull.que = none ∧ (t.port k).scal = none) ∧
      ∀ i, (s.obj i).al = true → (s.obj i).tid = x.tid → (s.obj i).tag = x.tag → (t.obj i).st = .abandoned) ∧
  (∀ (mb : Nat) (x : Task) (s : State), serves s mb 0x0405 → taskOf s (tidOf s mb) (fld (payOf s mb) 0 16) = some x → residue s x = [] →
    ∃ t, exec .taskRelease s = .next t ∧ answered s t mb .ok 0 [] ∧ taskOf t x.tid x.tag = none ∧
      (∀ k, k < 5120 → bit x.cores k = true → (t.port k).tv = false) ∧
      ∀ i, (s.obj i).al = true → (s.obj i).tid = x.tid → (s.obj i).tag = x.tag → t.obj i = {}) ∧
  (∀ (mb : Nat) (x : Task) (s : State), serves s mb 0x0405 → taskOf s (tidOf s mb) (fld (payOf s mb) 0 16) = some x → residue s x ≠ [] →
    ∃ t, exec .taskRelease s = .next t ∧ answered s t mb .residue (min 0xFFFF (residue s x).length) (residueBytes s (residue s x)) ∧
      t.sync = s.sync ∧ t.grp = s.grp ∧ t.ports = s.ports)

/-! ## Host window (16) -/

/-- R9, R395 to R397, R401 to R403: a write to a register with no action of its own is stored; an access that R395 or R397 turns away changes
UW_HERR alone, and the offset is kept; a read returns the word. UW_TB is read whole over two half reads. MSGEN, C2PEND and UW_CSEL take what
is written. -/
def Obligations.HostWindowAccesses : Prop :=
  (∀ (off : Nat) (be : BitVec 8) (d : BitVec 64) (s : State), hostLive s = true → off % 8 = 0 → off < 0x20000 → inCmdArea off = false →
    beWhole be = true → hostDefined off = true → (0x1000 ≤ off → off < 0xA000 → mbReached ((off - 0x1000) / 0x200) = true) →
    hostReadOnly off = false → hostAction true off be = false →
    exec (.hostRegWrite true off be d) s = .next (hostStore s off be d)) ∧
  (∀ (d : BitVec 64) (s : State), hostLive s = true →
    (∃ t, exec (.hostRegWrite true 0x128 0xFF d) s = .next t ∧ t = { s with host := { s.host with msgAddr := t.host.msgAddr } } ∧
      fld t.host.msgAddr 0 2 = 0 ∧ fld t.host.msgAddr 2 62 = fld d 2 62) ∧
    (exec (.hostRegWrite true 0x130 0xFF d) s = .next { s with host := { s.host with dbase := BitVec.ofNat 16 (fld d 16 16) } }) ∧
    (exec (.hostRegWrite true 0x408 0xFF d) s = .next { s with host := { s.host with fie := BitVec.ofNat 5 (fld d 0 5) } }) ∧
    (exec (.hostRegWrite true 0x828 0xFF d) s = .next { s with host := { s.host with caneSel := BitVec.ofNat 6 (fld d 0 6) } }) ∧
    (exec (.hostRegWrite true 0x170 0xFF d) s = .next { s with host := { s.host with
      herrAddr := s.host.herrAddr && !bit d 0, herrSize := s.host.herrSize && !bit d 1, herrWro := s.host.herrWro && !bit d 2,
      herrMbx := s.host.herrMbx && !bit d 3 } }) ∧
    (∃ t, exec (.hostRegWrite true 0x140 0xFF d) s = .next t ∧ t = { s with host := { s.host with mbie := t.host.mbie } } ∧
      ∀ i < 64, bit t.host.mbie i = (bit d i && decide (i ≠ 1))) ∧
    ∀ n < 66, n ≠ 1 → ∃ t, exec (.hostRegWrite true (0x1108 + 0x200 * n) 0xFF d) s = .next t ∧
      t.mbox n = { s.mbox n with done := (s.mbox n).done && !bit d 33, ovr := (s.mbox n).ovr && !bit d 34 } ∧
      ∀ m, m ≠ n → t.mbox m = s.mbox m) ∧
  (∀ (off : Nat) (be : BitVec 8) (d : BitVec 64) (s : State), hostLive s = true → off % 8 = 0 → off < 0x20000 → inCmdArea off = false →
    beWhole be = false →
    exec (.hostRegWrite true off be d) s = .next { s with host := { s.host with herrSize := true, lastoff := BitVec.ofNat 17 off } }) ∧
  (∀ (off : Nat) (be : BitVec 8) (d : BitVec 64) (s : State), hostLive s = true → off % 8 = 0 → off < 0x20000 → inCmdArea off = false →
    beWhole be = true → hostDefined off = false →
    exec (.hostRegWrite true off be d) s = .next { s with host := { s.host with herrAddr := true, lastoff := BitVec.ofNat 17 off } }) ∧
  (∀ (off : Nat) (be : BitVec 8) (d : BitVec 64) (s : State), hostLive s = true → off % 8 = 0 → 0x1000 ≤ off → off < 0xA000 →
    inCmdArea off = false → beWhole be = true → mbReached ((off - 0x1000) / 0x200) = false →
    exec (.hostRegWrite true off be d) s = .next { s with host := { s.host with herrMbx := true, lastoff := BitVec.ofNat 17 off } }) ∧
  (∀ (off : Nat) (be : BitVec 8) (d : BitVec 64) (s : State), hostLive s = true → off % 8 = 0 → off < 0x20000 → inCmdArea off = false →
    beWhole be = true → hostReadOnly off = true → (0x1000 ≤ off → off < 0xA000 → mbReached ((off - 0x1000) / 0x200) = true) →
    exec (.hostRegWrite true off be d) s = .next { s with host := { s.host with herrWro := true, lastoff := BitVec.ofNat 17 off } }) ∧
  (∀ (off : Nat) (be : BitVec 8) (d : BitVec 64) (s : State), hostLive s = true → off % 8 = 0 → off < 0x20000 → hostDefined off = true → off ≠ 0x110 →
    exec (.hostRegWrite false off be d) s = .next { s with host := { s.host with rdata := hostRead s off } }) ∧
  (∀ (off : Nat) (be : BitVec 8) (d : BitVec 64) (s : State), hostLive s = true → off % 8 = 0 → off < 0x20000 → hostDefined off = false →
    exec (.hostRegWrite false off be d) s = .next { s with host := { s.host with rdata := 0, herrAddr := true, lastoff := BitVec.ofNat 17 off } }) ∧
  (∀ (s : State), hostLive s = true → s.tb < 2 ^ 64 →
    ∃ t, exec .tbReadLow s = .next t ∧ fld t.host.rdata 0 32 = s.tb % 2 ^ 32 ∧ t.tb = s.tb ∧
      ∀ n, ∃ u, exec .tbReadHigh { t with tb := n } = .next u ∧ fld u.host.rdata 32 32 = s.tb / 2 ^ 32 ∧ u.host.tbLatch = none) ∧
  (∀ (x : BitVec 32) (s : State), hostLive s = true → s.host.tbLatch = some x →
    ∃ t, exec .tbReadHigh s = .next t ∧ fld t.host.rdata 32 32 = x.toNat ∧ t.host.tbLatch = none ∧ t = { s with host := t.host }) ∧
  (∀ s : State, hostLive s = true → s.host.tbLatch = none →
    exec .tbReadHigh s = .next { s with host := { s.host with rdata := BitVec.ofNat 64 s.tb } }) ∧
  (∀ (d : BitVec 64) (s : State), hostLive s = true →
    exec (.msgctlWrite d) s = .next { s with host := { s.host with msgen := bit d 0 } } ∧
    exec .c2pendClear s = .next { s with flt := { s.flt with c2pend := false } } ∧
    ∃ t, exec (.cselWrite d) s = .next t ∧ t.host.csel = BitVec.ofNat 6 (fld d 0 6) ∧ t.flt = s.flt ∧
      (match s.flt.ring[fld d 0 6]? with
       | some e => t.host.cent = entryWord e ∧ t.host.cselSeq = e.wseq
       | none => t.host.cent = 0 ∧ t.host.cselSeq = 0))

/-- R154, R404, R405, R406: an operation of a mapped slot that is free goes to the slot's object with the TID and TAG recorded, and its status
follows; of an unmapped slot it is ST_DENIED, of a busy one, or before LIMP, ST_BUSY, and an ARRIVE operand out of range is ST_RANGE. The
host leg's arrival drives the leg to the target or leaves it. -/
def Obligations.SlotsAndTheHostLeg : Prop :=
  (∀ (n : Nat) (w : BitVec 64) (s : State), n < 4096 → slotMay s n .arrive w → ∃ t, exec (.slotArrive n w) s = .next t ∧ slotSent s t n .arrive w) ∧
  (∀ (n : Nat) (w : BitVec 64) (s : State), n < 4096 → slotMay s n .signal w → ∃ t, exec (.slotSignal n w) s = .next t ∧ slotSent s t n .signal w) ∧
  (∀ (n : Nat) (w : BitVec 64) (s : State), n < 4096 → slotMay s n .reset w → ∃ t, exec (.slotReset n w) s = .next t ∧ slotSent s t n .reset w) ∧
  (∀ (n : Nat) (w : BitVec 64) (s : State), n < 4096 → slotMay s n .read w → ∃ t, exec (.slotRead n w) s = .next t ∧ slotSent s t n .read w) ∧
  (∀ (n : Nat) (w : BitVec 64) (c : Instr × SoOpKind) (s : State),
    c ∈ [(Instr.slotArrive n w, SoOpKind.arrive), (.slotSignal n w, .signal), (.slotReset n w, .reset), (.slotRead n w, .read)] →
    n < 4096 → hostLive s = true → fld w 0 2 = soOpCode c.2 →
    ((s.slot n).soid = none → ∃ t, exec c.1 s = .next t ∧ (t.slot n).res = .denied ∧ (t.slot n).busy = (s.slot n).busy ∧ t.sync = s.sync ∧ t.grp = s.grp) ∧
    ((s.slot n).soid.isSome = true → ((s.slot n).busy = true ∨ s.boot.level.code < 2) →
      ∃ t, exec c.1 s = .next t ∧ (t.slot n).res = .busy ∧ (t.slot n).busy = (s.slot n).busy ∧ t.sync = s.sync ∧ t.grp = s.grp)) ∧
  (∀ (n : Nat) (w : BitVec 64) (s : State), n < 4096 → hostLive s = true → fld w 0 2 = 0 → (s.slot n).soid.isSome = true → (s.slot n).busy = false →
    2 ≤ s.boot.level.code → (fld w 32 32 = 0 ∨ 65535 < fld w 32 32) →
    ∃ t, exec (.slotArrive n w) s = .next t ∧ (t.slot n).res = .range ∧ (t.slot n).busy = false ∧ t.sync = s.sync ∧ t.grp = s.grp) ∧
  (∀ (n i : Nat) (st : St) (s : State), n < 4096 → (s.slot n).soid = some i → (s.slot n).busy = true → (s.slot n).next = some st →
    (s.slot n).unmap = false →
    ∃ t, exec (.slotOpDone n) s = .next t ∧ t.sync = s.sync ∧ t.flt = s.flt ∧ (∀ m, m ≠ n → t.slot m = s.slot m) ∧
      t.slot n = { s.slot n with busy := false, next := none, res := st, count := (s.obj i).count, gen := (s.obj i).gen, st := (s.obj i).st }) ∧
  (∀ (n i : Nat) (st : St) (s : State), n < 4096 → (s.slot n).soid = some i → (s.slot n).busy = true → (s.slot n).next = some st →
    (s.slot n).unmap = true →
    ∃ t, exec (.slotOpDone n) s = .next t ∧ t.sync = s.sync ∧ t.flt = s.flt ∧ t.slot n = {} ∧ n ∉ t.host.due) ∧
  (∀ (w : BitVec 64) (s : State), hostLive s = true → hostCaneStatus s (fld w 0 6) = .ok →
    ∃ t, exec (.uwCaneArrive w) s = .next t ∧ t.host.caneSt = .ok ∧ t.host.caneStCn = fld w 0 6 ∧
      (∀ d, d ≠ fld w 0 6 → t.cchan d = s.cchan d) ∧ t.grp = s.grp ∧ t.ports = s.ports ∧
      t.cchan (fld w 0 6) = { s.cchan (fld w 0 6) with hostLeg := caneTarget (s.cchan (fld w 0 6)) }) ∧
  (∀ (w : BitVec 64) (s : State), hostLive s = true → hostCaneStatus s (fld w 0 6) ≠ .ok →
    ∃ t, exec (.uwCaneArrive w) s = .next t ∧ t.host.caneSt = hostCaneStatus s (fld w 0 6) ∧ t.host.caneStCn = fld w 0 6 ∧ t.cane = s.cane ∧
      t.grp = s.grp ∧ t.ports = s.ports)

/-! ## Marver and the link ports (08, 10, 15) -/

/-- R219 to R221, R241: a beat of a read is kept with its tag and touches nothing else; a beat in error raises F_MEM_PORT and abandons the
request, whose later beats are discarded; the last WACK of a chunk finishes it, a write in error frees its tag, and the last FACK that a NOTE
waits for fires it. A response of a pass's end takes the end one stage on. -/
def Obligations.MemoryResponsesReachTheirStep : Prop :=
  (∀ (port tag : Nat) (data : BitVec 1024) (r : MemReq) (s : State), port < 16 → tag < 256 → tagOf s port tag = some r → r.op = 0 →
    ∃ t, exec (.memRdata port tag data false false) s = .next t ∧ tagOf t port tag = some { r with data := r.data ++ leBytes 128 data.toNat } ∧
      (∀ p k, (p ≠ port ∨ k ≠ tag) → tagOf t p k = tagOf s p k) ∧ t.mrv.scheds = s.mrv.scheds ∧ t = { s with mrv := t.mrv }) ∧
  (∀ (port tag : Nat) (data : BitVec 1024) (r : MemReq) (s : State), port < 16 → tag < 256 → tagOf s port tag = some r → r.op = 0 →
    r.abandoned = false →
    exec (.memRdata port tag data true false) s = .next
      (let r1 := { r with data := r.data ++ leBytes 128 data.toNat }
       readDone (freeTag (setTag s port tag (some r1)) port tag) r1)) ∧
  (∀ (port tag : Nat) (data : BitVec 1024) (r : MemReq) (s : State), port < 16 → tag < 256 → tagOf s port tag = some r → r.op = 0 →
    r.abandoned = true → (s.mport port).queue = [] →
    ∃ t, exec (.memRdata port tag data true false) s = .next t ∧ tagOf t port tag = none ∧ t.mrv.scheds = s.mrv.scheds ∧ t = { s with mrv := t.mrv }) ∧
  (∀ (port tag : Nat) (data : BitVec 1024) (r : MemReq) (s : State), port < 16 → tag < 256 → tagOf s port tag = some r → r.op = 0 →
    r.abandoned = false →
    ∃ t, exec (.memRdata port tag data false true) s = .next t ∧ (∃ r1, tagOf t port tag = some r1 ∧ r1.abandoned = true) ∧
      (∃ e ∈ t.flt.synd, e.code = .memPort ∧ e.sidx = port ∧ e.gid = some r.gid ∧ e.cls = 2) ∧ t.grp = s.grp ∧ t.sync = s.sync ∧ t.ports = s.ports) ∧
  (∀ (port tag : Nat) (r : MemReq) (x : Sched) (q : Pass) (st : Step) (y : StepRun) (s : State), port < 16 → tag < 256 →
    tagOf s port tag = some r → r.op = 1 → r.abandoned = false → r.step ≠ finStep → stepAt s r.sched r.pass r.step = some (x, q, st, y) →
    needOf y r.chunk = some 1 → st.kind ≠ kCOUNTX →
    exec (.memWack port tag false) s = .next (unloadTry (workSched
      (modStep (modStep (freeTag s port tag) r.sched r.pass r.step (decNeed r.chunk)) r.sched r.pass r.step (markWritten r.chunk)) r.sched))) ∧
  (∀ (port tag n : Nat) (r : MemReq) (x : Sched) (q : Pass) (st : Step) (y : StepRun) (s : State), port < 16 → tag < 256 →
    tagOf s port tag = some r → r.op = 1 → r.abandoned = false → r.step ≠ finStep → stepAt s r.sched r.pass r.step = some (x, q, st, y) →
    needOf y r.chunk = some (n + 2) →
    exec (.memWack port tag false) s = .next (unloadTry (workSched (modStep (freeTag s port tag) r.sched r.pass r.step (decNeed r.chunk)) r.sched))) ∧
  (∀ (port tag : Nat) (r : MemReq) (s : State), port < 16 → tag < 256 → tagOf s port tag = some r → r.op = 1 → r.abandoned = false →
    (s.mport port).queue = [] →
    ∃ t, exec (.memWack port tag true) s = .next t ∧ tagOf t port tag = none ∧ t.flt.synd = addEvent (memEvent s port tag r) s.flt.synd ∧
      t.mrv.scheds = s.mrv.scheds ∧ t.grp = s.grp) ∧
  (∀ (port tag : Nat) (r : MemReq) (x : Sched) (q : Pass) (st : Step) (y : StepRun) (s : State), port < 16 → tag < 256 →
    tagOf s port tag = some r → r.op = 2 → r.abandoned = false → r.step ≠ finStep → stepAt s r.sched r.pass r.step = some (x, q, st, y) →
    st.kind = kNOTE → y.waits = 1 →
    exec (.memFack port tag) s = .next (unloadTry (workSched
      (fireNote (modStep (freeTag s port tag) r.sched r.pass r.step fun z => { z with waits := z.waits - 1 }) r.sched r.pass r.step) r.sched))) ∧
  (∀ (port tag : Nat) (r : MemReq) (s : State), port < 16 → tag < 256 → tagOf s port tag = some r → r.abandoned = false → r.step = finStep →
    (r.op = 1 → exec (.memWack port tag false) s = .next (unloadTry (finResponse (freeTag s port tag) r.sched r.pass))) ∧
    (r.op = 2 → exec (.memFack port tag) s = .next (unloadTry (finResponse (freeTag s port tag) r.sched r.pass))))

/-- R216, R237 to R241, R248, R265, R282: a batch of notices is added to the pending count of every step that names its object, at most 255; a
step whose conditions hold starts, consuming one count, and step 0 fixes S; one whose SCALEPASS is gone ends the pass with W_ABORT; a pass that
has waited 100 us ages; a finished step completes, the last of an EARLY pass at its commit; a finished pass whose turn it is ends. -/
def Obligations.TriggersStepsAndPasses : Prop :=
  (∀ (soid k n i : Nat) (lost : Bool) (rest : List (Nat × Nat × Bool)) (x : Sched) (st : Step) (s : State),
    s.sync.trig = (soid, k, lost) :: rest → tabWf none s.mrv.scheds = true → s.sched n = some x → x.steps[i]? = some st → st.tv = true →
    st.trig = soid → takesNotice s x i = true → i < x.pend.length →
    ∃ t y, exec .triggerNotice s = .next t ∧ t.sync = { s.sync with trig := rest } ∧ t.sched n = some y ∧
      y.pend[i]? = some (min 255 (x.pend.getD i 0 + k)) ∧
      (255 < x.pend.getD i 0 + k → ∃ e ∈ t.flt.synd, e.code = .trigOvf ∧ e.gid = some x.hdr.gid)) ∧
  (∀ (soid k : Nat) (lost : Bool) (rest : List (Nat × Nat × Bool)) (s : State), s.sync.trig = (soid, k, lost) :: rest →
    ∃ t, exec .triggerNotice s = .next t ∧ t.sync = { s.sync with trig := rest } ∧ (lost = true → ∃ e ∈ t.flt.synd, e.code = .trigLost)) ∧
  (∀ (n p i : Nat) (x : Sched) (q : Pass) (st : Step) (y : StepRun) (s : State), n < 512 → 0 < i → i < 128 → s.stopped = false →
    canStart s n p i = true → stepAt s n p i = some (x, q, st, y) →
    exec (.stepStart n p i) s = .next (workSched
      (modStep (if st.tv then s.modSched n fun z => { z with pend := z.pend.modify i (· - 1) } else s) n p i fun r => { r with started := true }) n)) ∧
  (∀ (n p : Nat) (x : Sched) (q : Pass) (st : Step) (y : StepRun) (s : State), n < 512 → s.stopped = false →
    canStart s n p 0 = true → stepAt s n p 0 = some (x, q, st, y) →
    (let u := passColl (modStep (if st.tv then s.modSched n fun z => { z with pend := z.pend.modify 0 (· - 1) } else s) n p 0
       fun r => { r with started := true }) n x q
     (x.hdr.spp = false → exec (.stepStart n p 0) s = .next (workSched u n)) ∧
     (∀ v, x.hdr.spp = true → scaleFor (s.group x.hdr.gid) (passSpcid x p) = some v →
       exec (.stepStart n p 0) s = .next (workSched (modPass u n p fun z => { z with s := some v }) n)) ∧
     (x.hdr.spp = true → scaleFor (s.group x.hdr.gid) (passSpcid x p) = none →
       ∃ t, exec (.stepStart n p 0) s = .next t ∧ (∃ z, t.pass n p = some z ∧ z.res = .abort) ∧
         ∃ e ∈ t.flt.synd, e.code = .scaleStale ∧ e.gid = some x.hdr.gid))) ∧
  (∀ (n p i : Nat) (s : State), n < 512 → i < 128 → (s.stopped = true ∨ canStart s n p i = false) → exec (.stepStart n p i) s = .next s) ∧
  (∀ (n : Nat) (x : Sched) (q : Pass) (s : State), n < 512 → (admitAll s).stopped = false → (admitAll s).sched n = some x →
    (x.passes.find? fun z => canStart (admitAll s) n z.p 0) = some q →
    exec (.passStart n) s = .next (startStep (admitAll s) n q.p 0)) ∧
  (∀ (n : Nat) (x : Sched) (s : State), n < 512 → s.sched n = some x →
    ∃ t y, exec (.reservationAge n) s = .next t ∧ t.sched n = some y ∧
      y.passes = (x.passes.map fun q => { q with aged := q.aged || (!q.reserved && decide (q.since + 100000 ≤ s.tb)) }) ∧
      (∀ m, m ≠ n → t.sched m = s.sched m) ∧ t = { s with mrv := t.mrv }) ∧
  (∀ (n p i : Nat) (x : Sched) (q : Pass) (st : Step) (y : StepRun) (s : State), n < 512 → i < 128 → s.stopped = false →
    stepAt (workSched s n) n p i = some (x, q, st, y) → passLive (workSched s n) x q = true → stepFinished st y = true →
    (isEarly ((workSched s n).group x.hdr.gid) = false ∨ i + 1 ≠ q.desc.length) →
    exec (.stepComplete n p i) s = .next
      (earlyDone (admitAll (workSched (closePass (modStep (workSched s n) n p i fun r => { r with completed := true }) n p) n)) n p)) ∧
  (∀ (n p i : Nat) (x : Sched) (q : Pass) (st : Step) (y : StepRun) (s : State), n < 512 → i < 128 → s.stopped = false →
    stepAt (workSched s n) n p i = some (x, q, st, y) → passLive (workSched s n) x q = true → stepFinished st y = true →
    isEarly ((workSched s n).group x.hdr.gid) = true → i + 1 = q.desc.length → q.committed = false →
    exec (.stepComplete n p i) s = .next (earlyDone (admitAll (workSched (closePass (workSched s n) n p) n)) n p)) ∧
  (∀ (n p : Nat) (x : Sched) (q : Pass) (s : State), n < 512 → s.stopped = false → s.sched n = some x → s.pass n p = some q →
    passOver s x q = true →
    exec (.passEnd n p) s = .next (unloadTry
      (let u := modPass s n p fun z => { z with
         fin := 1, fwait := (passPorts q).length
         res := if ((collOf (s.group x.hdr.gid) q.cid).any fun c => decide (0 < c.poisons)) then .poison else .ok }
       if (passPorts q).isEmpty then recordPass u n p else askFences u n p finStep x.hdr.gid (passPorts q))))

/-- R232, R235, R238, R309, R372, R387: a free powered slice takes the piece that waits to be taken again, else the next of the round-robin;
none starts in block stop or under the power brake; the lowest free slice is asked for when every free one is gated. A mismatch drops the
result, gives the piece to the lowest other free slice, a powered one first, and raises F_SLICE_MISMATCH, and the third within 1 s retires the
slice; a slice idle for 10 us is gated; one that was asked for is powered. -/
def Obligations.SlicesTakePieces : Prop :=
  (∀ (i : Nat) (c : Piece) (s : State), i < 16 → s.stopped = false → s.boot.brake = false → freeSlice s i = true → (s.sliceOf i).powered = true →
    redoPiece s i = none → (robin s).findSome? (schedPiece s) = some c →
    ∃ t, exec (.pieceTake i) s = .next t ∧ t.sliceOf i = { s.sliceOf i with piece := some c, lastTake := s.tb } ∧ t.mrv.rr = c.sched + 1 ∧
      (∀ k, k ≠ i → t.sliceOf k = s.sliceOf k) ∧ t = { s with mrv := t.mrv }) ∧
  (∀ (i : Nat) (c : Piece) (k : Nat) (r : List (Piece × Nat)) (s : State), i < 16 → s.stopped = false → s.boot.brake = false →
    freeSlice s i = true → (s.sliceOf i).powered = true → redoPiece s i = some ((c, k), r) →
    ∃ t, exec (.pieceTake i) s = .next t ∧ t.sliceOf i = { s.sliceOf i with piece := some c, lastTake := s.tb } ∧ t.mrv.redo = r ∧
      (∀ k, k ≠ i → t.sliceOf k = s.sliceOf k) ∧ t = { s with mrv := t.mrv }) ∧
  (∀ (i : Nat) (s : State), i < 16 → s.stopped = false → s.boot.brake = false → freeSlice s i = true →
    (∀ k < 16, freeSlice s k = true → (s.sliceOf k).powered = false ∧ i ≤ k) → pieceWaits s i = true →
    ∃ t, exec (.pieceTake i) s = .next t ∧ t.sliceOf i = { s.sliceOf i with asked := true } ∧ (∀ k, k ≠ i → t.sliceOf k = s.sliceOf k) ∧
      t = { s with mrv := t.mrv }) ∧
  (∀ (i : Nat) (s : State), i < 16 → (s.stopped = true ∨ s.boot.brake = true ∨ freeSlice s i = false) → exec (.pieceTake i) s = .next s) ∧
  (∀ (i : Nat) (c : Piece) (x : Sched) (q : Pass) (st : Step) (y : StepRun) (s : State), i < 16 → (s.sliceOf i).piece = some c →
    stepAt s c.sched c.pass c.step = some (x, q, st, y) →
    exec (.pieceDone i false) s = .next
      (let s1 := s.modSlice i fun z => { z with piece := none }
       let r := pieceResult s1 x q c.step st c.chunk c.pos c.len
       workSched (endComb (modStep s1 c.sched c.pass c.step fun z => { z with pieces := z.pieces ++ [(c.chunk, c.pos, r.1, r.2)] })
         c.sched c.pass c.step c.chunk) c.sched)) ∧
  (∀ (i : Nat) (c : Piece) (s : State), i < 16 → (s.sliceOf i).piece = some c →
    ∃ t, exec (.pieceDone i true) s = .next t ∧ (t.sliceOf i).piece = none ∧ (∃ e ∈ t.flt.synd, e.code = .sliceMismatch ∧ e.sidx = i) ∧
      (t.sliceOf i).retired = ((s.sliceOf i).retired || decide (2 ≤ ((s.sliceOf i).mism.filter fun z => decide (s.tb < z + 1000000000)).length)) ∧
      (let ks := (List.range 16).filter fun k => k != i && freeSlice s k
       match ks.find? fun k => (s.sliceOf k).powered with
       | some k => (t.sliceOf k).piece = some c ∧ t.mrv.redo = s.mrv.redo
       | none => t.mrv.redo = s.mrv.redo ++ [(c, i)] ∧ ∀ k, ks.head? = some k → (t.sliceOf k).asked = true) ∧
      t.grp = s.grp ∧ t.ports = s.ports ∧ t.sync = s.sync) ∧
  (∀ (i : Nat) (s : State), i < 16 → freeSlice s i = true → (s.sliceOf i).lastTake + 10000 ≤ s.tb →
    ∃ t, exec (.sliceGateTimer i) s = .next t ∧ t.sliceOf i = { s.sliceOf i with powered := false } ∧
      (∀ k, k ≠ i → t.sliceOf k = s.sliceOf k) ∧ t.mrv.scheds = s.mrv.scheds ∧ t = { s with mrv := t.mrv }) ∧
  (∀ (i : Nat) (s : State), i < 16 → (freeSlice s i = false ∨ s.tb < (s.sliceOf i).lastTake + 10000) → exec (.sliceGateTimer i) s = .next s) ∧
  (∀ (i : Nat) (s : State), i < 16 → (s.sliceOf i).asked = true →
    ∃ t, exec (.slicePowered i) s = .next t ∧ (t.sliceOf i).powered = true ∧ (t.sliceOf i).asked = false ∧
      (∀ k, k ≠ i → t.sliceOf k = s.sliceOf k) ∧ t = { s with mrv := t.mrv })

/-- R223, R224, R279, R377: a port that comes up gives the router 64 credits of each class; one that goes down loses its link sequence state, what
it retained and what it had received, and raises F_LINK_DOWN where there was any; router credits are added to the sender's; a HEAD begins a
packet and a DATA flit adds to it, and the pieces of one in EARLY delivery are delivered. -/
def Obligations.LinkPortsUpAndDown : Prop :=
  (∀ (p : Nat) (s : State), p < 6 → (s.lport p).up = false → (s.lport p).rst = false →
    ∃ t, exec (.linkUp p) s = .next t ∧ (t.lport p).up = true ∧ (t.lport p).vcu.ret = 64 ∧ (t.lport p).vcb.ret = 64 ∧
      (∀ q, q ≠ p → t.lport q = s.lport q) ∧ t.flt = s.flt ∧ t.grp = s.grp ∧ t.mrv = s.mrv ∧
      t = pumpPort (s.modLport p fun l => { l with up := true, vcu := { l.vcu with ret := 64 }, vcb := { l.vcb with ret := 64 } }) p) ∧
  (∀ (p : Nat) (s : State), p < 6 → (s.lport p).up = true →
    ∃ t, exec (.linkDown p) s = .next t ∧ (t.lport p).up = false ∧ (t.lport p).vcu.retain = [] ∧ (t.lport p).vcb.retain = [] ∧
      (t.lport p).vcu.parked = [] ∧ (t.lport p).vcb.parked = [] ∧ (t.lport p).vcu.nextRx = 0 ∧ (t.lport p).vcb.nextTx = 0 ∧
      (t.lport p).vcu.wait = (s.lport p).vcu.wait.filter (fun x => x.relay.isNone) ∧ t.grp = s.grp ∧ t.mrv = s.mrv ∧
      ((holdsItems (s.lport p).vcu = true ∨ holdsItems (s.lport p).vcb = true) →
        t.flt.synd = addEvent { mkEv .linkDown 8 p with detail := BitVec.ofNat 16 p } s.flt.synd) ∧
      (holdsItems (s.lport p).vcu = false → holdsItems (s.lport p).vcb = false → t.flt = s.flt)) ∧
  (∀ (p u b : Nat) (s : State), p < 6 → (s.lport p).up = true →
    exec (.routerCredit p u b) s = .next (pumpPort (s.modLport p fun l =>
      { l with vcu := { l.vcu with crd := l.vcu.crd + u }, vcb := { l.vcb with crd := l.vcb.crd + b } }) p)) ∧
  (∀ (p : Nat) (vcb : Bool) (flit : BitVec 512) (s : State), p < 6 → (s.lport p).up = true →
    ∃ t, exec (.flitLands p vcb true flit) s = .next t ∧
      (t.lport p).cls vcb = { (s.lport p).cls vcb with ret := ((s.lport p).cls vcb).ret + 1, hd := some flit, buf := [], early := [] } ∧
      (t.lport p).cls (!vcb) = (s.lport p).cls (!vcb) ∧ (∀ q, q ≠ p → t.lport q = s.lport q) ∧ t = { s with lps := t.lps }) ∧
  (∀ (p : Nat) (vcb : Bool) (h flit : BitVec 512) (s : State), p < 6 → (s.lport p).up = true → ((s.lport p).cls vcb).hd = some h →
    exec (.flitLands p vcb false flit) s = .next
      (let t := modCls s p vcb fun c => { c with ret := c.ret + 1, buf := c.buf ++ flitBytes flit }
       if vcb && (hLpsn h == ((s.lport p).cls vcb).nextRx && (!((s.lport p).cls vcb).nakWait || hRply h)) then earlyLand t p else t))

/-- R194, R227 to R231, R276, R284: the packet whose CRCs match and whose number is the one expected is acknowledged and taken in; one for this
chip of a running group waits for its RECV, one of the other delivery mode raises F_POST_MISMATCH, one of no group of this chip raises F_XTAG,
one of another shape raises F_XFRAME, one that has used up its hops raises F_XROUTE; a failed check raises F_CHUNK_CRC and asks for a resend,
and poisons what was delivered early. A CTRL flit is kept, or raises F_CTRL_CRC; one after a gap is asked for again. -/
def Obligations.PacketsAndControlFlitsAreJudged : Prop :=
  (∀ (p : Nat) (vcb : Bool) (h tail : BitVec 512) (s : State), p < 6 → (s.lport p).up = true → ((s.lport p).cls vcb).hd = some h →
    crcOk h tail ((s.lport p).cls vcb).buf = true → hLpsn h = ((s.lport p).cls vcb).nextRx →
    (((s.lport p).cls vcb).nakWait = false ∨ hRply h = true) →
    exec (.packetVerdict p vcb tail) s = .next
      (let c := (s.lport p).cls vcb
       let units := itemUnits vcb (.pkt ⟨h, c.buf, tail⟩)
       let s1 := modCls s p vcb fun y => { y with ret := y.ret + 1, hd := none, buf := [], early := [], rxUsed := y.rxUsed + units }
       packetIn (sendAck (modCls s1 p vcb fun y => { y with nextRx := hLpsn h + 1, nakWait := false }) p vcb (hLpsn h)) p vcb h tail c.buf units c.early)) ∧
  (∀ (p g units : Nat) (vcb : Bool) (h tail : BitVec 512) (data : List Byte) (early : List (Nat × Nat × Nat × Nat)) (s : State),
    shapeOk h tail data = true → hDst h = s.self → tagCheck s (hTag h) (hSrc h) = some g → isDelivery vcb h = false → packetWanted s g h = true →
    (vcb = true → hDmode h = (s.group g).dmode) →
    packetIn s p vcb h tail data units early =
      workGroup (earlyPassed (modCls s p vcb fun c => { c with parked := c.parked ++ [(⟨h, data.take (payBytes h), tail⟩, s.tb, units)] })
        early (hCseq h).toNat (BitVec.ofNat 64 (fld tail 0 64))) g) ∧
  (∀ (p g units : Nat) (h tail : BitVec 512) (data : List Byte) (early : List (Nat × Nat × Nat × Nat)) (s : State),
    shapeOk h tail data = true → hDst h = s.self → tagCheck s (hTag h) (hSrc h) = some g → packetWanted s g h = true →
    hDmode h ≠ (s.group g).dmode →
    (let t := packetIn s p true h tail data units early
     (t.lport p).vcb.parked = (s.lport p).vcb.parked ∧ t.mrv = s.mrv ∧ t.grp = s.grp ∧
     ∃ e ∈ t.flt.synd, e.code = .postMismatch ∧ e.gid = some g)) ∧
  (∀ (p units : Nat) (vcb : Bool) (h tail : BitVec 512) (data : List Byte) (early : List (Nat × Nat × Nat × Nat)) (s : State),
    (shapeOk h tail data = true → hDst h = s.self → tagCheck s (hTag h) (hSrc h) = none →
      (packetIn s p vcb h tail data units early).flt.synd = addEvent (xtagEvent s (hTag h) (hSrc h)) s.flt.synd) ∧
    (shapeOk h tail data = true → hDst h ≠ s.self → hHops h ≤ 1 →
      (packetIn s p vcb h tail data units early).flt.synd = addEvent (portEvent .xroute p) s.flt.synd) ∧
    (∀ o, shapeOk h tail data = true → hDst h ≠ s.self → 1 < hHops h → s.routePort (hDst h) vcb (hCseq h).toNat = some o →
      packetIn s p vcb h tail data units early = queueItem s o vcb
        { item := .pkt (reHead ⟨h, data.take (payBytes h), tail⟩ (setFld h 187 6 (hHops h - 1))), tid := 64, relay := some (p, units) }) ∧
    (∀ g, shapeOk h tail data = false → findTag s (hTag h) = some g →
      ∃ e ∈ (packetIn s p vcb h tail data units early).flt.synd, e.code = .xframe ∧ e.sidx = p ∧ e.gid = some g ∧ e.cls = 2)) ∧
  (∀ (p : Nat) (vcb : Bool) (h tail : BitVec 512) (s : State), p < 6 → (s.lport p).up = true → ((s.lport p).cls vcb).hd = some h →
    crcOk h tail ((s.lport p).cls vcb).buf = false → ((s.lport p).cls vcb).early = [] →
    ∃ t, exec (.packetVerdict p vcb tail) s = .next t ∧
      t.flt.synd = addEvent { portEvent .chunkCrc p with cseq := BitVec.ofNat 32 (hLpsn h).toNat } s.flt.synd ∧
      ((t.lport p).cls vcb).nakWait = true ∧ ((t.lport p).cls vcb).nextRx = ((s.lport p).cls vcb).nextRx ∧ ((t.lport p).cls vcb).hd = none ∧
      ((t.lport p).cls vcb).parked = ((s.lport p).cls vcb).parked ∧ t.mrv = s.mrv ∧ t.grp = s.grp) ∧
  (∀ (p g : Nat) (h tail : BitVec 512) (s : State), p < 6 → (s.lport p).up = true → (s.lport p).vcb.hd = some h →
    crcOk h tail (s.lport p).vcb.buf = false → (s.lport p).vcb.early ≠ [] → findTag s (hTag h) = some g → packetWanted s g h = true →
    ∃ t, exec (.packetVerdict p true tail) s = .next t ∧ (t.group g).epoch = (s.group g).epoch + 1 ∧
      (∃ e ∈ t.flt.synd, e.code = .poison ∧ e.gid = some g) ∧ ∃ r, (t.group g).plog.head? = some r ∧ r.det = true ∧ r.cid = hCid h) ∧
  (∀ (p : Nat) (vcb : Bool) (f : BitVec 512) (s : State), p < 6 → (s.lport p).up = true → fld f 480 32 = (ctrlCrc f).toNat →
    cKind f ∈ [ckToken, ckSoOp, ckSoRefuse, ckHandshake, ckPoison, ckAbort] → (cKind f = ckToken ∨ cDst f = s.self) →
    (tagCheck s (cTag f) (cSrc f)).isSome = true → cLpsn f = ((s.lport p).cls vcb).nextRx →
    ∃ t, exec (.ctrlFlitReceive p vcb f) s = .next t ∧ (t.lport p).inbox = (s.lport p).inbox ++ [f] ∧
      ((t.lport p).cls vcb).nextRx = cLpsn f + 1 ∧ ((t.lport p).cls vcb).nakWait = false ∧ t.flt = s.flt ∧ t.grp = s.grp ∧ t.mrv = s.mrv) ∧
  (∀ (p : Nat) (vcb : Bool) (f : BitVec 512) (s : State), p < 6 → (s.lport p).up = true → fld f 480 32 = (ctrlCrc f).toNat →
    cKind f ∈ [ckAck, ckNak, ckCredit] →
    ∃ t, exec (.ctrlFlitReceive p vcb f) s = .next t ∧ (t.lport p).inbox = (s.lport p).inbox ++ [f] ∧
      ((t.lport p).cls vcb).nextRx = ((s.lport p).cls vcb).nextRx ∧ t = { s with lps := t.lps }) ∧
  (∀ (p : Nat) (vcb : Bool) (f : BitVec 512) (s : State), p < 6 → (s.lport p).up = true → fld f 480 32 = (ctrlCrc f).toNat →
    cKind f ∈ [ckToken, ckSoOp, ckSoRefuse, ckHandshake, ckPoison, ckAbort] → ((s.lport p).cls vcb).nakWait = false →
    32768 < (((s.lport p).cls vcb).nextRx - cLpsn f).toNat →
    ∃ t, exec (.ctrlFlitReceive p vcb f) s = .next t ∧ (t.lport p).inbox = (s.lport p).inbox ∧ ((t.lport p).cls vcb).nakWait = true ∧
      ((t.lport p).cls vcb).nextRx = ((s.lport p).cls vcb).nextRx ∧ t.flt = s.flt ∧ t.grp = s.grp ∧ t.mrv = s.mrv) ∧
  (∀ (p : Nat) (vcb : Bool) (f : BitVec 512) (s : State), p < 6 → (s.lport p).up = true → fld f 480 32 ≠ (ctrlCrc f).toNat →
    ∃ t, exec (.ctrlFlitReceive p vcb f) s = .next t ∧ t.flt.synd = addEvent (portEvent .ctrlCrc p) s.flt.synd ∧
      (t.lport p).inbox = (s.lport p).inbox ∧ (vcb = false → (t.lport p).vcu.nakWait = true) ∧
      (∀ q, q ≠ p → t.lport q = s.lport q) ∧ t.grp = s.grp ∧ t.mrv = s.mrv)

/-- R228, R230: an ACK frees every item up to its number; a NAK, or 10 us without an ACK, sends again from the item named; a CREDIT
returns the receiver's units; while receive units are in use a CREDIT is owed every 10 us. -/
def Obligations.AcknowledgementsAndCredits : Prop :=
  (∀ (p : Nat) (f : BitVec 512) (u s : State), p < 6 → takeCtrl s p ckAck = some (f, u) →
    exec (.ack p) s = .next
      (let vcb := bit f 128
       let done := ((u.lport p).cls vcb).retain.filter (covered (cLpsn f))
       pumpPort (done.foldl (itemAcked vcb) (modCls u p vcb fun c => { c with
         retain := c.retain.filter (fun x => !covered (cLpsn f) x)
         again := c.again.filter fun k => !done.any fun x => x.lpsn == some k })) p)) ∧
  (∀ (p : Nat) (f : BitVec 512) (u s : State), p < 6 → takeCtrl s p ckNak = some (f, u) →
    exec (.nak p) s = .next (pumpPort (modCls u p (bit f 128) fun c => { c with again := retainedFrom c (cLpsn f) }) p)) ∧
  (∀ (p : Nat) (f : BitVec 512) (u s : State), p < 6 → takeCtrl s p ckCredit = some (f, u) →
    exec (.credit p) s = .next (pumpPort (modCls u p (bit f 128) fun c =>
      { c with txUsed := c.txUsed - (BitVec.ofNat 16 (fld f 129 16) - c.txCred).toNat, txCred := BitVec.ofNat 16 (fld f 129 16) }) p)) ∧
  (∀ (p : Nat) (vcb : Bool) (x : TxItem) (k : BitVec 16) (a r : List TxItem) (s : State), p < 6 → ((s.lport p).cls vcb).retain = a ++ x :: r →
    (∀ y ∈ a, s.tb < y.tsent + 10000) →
    x.lpsn = some k → ((s.lport p).cls vcb).curN ≠ some k → ((s.lport p).cls vcb).again.contains k = false → x.tsent + 10000 ≤ s.tb →
    exec (.resendTimeout p vcb) s = .next (pumpPort (modCls s p vcb fun c => { c with again := retainedFrom c k }) p)) ∧
  (∀ (p : Nat) (vcb : Bool) (s : State), p < 6 → (∀ x ∈ ((s.lport p).cls vcb).retain, s.tb < x.tsent + 10000) →
    exec (.resendTimeout p vcb) s = .next s) ∧
  (∀ (p : Nat) (vcb : Bool) (s : State), p < 6 → 0 < ((s.lport p).cls vcb).rxUsed → ((s.lport p).cls vcb).credAt + 10000 ≤ s.tb →
    exec (.creditOwedPeriod p vcb) s = .next
      (queueImm (modCls s p vcb fun c => { c with credAt := s.tb }) p vcb
        (nearFlit s p ckCredit vcb [(129, 16, ((s.lport p).cls vcb).units.toNat)]))) ∧
  (∀ (p : Nat) (vcb : Bool) (s : State), p < 6 → (((s.lport p).cls vcb).rxUsed = 0 ∨ s.tb < ((s.lport p).cls vcb).credAt + 10000) →
    exec (.creditOwedPeriod p vcb) s = .next s)

/-- R281, R282, R285 to R287, R290, R293: DONE is recorded with member 0; COMMIT commits the pass; a POISON of the current epoch moves the
group to the next one and is logged, one already applied is only logged; a die without up frames of the group takes the new epoch, and
BUMPED from every member brings GO, which ends the hold; GO that is late raises F_POISON_STUCK. -/
def Obligations.EarlyDelivery : Prop :=
  (∀ (p g : Nat) (k : Packet) (u s : State), p < 6 → s.stopped = false → takeDelivery s p dkDone = some (k, u) → deliveryGroup u k = some g →
    exec (.done p) s = .next (commitTry (u.modGroup g fun e => { e with dones := e.dones ++ [(hCid k.head, hSrc k.head)] }) g)) ∧
  (∀ (p g n : Nat) (q : Pass) (k : Packet) (u s : State), p < 6 → s.stopped = false → takeDelivery s p dkCommit = some (k, u) →
    deliveryGroup u k = some g → passOf u g (hCid k.head) = some (n, q) → q.committed = false → q.doneSent = true →
    exec (.commit p) s = .next
      (let v := modPass u n q.p fun y => { y with committed := true, steps := y.steps.modify (q.desc.length - 1) fun r => { r with completed := true } }
       let cells := match collOf (u.group g) (hCid k.head) with | some c => (c.cellsAt ++ c.cellsTo).eraseDups | none => []
       let w := modColl { v with mrv := { v.mrv with commits := v.mrv.commits ++ cells.map fun c => (c, g, hCid k.head) } } g (hCid k.head)
         fun c => { c with early := false }
       passEnd (closePass w n q.p) n q.p)) ∧
  (∀ (p g : Nat) (f : BitVec 512) (u s : State), p < 6 → s.stopped = false → takeCtrl s p ckPoison = some (f, u) → findTag u (cTag f) = some g →
    abortable (s.group g) = true → (s.group g).epoch.toNat = fld f 128 16 → ncore (s.group g) ≠ 0 →
    ∃ t, exec (.poison p) s = .next t ∧ (∀ h, h ≠ g → t.group h = s.group h) ∧
      t.group g = { s.group g with
        epoch := (s.group g).epoch + 1, dones := [], pwork := some { since := s.tb, epoch := (s.group g).epoch + 1 }
        colls := (s.group g).colls.map fun c => { c with
          epoch := (s.group g).epoch + 1, poisons := if c.cid == BitVec.ofNat 32 (fld f 144 32) then c.poisons + 1 else c.poisons
          named := (c.named.filter (stillNamed u g c.cid)).eraseDups }
        plog := (poisonRec s (BitVec.ofNat 32 (fld f 144 32)) (BitVec.ofNat 32 (fld f 176 32)) (s.group g).epoch false [] :: (s.group g).plog).take 8 }) ∧
  (∀ (p g : Nat) (f : BitVec 512) (u s : State), p < 6 → s.stopped = false → takeCtrl s p ckPoison = some (f, u) → findTag u (cTag f) = some g →
    abortable (s.group g) = true → (s.group g).epoch.toNat = fld f 128 16 → ncore (s.group g) = 0 →
    ∃ t, exec (.poison p) s = .next t ∧ (t.group g).epoch = (s.group g).epoch + 1 ∧ (t.group g).dones = [] ∧
      (t.group g).plog = (poisonRec s (BitVec.ofNat 32 (fld f 144 32)) (BitVec.ofNat 32 (fld f 176 32)) (s.group g).epoch false [] :: (s.group g).plog).take 8) ∧
  (∀ (p g : Nat) (f : BitVec 512) (u s : State), p < 6 → s.stopped = false → takeCtrl s p ckPoison = some (f, u) → findTag u (cTag f) = some g →
    abortable (s.group g) = true → (s.group g).epoch = BitVec.ofNat 16 (fld f 128 16) + 1 →
    ∃ t, exec (.poison p) s = .next t ∧ (t.group g).epoch = (s.group g).epoch ∧ (t.group g).pwork = (s.group g).pwork ∧
      (t.group g).plog.length = min 8 ((s.group g).plog.length + 1) ∧ t.mrv = s.mrv) ∧
  (∀ (g : Nat) (w : PoisonWork) (s : State), g < 4096 → s.stopped = false → (s.group g).pwork = some w → w.quiesced = false →
    dieHoldsUp s g = false → member0 (s.group g) ≠ s.self → tabWf none s.fab.masks = true →
    ∃ t, exec (.poisonDieQuiesce g) s = .next t ∧ t.group g = { s.group g with pwork := some { w with quiesced := true } } ∧
      (∀ n, t.maskOf n g = (s.maskOf n g).map fun m => { m with epoch := w.epoch }) ∧ (∀ h, h ≠ g → t.group h = s.group h) ∧ t.mrv = s.mrv) ∧
  (∀ (p g : Nat) (w : PoisonWork) (k : Packet) (u s : State), p < 6 → s.stopped = false → takeDelivery s p dkBumped = some (k, u) →
    deliveryGroup u k = some g → (s.group g).pwork = some w →
    (w.quiesced = false ∨ ∃ c ∈ (s.group g).chips, c ≠ s.self ∧ c ≠ hSrc k.head ∧ c ∉ w.got) →
    ∃ t, exec (.bumped p) s = .next t ∧ t.group g = { s.group g with pwork := some { w with got := (hSrc k.head :: w.got).eraseDups } } ∧
      t.mrv = s.mrv ∧ t.fab = s.fab) ∧
  (∀ (p g : Nat) (w : PoisonWork) (k : Packet) (u s : State), p < 6 → s.stopped = false → takeDelivery s p dkBumped = some (k, u) →
    deliveryGroup u k = some g → (s.group g).pwork = some w → w.quiesced = true → member0 (s.group g) = s.self →
    (∀ c ∈ (s.group g).chips, c = s.self ∨ c = hSrc k.head ∨ c ∈ w.got) →
    (let v := u.modGroup g fun e => { e with pwork := some { w with got := (hSrc k.head :: w.got).eraseDups } }
     exec (.bumped p) s = .next
       (poisonGo (((s.group g).chips.filter (· != s.self)).foldl (fun t c => sendDelivery t g c dkGo 0 w.epoch.toNat) v) g))) ∧
  (∀ (p g : Nat) (w : PoisonWork) (k : Packet) (u s : State), p < 6 → s.stopped = false → takeDelivery s p dkGo = some (k, u) →
    deliveryGroup u k = some g → (s.group g).pwork = some w → w.epoch.toNat = leAt k.data 4 2 → exec (.go p) s = .next (poisonGo u g)) ∧
  (∀ (p g : Nat) (w : PoisonWork) (k : Packet) (u s : State), p < 6 → s.stopped = false → takeDelivery s p dkGo = some (k, u) →
    deliveryGroup u k = some g → (s.group g).pwork = some w → w.epoch.toNat = leAt k.data 4 2 → idleMarver s → (s.group g).colls = [] →
    ∃ t, exec (.go p) s = .next t ∧ t.group g = { s.group g with pwork := none } ∧ t.fab = s.fab ∧ t.ports = s.ports) ∧
  (∀ (g : Nat) (w : PoisonWork) (s : State), g < 4096 → (s.group g).pwork = some w → w.since + 8 * (s.group g).stall * 1024 ≤ s.tb →
    exec (.poisonStuck g) s = .next (raise s ((mkEv .poisonStuck 6 16).onGroup s g))) ∧
  (∀ (g : Nat) (w : PoisonWork) (s : State), g < 4096 → (s.group g).pwork = some w → s.tb < w.since + 8 * (s.group g).stall * 1024 →
    exec (.poisonStuck g) s = .next s)

/-! ## Faults and their handling (11) -/

/-- R297 to R299, R301 to R303, R309, R315, R319: the events that no polled source holds are taken in the order of R302; one that merges into no entry
becomes the newest entry of Cullet, of class 3 or 4 it begins the freeze count, and a frozen ring counts it as dropped; C2 sets the pending bit,
C3 stops the block, C4 latches it and drives the fatal pair. A wire fault starts polling, and a poll reads the register. -/
def Obligations.FaultsAreReported : Prop :=
  (∀ s : State, exec .faultReport s = .next ((sortEvents (s.flt.synd.filter fun e => !isPolled s e)).foldl report
    { s with flt := { s.flt with synd := s.flt.synd.filter fun e => isPolled s e } })) ∧
  (∀ (e : Event) (s : State), s.flt.synd = [e] → isPolled s e = false → e.cls ≤ 1 → s.flt.frozen = false → s.flt.fcount = none →
    (∀ x r, s.flt.ring = x :: r → mergesInto s e x = false) →
    ∃ t, exec .faultReport s = .next t ∧ t.grp = s.grp ∧ t.boot = s.boot ∧ t.ports = s.ports ∧
      t.flt = { s.flt with synd := [], ring := ({ ev := e, tb := s.tb, wseq := s.flt.wseq + 1 } :: s.flt.ring).take 64
                           wseq := s.flt.wseq + 1, total := satAdd 0xFFFFFFFF s.flt.total (1 + e.rep) }) ∧
  (∀ (e : Event) (s : State), s.flt.synd = [e] → isPolled s e = false → e.cls ≤ 1 → s.flt.frozen = true →
    ∃ t, exec .faultReport s = .next t ∧ t.flt.ring = s.flt.ring ∧ t.flt.drop = satAdd 0xFFFF s.flt.drop (1 + e.rep) ∧ t.flt.synd = [] ∧
      t.host = s.host ∧ t.grp = s.grp) ∧
  (∀ (e : Event) (s : State), s.flt.synd = [e] → isPolled s e = false → s.flt.frozen = false → 3 ≤ e.cls → s.flt.fcount = none →
    ∃ t, exec .faultReport s = .next t ∧ t.flt.fcount = some 16 ∧ t.flt.frozen = false) ∧
  (∀ (e : Event) (k : Nat) (s : State), s.flt.synd = [e] → isPolled s e = false → s.flt.frozen = false → s.flt.fcount = some k →
    (∀ x r, s.flt.ring = x :: r → mergesInto s e x = false) →
    ∃ t, exec .faultReport s = .next t ∧ t.flt.fcount = some (k - 1) ∧ t.flt.frozen = decide (k ≤ 1)) ∧
  (∀ (e : Event) (s : State), s.flt.synd = [e] → isPolled s e = false →
    ∃ t, exec .faultReport s = .next t ∧ (e.cls = 2 → t.flt.c2pend = true) ∧ (e.cls = 3 → t.flt.bstop = true) ∧
      (4 ≤ e.cls → t.flt.bstop = true ∧ t.flt.c4 = true ∧ t.flt.fatal = true) ∧ (2 ≤ e.cls → t.flt.lastf = BitVec.ofNat 16 e.code.num)) ∧
  (∀ (k i : Nat) (s : State), (k, i) ∉ s.flt.polled →
    exec (.errWireFault k i) s = .next (report { s with flt := { s.flt with polled := s.flt.polled ++ [(k, i)] } } (mkEv .wire k i))) ∧
  (∀ (k i : Nat) (s : State), (k, i) ∈ s.flt.polled → exec (.errWireFault k i) s = .next s ∧
    exec (.syndromePoll k i) s = .next (reportWhere s fun e => e.skind == k && e.sidx == i)) ∧
  (∀ (k i : Nat) (s : State), (k, i) ∉ s.flt.polled → exec (.syndromePoll k i) s = .next s)

/-- R312, R315, R317: a collector node's disagreement raises F_COLLECT_LOCKSTEP, the third within 1 ms F_COLLECTOR too, as does a spine collector that
has not written for 64 cycles; an expired C2 timer stops the block and raises F_ESCALATED; an expired C3 timer drives the fatal pair and raises F_FATAL_OUT.
R305, R307: ABORT of the current epoch takes an ENABLED or DRAINING group to ABORTED with clean-up in progress and raises F_PEER_ABORT, any other is
discarded; the end of the clean-up raises the epoch by one and leaves the group DISABLED, with no C2 timer of its own. -/
def Obligations.EscalationAndAborts : Prop :=
  (∀ (n : Nat) (b : Bool) (s : State), n < 75 → (n ≠ 0 ∨ b = false) →
    ∃ t, exec (.collectorMismatch n b) s = .next t ∧ tabGet [] t.flt.colMis n = colRecent s n ∧
      t.flt.synd = (let l := addEvent (mkEv .collectLockstep 11 n) s.flt.synd
                    if 3 ≤ (colRecent s n).length then addEvent (mkEv .collector 11 n) l else l) ∧
      t.grp = s.grp ∧ t.flt.ring = s.flt.ring) ∧
  (∀ s : State, exec (.collectorMismatch 0 true) s = .next (raise s (mkEv .collector 11 0))) ∧
  (∀ (i : Nat) (x : C2Timer) (s : State), (s.flt.timers.find? fun y => timerOf i y && decide (y.start + 1000 * y.tesc ≤ s.tb)) = some x →
    ∃ t, exec (.escTimerC2 i) s = .next t ∧ t.flt.bstop = true ∧ (∃ e ∈ t.flt.synd, e.code = .escalated ∧ e.cls = 3) ∧
      (s.flt.bstop = false → t.boot.level = .dark ∧ t.flt.timers = [])) ∧
  (∀ (i : Nat) (s : State), (∀ y ∈ s.flt.timers, timerOf i y = true → s.tb < y.start + 1000 * y.tesc) → exec (.escTimerC2 i) s = .next s) ∧
  (∀ (a b : Nat) (s : State), s.flt.c3timer = some (a, b) → a + 1000 * b ≤ s.tb →
    ∃ t, exec .escTimerC3 s = .next t ∧
      t.flt = { s.flt with fatal := true, c3timer := none, synd := addEvent (mkEv .fatalOut 10 0) s.flt.synd } ∧ t = { s with flt := t.flt }) ∧
  (∀ s : State, (∀ a b, s.flt.c3timer = some (a, b) → s.tb < a + 1000 * b) → exec .escTimerC3 s = .next s) ∧
  (∀ (p g : Nat) (f : BitVec 512) (u s : State), p < 6 → takeCtrl s p ckAbort = some (f, u) → findTag s (cTag f) = some g →
    (s.group g).epoch.toNat = fld f 128 16 → abortable (s.group g) = true →
    ∃ t, exec (.abort p) s = .next t ∧ (t.group g).st = .aborted ∧ (t.group g).cleanup = true ∧ (t.group g).epoch = (s.group g).epoch ∧
      (∃ e ∈ t.flt.synd, e.code = .peerAbort ∧ e.gid = some g ∧ e.sidx = cSrc f)) ∧
  (∀ (p g : Nat) (f : BitVec 512) (u s : State), p < 6 → takeCtrl s p ckAbort = some (f, u) → findTag s (cTag f) = some g →
    ((s.group g).epoch.toNat ≠ fld f 128 16 ∨ abortable (s.group g) = false) → exec (.abort p) s = .next u ∧ u.grp = s.grp) ∧
  (∀ (p : Nat) (s : State), p < 6 → takeCtrl s p ckAbort = none → exec (.abort p) s = .next s) ∧
  (∀ (g : Nat) (s : State), g < 4096 → s.flt.bstop = false → (s.group g).st = .aborted → cleanupOver s g = true →
    ∃ t, exec (.abortCleanupEnd g) s = .next t ∧ (t.group g).st = .disabled ∧ (t.group g).cleanup = false ∧
      (t.group g).epoch = (s.group g).epoch + 1 ∧ (∀ h, h ≠ g → t.group h = s.group h) ∧ (∀ x ∈ t.flt.timers, x.gid ≠ some g)) ∧
  (∀ (g : Nat) (s : State), g < 4096 → (s.flt.bstop = true ∨ (s.group g).st ≠ .aborted ∨ cleanupOver s g = false) →
    exec (.abortCleanupEnd g) s = .next s)

/-- R310, R311, R313, R314, Table 11-5: a single-bit error raises F_ECC_CE alone; an uncorrectable word raises the event that Table 11-5 gives its array,
on the group or the tenant whose entry it is; a scrub changes nothing; a count outside 1,463 +- 16 raises F_TIMEBASE; a mismatch of Gaffer restarts
it, and what was being committed runs again. The number that DETAIL gives an array is a free value (log entry 61). -/
def Obligations.ErrorsInArraysAndRestart : Prop :=
  (∀ (site : EccSite) (s : State), (Instr.eccError site true).ok = true → s.boot.rst = none →
    exec (.eccError site true) s = .next (raise s (eccEv .eccCe site (arrayNo site)))) ∧
  (∀ (site : EccSite) (one : Bool) (s : State), (Instr.eccError site one).ok = true → s.boot.rst ≠ none → exec (.eccError site one) s = .next s) ∧
  (∀ (n : NodeId) (ch : Nat) (ctx down : Bool) (s : State), n.ok = true → ch < 16 → s.boot.rst = none →
    ∃ t, exec (.eccError (.stage n ch ctx down) false) s = .next t ∧
      ∃ e ∈ t.flt.synd, (e.code = .eccUeData ∨ e.code = .eccUeGroup) ∧ e.skind = n.skind ∧ e.sidx = n.idx) ∧
  (∀ (n p u : Nat) (s : State), n < 512 → s.boot.rst = none →
    ∃ t, exec (.eccError (.pool n p u) false) s = .next t ∧
      ∃ e ∈ t.flt.synd, (e.code = .eccUeData ∨ e.code = .eccUeGroup) ∧ e.skind = 6 ∧ e.sidx = 17) ∧
  (∀ (p : Nat) (vcb receive : Bool) (s : State), p < 6 → s.boot.rst = none →
    ∃ t, exec (.eccError (.linkItem p vcb receive) false) s = .next t ∧ ∃ e ∈ t.flt.synd, e.code = .eccUeData ∧ e.skind = 8 ∧ e.sidx = p) ∧
  (∀ (g : Nat) (s : State), g < 4096 → s.boot.rst = none → (s.group g).st ≠ .free →
    ∃ t, exec (.eccError (.group g) false) s = .next t ∧ t = { s with flt := { s.flt with synd := t.flt.synd } } ∧
      ∃ e ∈ t.flt.synd, e.code = .eccUeGroup ∧ e.gid = some g ∧ e.cls = 2) ∧
  (∀ (i g : Nat) (s : State), i < 32768 → s.boot.rst = none → (s.obj i).al = true → (s.obj i).gid = some g →
    ∃ t, exec (.eccError (.object i) false) s = .next t ∧ t = { s with flt := { s.flt with synd := t.flt.synd } } ∧
      ∃ e ∈ t.flt.synd, e.code = .eccUeGroup ∧ e.gid = some g) ∧
  (∀ (i : Nat) (s : State), i < 32768 → s.boot.rst = none → (s.obj i).al = true → (s.obj i).gid = none →
    ∃ t, exec (.eccError (.object i) false) s = .next t ∧ t = { s with flt := { s.flt with synd := t.flt.synd } } ∧
      ∃ e ∈ t.flt.synd, e.code = .eccUeTenant ∧ e.tid = some (s.obj i).tid) ∧
  (∀ (cn g : Nat) (s : State), cn < 64 → s.boot.rst = none → (s.cchan cn).bound = some g →
    ∃ t, exec (.eccError (.channel cn) false) s = .next t ∧ t = { s with flt := { s.flt with synd := t.flt.synd } } ∧
      ∃ e ∈ t.flt.synd, e.code = .eccUeGroup ∧ e.gid = some g ∧ e.skind = 9 ∧ e.sidx = cn) ∧
  (∀ (n : Nat) (x : Sched) (s : State), n < 512 → s.boot.rst = none → s.sched n = some x →
    ∃ t, exec (.eccError (.sched n) false) s = .next t ∧ t = { s with flt := { s.flt with synd := t.flt.synd } } ∧
      ∃ e ∈ t.flt.synd, e.code = .eccUeTenant ∧ e.tid = some x.tid) ∧
  (∀ (n : Nat) (s : State), n < 4096 → s.boot.rst = none → (s.slot n).soid ≠ none →
    ∃ t, exec (.eccError (.slot n) false) s = .next t ∧ t = { s with flt := { s.flt with synd := t.flt.synd } } ∧
      ∃ e ∈ t.flt.synd, e.code = .eccUeTenant ∧ e.tid = some (s.slot n).tid) ∧
  (∀ (site : EccSite) (s : State), site.ok = true → s.boot.rst = none →
    ((∃ g, site = .group g ∧ (s.group g).st = .free) ∨ (∃ i, site = .object i ∧ (s.obj i).al = false) ∨
      (∃ cn, site = .channel cn ∧ (s.cchan cn).bound = none) ∨ (∃ n, site = .sched n ∧ s.sched n = none) ∨
      (∃ n, site = .slot n ∧ (s.slot n).soid = none) ∨ ∃ a, site = .free a) →
    exec (.eccError site false) s = .next (raise s (eccEv .eccUeData site (arrayNo site)))) ∧
  (∀ (a : Nat) (s : State), s.boot.rst = none →
    exec (.eccError (.shared a) false) s = .next (raise s (eccEv .eccUeShared (.shared a) (arrayNo (.shared a))))) ∧
  (∀ s : State, s.boot.rst = none → exec (.eccError .gaffer false) s = exec (.gafferLockstep true) s) ∧
  (∀ (e : Nat) (both : Bool) (s : State), s.boot.rst = none →
    ∃ t, exec (.eccError (.prot e both) false) s = .next t ∧ t = { s with flt := { s.flt with synd := t.flt.synd } } ∧
      (∃ x ∈ t.flt.synd, x.code = (if both then .protIntegrity else .protCopy) ∧ x.cls = (if both then 4 else 1))) ∧
  (∀ s : State, exec .sramScrub s = .next s) ∧
  (∀ (k : Int) (s : State), 1447 ≤ k → k ≤ 1479 → exec (.tbWindowCheck k) s = .next s) ∧
  (∀ (k : Int) (s : State), (k < 1447 ∨ 1479 < k) → exec (.tbWindowCheck k) s = .next
    (raise { s with boot := { s.boot with tbsub := true } } { mkEv .timebase 11 0 with detail := BitVec.ofNat 16 (min 0xFFFF k.toNat) })) ∧
  (∀ s : State, s.boot.rst = none →
    ∃ t, exec (.gafferLockstep true) s = .next t ∧ t.gaf = { s.gaf with restart := true, serving := none } ∧ t.grp = s.grp ∧
      t.flt.synd = addEvent (mkEv .gafferEcc 10 0) s.flt.synd) ∧
  (∀ s : State, s.boot.rst = none →
    ∃ t, exec (.gafferLockstep false) s = .next t ∧ t.gaf = { s.gaf with restart := true, serving := none } ∧ t.grp = s.grp ∧
      t.flt.gafMis = gafRecent s ∧
      t.flt.synd = (let l := addEvent (mkEv .gafferLockstep 10 0) s.flt.synd
                    if 3 ≤ (gafRecent s).length then addEvent (mkEv .gafferGrave 10 0) l else l)) ∧
  (∀ s : State, s.gaf.restart = true →
    exec .gafferRestartDone s = .next (s.gaf.parked.foldl commitAgain { s with gaf := { s.gaf with restart := false } })) ∧
  (∀ s : State, s.gaf.restart = true → (∀ mb, Parked.commit mb ∉ s.gaf.parked) →
    exec .gafferRestartDone s = .next { s with gaf := { s.gaf with restart := false } }) ∧
  (∀ s : State, s.gaf.restart = false → exec .gafferRestartDone s = .next s)

/-- R320 to R323, Table 11-7: UNIT_RETURN of a unit out of service begins its return; the retest decides on the shadow phase; agreements
count, a disagreement ends the return with F_SHADOW_FAIL, the 4,096th agreement takes the unit back; the failure of the unit that is replaced takes the
returning one over at once from 256 agreements on; UNIT_ABANDON ends the return. -/
def Obligations.UnitsReturnToService : Prop :=
  (∀ (mb : Nat) (u : UnitId) (c : Bool) (s : State), serves s mb 0x0608 → unitNamed (payOf s mb) = some (u, c) → outOfService s u c = true →
    returnOf s u = none →
    ∃ t, exec .unitReturn s = .next t ∧ answered s t mb .ok 0 [] ∧ t.grp = s.grp ∧ t.mrv = s.mrv ∧ t.fab = s.fab ∧
      t.flt = { s.flt with returns := s.flt.returns ++
        [{ u := u, copyB := c, notify := if bit (payOf s mb) 47 then some (fld (payOf s mb) 32 15) else none }] }) ∧
  (∀ (mb : Nat) (s : State), serves s mb 0x0608 → unitNamed (payOf s mb) = none →
    ∃ t, exec .unitReturn s = .next t ∧ answered s t mb .range (unitOffset (payOf s mb)) [] ∧ t.flt = s.flt) ∧
  (∀ (mb : Nat) (u : UnitId) (c : Bool) (s : State), serves s mb 0x0608 → unitNamed (payOf s mb) = some (u, c) → outOfService s u c = false →
    ∃ t, exec .unitReturn s = .next t ∧ answered s t mb .conflict 0 [] ∧ t.flt = s.flt) ∧
  (∀ (mb : Nat) (u : UnitId) (c : Bool) (s : State), serves s mb 0x0608 → unitNamed (payOf s mb) = some (u, c) → outOfService s u c = true →
    returnOf s u ≠ none → ∃ t, exec .unitReturn s = .next t ∧ answered s t mb .busy 0 [] ∧ t.flt = s.flt) ∧
  (∀ (mb : Nat) (u : UnitId) (c : Bool) (r : UnitRet) (s : State), serves s mb 0x0609 → unitNamed (payOf s mb) = some (u, c) →
    returnOf s u = some r → r.copyB = c →
    ∃ t, exec .unitAbandon s = .next t ∧ answered s t mb .ok 0 [] ∧ returnOf t u = none ∧ t.grp = s.grp ∧ t.fab = s.fab) ∧
  (∀ (mb : Nat) (u : UnitId) (c : Bool) (s : State), serves s mb 0x0609 → unitNamed (payOf s mb) = some (u, c) →
    (∀ r, returnOf s u = some r → r.copyB ≠ c) → ∃ t, exec .unitAbandon s = .next t ∧ answered s t mb .conflict 0 [] ∧ t.flt = s.flt) ∧
  (∀ (u : UnitId) (r : UnitRet) (s : State), u.ok = true → returnOf s u = some r → r.shadow = false →
    ∃ t, exec (.retestDone u true) s = .next t ∧ returnOf t u = some { r with shadow := true, agree := 0 } ∧ t.grp = s.grp ∧ t.fab = s.fab ∧
      t.flt.synd = s.flt.synd) ∧
  (∀ (u : UnitId) (r : UnitRet) (s : State), u.ok = true → returnOf s u = some r → r.shadow = false →
    exec (.retestDone u false) s = .next (endReturn s r (unitEv .retestFail u)) ∧
    (r.notify = none → exec (.retestDone u false) s = .next (raise (dropReturn s u) (unitEv .retestFail u)))) ∧
  (∀ (u : UnitId) (r : UnitRet) (s : State), u.ok = true → returnOf s u = some r → r.shadow = true → r.agree < 4095 →
    ∃ t, exec (.shadowCompare u true false) s = .next t ∧ returnOf t u = some { r with agree := r.agree + 1 } ∧ t = { s with flt := t.flt }) ∧
  (∀ (u : UnitId) (r : UnitRet) (s : State), u.ok = true → returnOf s u = some r → r.shadow = true → 4095 ≤ r.agree →
    exec (.shadowCompare u true false) s = .next (endReturn (takeOver s r) r (unitEv .unitReturned u))) ∧
  (∀ (u : UnitId) (r : UnitRet) (s : State), u.ok = true → returnOf s u = some r → r.shadow = true → 4095 ≤ r.agree → r.notify = none →
    ∃ t, exec (.shadowCompare u true false) s = .next t ∧ returnOf t u = none ∧
      (∃ e ∈ t.flt.synd, e.code = .unitReturned ∧ (e.skind, e.sidx) = unitSrc u) ∧
      (∀ n, u = .copy n → (t.node n).fenced = none) ∧ (∀ b, u = .blockHub b → t.rehome b = {}) ∧ (∀ c, u = .cane c → (t.cchan c).lost = false) ∧
      (∀ i, u = .slice i → (t.sliceOf i).retired = false ∧ (t.sliceOf i).mism = [] ∧ bit t.lehr.slices i = false ∧
        ∀ k, k ≠ i → t.sliceOf k = s.sliceOf k)) ∧
  (∀ (u : UnitId) (r : UnitRet) (s : State), u.ok = true → returnOf s u = some r → r.shadow = true →
    exec (.shadowCompare u false false) s = .next (shadowFail s r)) ∧
  (∀ (u : UnitId) (r : UnitRet) (s : State), u.ok = true → returnOf s u = some r → r.shadow = true → r.notify = none →
    exec (.shadowCompare u false false) s = .next
      (raise (dropReturn (shadowPower s r.u false) r.u) { unitEv .shadowFail r.u with cseq := BitVec.ofNat 32 r.agree })) ∧
  (∀ (u : UnitId) (b : Bool) (r : UnitRet) (s : State), u.ok = true → returnOf s u = some r → r.shadow = true →
    (256 ≤ r.agree → exec (.shadowCompare u b true) s = .next (endReturn (takeOverNow s r) r (unitEv .unitReturned u))) ∧
    (r.agree < 256 → exec (.shadowCompare u b true) s = .next (shadowFail (liveDown s r) r))) ∧
  (∀ (u : UnitId) (a b c : Bool) (s : State), u.ok = true → returnOf s u = none →
    exec (.retestDone u a) s = .next s ∧ exec (.shadowCompare u b c) s = .next s)

/-! ## Lehr, firmware, the security sideband (12, 13) -/

/-- R350, R354, R359 to R365: a job of the flash port goes on with its next operation unless one of a higher class waits; the end of the last one makes the
record valid, and a failure retires its sector; a changed configuration is recorded; each powered hour restores the budget; the scrub reads its items
in order of RSN (log entry 131), raises F_LEHR_CORR for what it corrects and has a worn record written again; FAULT_READ of Cullet is answered at
once, of Lehr by a read of the device. How many operations a job has is the model's reading (log entry 28). -/
def Obligations.TheFlashPortWorks : Prop :=
  (∀ (i : Nat) (r : Record) (a : List Record) (s : State), s.boot.rst = none → s.boot.powered = true → s.boot.svcStep ≠ 1 →
    s.lehr.cur = some (.write i r .fresh) → s.lehr.left ≤ 1 → s.lehr.ops = [] → s.lehr.held = [] → s.lehr.head = some i →
    (sectorOf s.lehr i).erased = false → (sectorOf s.lehr i).recs = a ++ [{ r with torn := true }] →
    ∃ t more, exec (.flashOpDone .ok) s = .next t ∧ (sectorOf t.lehr i).recs = a ++ { r with torn := false } :: more ∧
      (∀ x ∈ more, x.torn = true) ∧ t = { s with lehr := t.lehr }) ∧
  (∀ (op : FlashOp) (s : State), s.boot.rst = none → s.boot.powered = true → s.boot.svcStep ≠ 1 → s.lehr.cur = some op → 1 < s.lehr.left →
    s.lehr.ops = [] → s.lehr.held = [] →
    exec (.flashOpDone .ok) s = .next { s with lehr := { s.lehr with left := s.lehr.left - 1 } }) ∧
  (∀ (op : FlashOp) (r : Record) (h : Nat) (s : State), s.boot.rst = none → s.boot.powered = true → s.boot.svcStep ≠ 1 → s.lehr.cur = some op →
    1 < s.lehr.left → 1 < opClass op → s.lehr.ops = [.record r] → s.lehr.held = [] → isFaultKind r.kind = true → logLive s = true →
    headFits s.lehr (recFrames r) = some h →
    ∃ t q, exec (.flashOpDone .ok) s = .next t ∧ t.lehr.cur = some (.write h q .fresh) ∧ q.kind = r.kind ∧ t.lehr.ops = [] ∧
      t.lehr.held = [(op, s.lehr.left - 1)] ∧ t = { s with lehr := t.lehr }) ∧
  (∀ (i : Nat) (r : Record) (res : FlashEnd) (s : State), s.boot.rst = none → s.boot.powered = true → s.boot.svcStep ≠ 1 → res ≠ .ok →
    s.lehr.cur = some (.write i r .fresh) → s.lehr.retired.contains i = false → s.flt.synd = [] →
    ∃ t, exec (.flashOpDone res) s = .next t ∧ t.lehr.retired = i :: s.lehr.retired ∧
      (∃ e ∈ t.flt.synd, e.code = .lehrSector ∧ e.cseq = BitVec.ofNat 32 (sectorBase i))) ∧
  (∀ (op : FlashOp) (res : FlashEnd) (s : State), s.boot.rst = none → s.boot.powered = true → s.boot.svcStep ≠ 1 → s.lehr.cur = some op →
    (res ≠ .ok ∨ s.lehr.left ≤ 1) →
    exec (.flashOpDone res) s = .next (flashStart (askCompact (opEnd { s with lehr := { s.lehr with cur := none, left := 0 } } res op)))) ∧
  (∀ (res : FlashEnd) (s : State), s.lehr.cur = none → exec (.flashOpDone res) s = .next s) ∧
  (∀ (k : ConfKind) (d : Nat) (s : State), tabGet none s.lehr.due (confNum k) = some d → asked s.lehr (confNum k) = false →
    s.lehr.noConf = false → s.boot.lehrLimp = false →
    exec (.configRecordDue k) s = .next (flashAsk s (.record { kind := confNum k, rsn := 0, payload := [] }))) ∧
  (∀ (k : ConfKind) (s : State), (tabGet none s.lehr.due (confNum k) = none ∨ s.lehr.noConf = true) → exec (.configRecordDue k) s = .next s) ∧
  (∀ s : State, s.boot.powered = true → s.lehr.hourStart + hourNs ≤ s.tb →
    ∃ t, exec .flashHourBudget s = .next t ∧ t.lehr.hours = s.lehr.hours + 1 ∧ t.lehr.hourStart = s.lehr.hourStart + hourNs ∧
      (s.lehr.ops = [] → t.lehr.budget = 4096) ∧ (s.lehr.passHour + 720 ≤ s.lehr.hours + 1 → t.lehr.cursor = 0 ∧ t.lehr.passHour = s.lehr.hours + 1) ∧
      t = { s with lehr := t.lehr }) ∧
  (∀ s : State, (s.boot.powered = false ∨ s.tb < s.lehr.hourStart + hourNs) → exec .flashHourBudget s = .next s) ∧
  (∀ (rsn bits : Nat) (x : Nat × Record) (s : State), logLive s = true → s.lehr.cur = none → s.boot.rst = none → s.boot.powered = true →
    ((logRecs s.lehr).find? fun y => y.2.rsn == rsn && y.2.kind != 0 && liveRec s.lehr y) = some x → scrubNext s.lehr = some x.1 →
    (let t : State := { s with lehr := { s.lehr with cursor := rsn } }
     (bits = 0 → exec (.lehrScrubStep (.record rsn) bits) s = .next t) ∧
     (0 < bits → bits < 3 → exec (.lehrScrubStep (.record rsn) bits) s = .next (raise t (corrEvent bits x.1))) ∧
     (3 ≤ bits → bits ≤ 8 → exec (.lehrScrubStep (.record rsn) bits) s = .next (flashAsk (raise t (corrEvent bits x.1)) (.rewrite rsn))) ∧
     (8 < bits → exec (.lehrScrubStep (.record rsn) bits) s = .next { t with lehr := tearRec t.lehr rsn }))) ∧
  (∀ (i bits : Nat) (a : Anchor) (s : State), logLive s = true → s.lehr.cur = none → s.boot.rst = none → s.boot.powered = true →
    tabGet none s.lehr.anchors i = some a → scrubNext s.lehr = some (65536 * i) →
    (let t : State := { s with lehr := { s.lehr with cursor := a.rsn } }
     (bits = 0 → exec (.lehrScrubStep (.anchor i) bits) s = .next t) ∧
     (0 < bits → bits < 3 → exec (.lehrScrubStep (.anchor i) bits) s = .next (raise t (corrEvent bits (65536 * i)))) ∧
     (3 ≤ bits → bits ≤ 8 → exec (.lehrScrubStep (.anchor i) bits) s = .next (flashAsk (raise t (corrEvent bits (65536 * i))) (.anchor none none false))) ∧
     (8 < bits → exec (.lehrScrubStep (.anchor i) bits) s = .next { t with lehr := { t.lehr with anchors := tabSet none t.lehr.anchors i none } }))) ∧
  (∀ (i bits : Nat) (r : Record) (q : List Record) (s : State), logLive s = true → s.lehr.cur = none → s.boot.rst = none → s.boot.powered = true →
    (sectorOf s.lehr i).recs = r :: q → scrubNext s.lehr = some (sectorBase i) →
    (let t : State := { s with lehr := { s.lehr with cursor := r.rsn } }
     (bits = 0 → exec (.lehrScrubStep (.sectorRec i) bits) s = .next t) ∧
     (0 < bits → bits ≤ 8 → exec (.lehrScrubStep (.sectorRec i) bits) s = .next (raise t (corrEvent bits (sectorBase i)))) ∧
     (8 < bits → exec (.lehrScrubStep (.sectorRec i) bits) s = .next
       { t with lehr := modSector i (fun x => { x with erases := 0, recs := { r with torn := true } :: q }) t.lehr }))) ∧
  (∀ (i bits : Nat) (s : State), logLive s = true → s.lehr.cur = none → s.boot.rst = none → s.boot.powered = true → scrubNext s.lehr = none →
    slotValid s (i == 1) = true → (0 < bits ∨ imageDigestOk (slotBytes s.lehr (i == 1)) = false) →
    exec (.lehrScrubStep (.image i) bits) s = .next
      (flashAsk (raise s { mkEv .fwImage 12 0 with detail := BitVec.ofNat 16 (b2n (i == 1)) }) (.anchor none (some (i == 1, false)) false))) ∧
  (∀ (item : ScrubItem) (bits : Nat) (s : State), (logLive s = false ∨ s.lehr.cur ≠ none ∨ s.boot.rst ≠ none ∨ s.boot.powered = false) →
    exec (.lehrScrubStep item bits) s = .next s) ∧
  (∀ s : State, s.lehr.lastScrub + 24 ≤ s.lehr.hours → logLive s = true →
    exec .scrubRecord s = .next (flashAsk { s with lehr := { s.lehr with lastScrub := s.lehr.hours } } (.record { kind := 6, rsn := 0, payload := [] }))) ∧
  (∀ s : State, (s.lehr.hours < s.lehr.lastScrub + 24 ∨ logLive s = false) → exec .scrubRecord s = .next s) ∧
  (∀ (mb : Nat) (s : State), serves s mb 0x060A → pby (payOf s mb) 0 1 = 0 →
    ∃ t, exec .faultRead s = .next t ∧ t.flt = s.flt ∧ t.lehr = s.lehr ∧ t.gaf.serving = none ∧
      answered s t mb .ok (min 0xFFFF s.flt.ring.length)
        (((s.flt.ring.map fun e => leBytes 32 (entryWord e).toNat).drop (pby (payOf s mb) 2 2)).take 7).flatten) ∧
  (∀ (mb : Nat) (s : State), serves s mb 0x060A → pby (payOf s mb) 0 1 ≠ 0 → s.boot.lehrLimp = true →
    ∃ t, exec .faultRead s = .next t ∧ t.flt = s.flt ∧ t.lehr = s.lehr ∧ t.gaf.serving = none ∧ answered s t mb .ok 0 []) ∧
  (∀ (mb : Nat) (s : State), serves s mb 0x060A → pby (payOf s mb) 0 1 ≠ 0 → s.boot.lehrLimp = false →
    (∀ o ∈ s.lehr.ops ++ s.lehr.cur.toList, ∀ m, o ≠ .readFault m) → exec .faultRead s = .next (flashAsk s (.readFault mb))) ∧
  (∀ (mb : Nat) (res : FlashEnd) (s : State), serves s mb 0x060A → s.boot.rst = none → s.boot.powered = true → s.boot.svcStep ≠ 1 →
    s.lehr.cur = some (.readFault mb) → s.lehr.left ≤ 1 →
    ∃ t, exec (.flashOpDone res) s = .next t ∧ t.flt = s.flt ∧ t.gaf.serving = none ∧
      answered s t mb .ok (min 0xFFFF (faultSeq s).length) (((faultSeq s).drop (pby (payOf s mb) 2 2)).take 7).flatten)

/-- R308, R345 to R347, R367: LEHR_WRITE runs only at LIMP from ROM defaults; FW_UPDATE asks for a verdict on an image that passes its checks, which
accepts or refuses it, as 100 ms without one refuses it; FW_ACTIVATE takes a slot that is valid; MB1 fills from a transfer and its
response goes out; TENANT_RESET parks, aborts the tenant's groups and abandons its objects. -/
def Obligations.FirmwareSecurityAndTenants : Prop :=
  (∀ (mb : Nat) (mem : List Byte) (s : State), serves s mb 0x060D → s.boot.lehrLimp = false →
    ∃ t, exec (.lehrWrite mem) s = .next t ∧ answered s t mb .conflict 0 [] ∧ t.lehr = s.lehr) ∧
  (∀ (mb : Nat) (mem : List Byte) (s : State), serves s mb 0x060D → s.boot.lehrLimp = true →
    (pby (payOf s mb) 8 4 % 65536 ≠ 0 ∨ pby (payOf s mb) 12 4 % 65536 ≠ 0 ∨ pby (payOf s mb) 12 4 = 0 ∨
      2 ^ s.lehr.dlog < pby (payOf s mb) 8 4 + pby (payOf s mb) 12 4) →
    ∃ t, exec (.lehrWrite mem) s = .next t ∧ answered s t mb .range (if pby (payOf s mb) 8 4 % 65536 ≠ 0 then 8 else 12) [] ∧ t.lehr = s.lehr) ∧
  (∀ (mb : Nat) (mem : List Byte) (s : State), serves s mb 0x060D → s.boot.lehrLimp = true → pby (payOf s mb) 8 4 % 65536 = 0 →
    pby (payOf s mb) 12 4 % 65536 = 0 → 65536 ≤ pby (payOf s mb) 12 4 → pby (payOf s mb) 8 4 + pby (payOf s mb) 12 4 ≤ 2 ^ s.lehr.dlog →
    ∃ t, exec (.lehrWrite mem) s = .next t ∧ t.gaf.parked = s.gaf.parked ++ [.lehrWrite mb] ∧ t.mbox mb = s.mbox mb ∧
      t.gaf.lehrW = some (pby (payOf s mb) 8 4, padTo mem (pby (payOf s mb) 12 4), 0) ∧ t.grp = s.grp ∧ t.boot = s.boot ∧
      FlashOp.sector (pby (payOf s mb) 8 4) ((padTo mem (pby (payOf s mb) 12 4)).take 65536) ∈ t.lehr.ops ++ t.lehr.cur.toList) ∧
  (∀ (mb : Nat) (mem : List Byte) (st : St) (s : State), serves s mb 0x060B →
    (let n := pby (payOf s mb) 16 4
     imageFail s (padTo mem (min n 1048576)) n (bit (payOf s mb) 0) = some st →
     ∃ t, exec (.fwUpdate mem) s = .next t ∧ t.lehr = s.lehr ∧ t.grp = s.grp ∧
       answered s t mb st (if st = .range then (if n < 64 ∨ 1048576 < n then 16 else 8) else 0) [])) ∧
  (∀ (mb : Nat) (mem : List Byte) (s : State), serves s mb 0x060B →
    (let n := pby (payOf s mb) 16 4
     let m := padTo mem (min n 1048576)
     imageFail s m n (bit (payOf s mb) 0) = none →
     ∃ t, exec (.fwUpdate mem) s = .next t ∧ t.lehr = s.lehr ∧ t.grp = s.grp ∧ t.gaf.parked = s.gaf.parked ++ [.fwUpdate mb] ∧
       t.gaf.upd = some { image := m, slotB := idleSlot s, asked := some s.tb } ∧ t.gaf.secOut = s.gaf.secOut ++ [(false, imageAsk m)] ∧
       t.mbox mb = s.mbox mb)) ∧
  (∀ (mb : Nat) (b : Bool) (s : State), serves s mb 0x060C → (pby (payOf s mb) 0 1 == 1) = b → slotValid s b = true →
    ∃ t, exec .fwActivate s = .next t ∧ answered s t mb .ok 0 [] ∧ t.grp = s.grp ∧ t.boot = s.boot ∧
      FlashOp.anchor (some b) none false ∈ t.lehr.ops ++ t.lehr.cur.toList) ∧
  (∀ (mb : Nat) (s : State), serves s mb 0x060C → slotValid s (pby (payOf s mb) 0 1 == 1) = false →
    ∃ t, exec .fwActivate s = .next t ∧ answered s t mb .range 0 [] ∧ t.grp = s.grp ∧ t.boot = s.boot ∧ t.lehr = s.lehr) ∧
  (∀ (w : BitVec 32) (u : FwUpd) (a : Nat) (s : State), s.boot.rst = none → s.gaf.upd = some u → u.asked = some a →
    (bit w 0 = true → bit w 1 = false → exec (.secVerdict w) s = .next (imageAccepted (verdictTaken s) u)) ∧
    (bit w 0 = false ∨ bit w 1 = true → exec (.secVerdict w) s = .next (endUpdate (verdictTaken s) .denied 0))) ∧
  (∀ (w : BitVec 32) (m : List (BitVec 32)) (s : State), s.boot.rst = none → s.gaf.upd = none → booting s 2 = true → s.boot.verdict = none →
    (false, m) ∈ s.gaf.secOut →
    (bit w 0 = true → bit w 1 = false → exec (.secVerdict w) s = .next { verdictTaken s with boot := { s.boot with verdict := some true } }) ∧
    (bit w 0 = false ∨ bit w 1 = true → exec (.secVerdict w) s = .next (slotFailed (verdictTaken s) s.gaf.run))) ∧
  (∀ (mb a : Nat) (u : FwUpd) (s : State), s.gaf.upd = some u → u.asked = some a → a + 100000000 ≤ s.tb →
    (s.gaf.parked.filter fun p => match p with | .fwUpdate _ => true | _ => false) = [.fwUpdate mb] →
    ∃ t, exec .secVerdictTimeout s = .next t ∧ t.gaf.upd = none ∧ Parked.fwUpdate mb ∉ t.gaf.parked ∧ answered s t mb .busy 0 [] ∧ t.lehr = s.lehr) ∧
  (∀ s : State, (∀ u a, s.gaf.upd = some u → u.asked = some a → s.tb < a + 100000000) → exec .secVerdictTimeout s = .next s) ∧
  (∀ (ws : List (BitVec 32)) (s : State), (Instr.secMb1Transfer ws).ok = true → s.boot.rst = none → ws.length = 64 → (s.mbox 1).full = false →
    ∃ t, exec (.secMb1Transfer ws) s = .next t ∧ t = { s with gaf := t.gaf } ∧ (∀ m, m ≠ 1 → t.mbox m = s.mbox m) ∧
      t.mbox 1 = { s.mbox 1 with cmd := BitVec.ofNat 2048 (leNat (ws.flatMap fun w => leBytes 4 w.toNat)), full := true, done := false }) ∧
  (∀ (ws : List (BitVec 32)) (s : State), (Instr.secMb1Transfer ws).ok = true → s.boot.rst = none → (ws.length ≠ 64 ∨ (s.mbox 1).full = true) →
    ∃ t, exec (.secMb1Transfer ws) s = .next t ∧ t = { s with gaf := t.gaf } ∧ (∀ m, m ≠ 1 → t.mbox m = s.mbox m) ∧
      t.mbox 1 = { s.mbox 1 with ovr := true }) ∧
  (∀ (y : Bool × List (BitVec 32)) (r : List (Bool × List (BitVec 32))) (s : State), takeFirst (fun x => x.1) s.gaf.secOut = some (y, r) →
    ∃ t, exec .secMb1Response s = .next t ∧ t.gaf.secOut = r ∧ (t.mbox 1).done = ((s.mbox 1).done && r.any fun x => x.1) ∧
      (∀ m, m ≠ 1 → t.mbox m = s.mbox m) ∧ t = { s with gaf := t.gaf }) ∧
  (∀ s : State, (∀ x ∈ s.gaf.secOut, x.1 = false) → exec .secMb1Response s = .next s) ∧
  (∀ (mb i : Nat) (s : State), serves s mb 0x0606 → pby (payOf s mb) 0 1 = i →
    exec .tenantReset s = .next
      (let u := park { s with gaf := { s.gaf with serving := none } } (.tenantReset mb i)
       abortTenant ((objsWhere u fun o => o.tid == i).foldl abandon u) i 0)) ∧
  (∀ (mb i : Nat) (s : State), serves s mb 0x0606 → pby (payOf s mb) 0 1 = i →
    ∃ t, exec .tenantReset s = .next t ∧
      (∀ g, (s.group g).tid = i → abortable (s.group g) = true → (t.group g).st = .aborted ∧ (t.group g).cleanup = true) ∧
      (∀ x, (s.obj x).al = true → (s.obj x).tid = i → (t.obj x).st = .abandoned))

/-- R202, R342 to R344: a canonical record with the next PSEQ, its digest and no conflict becomes the pending proposal; a matching confirmation
applies every entry, another ends the proposal; a proposal whose time is over ends unapplied; PROT_QUERY says which is pending. -/
def Obligations.ProtectionChangesTakeTwoParties : Prop :=
  (∀ (mb : Nat) (mem : List Byte) (s : State), serves s mb 0x0701 → s.grp.prop = none →
    (let n := pby (payOf s mb) 8 4
     let r := padTo mem (min n 8208)
     let u : State := { s with gaf := { s.gaf with serving := none } }
     n ≤ 8208 → sha256 r = leBytes 32 (pby (payOf s mb) 16 32) → recCanon r = true → recPseq r = s.grp.pseq + 1 →
     (changeFail u r = none →
       ∃ t, exec (.protPropose mem) s = .next t ∧ answered s t mb .ok 0 (leBytes 4 (recPseq r).toNat) ∧
         t.grp = { s.grp with prop := some { record := r, pseq := recPseq r, digest := sha256 r, expiry := s.tb + 10000000000 } }) ∧
     (∀ st, changeFail u r = some st → ∃ t, exec (.protPropose mem) s = .next t ∧ answered s t mb st 0 [] ∧ t.grp = s.grp))) ∧
  (∀ (mb : Nat) (mem : List Byte) (s : State), serves s mb 0x0701 → s.grp.prop = none →
    (let n := pby (payOf s mb) 8 4
     let r := padTo mem (min n 8208)
     8208 < n ∨ sha256 r ≠ leBytes 32 (pby (payOf s mb) 16 32) ∨ recCanon r = false ∨ recPseq r ≠ s.grp.pseq + 1 →
     ∃ t, exec (.protPropose mem) s = .next t ∧ t.grp = s.grp ∧
       answered s t mb .range (if 8208 < n then 8 else if sha256 r ≠ leBytes 32 (pby (payOf s mb) 16 32) then 16 else 0) [])) ∧
  (∀ (mb : Nat) (mem : List Byte) (q : Proposal) (s : State), serves s mb 0x0701 → s.grp.prop = some q → s.tb < q.expiry →
    (let n := pby (payOf s mb) 8 4
     let r := padTo mem (min n 8208)
     let u : State := { s with gaf := { s.gaf with serving := none } }
     n ≤ 8208 → sha256 r = leBytes 32 (pby (payOf s mb) 16 32) → recCanon r = true → recPseq r = s.grp.pseq + 1 → changeFail u r = none →
     ∃ t, exec (.protPropose mem) s = .next t ∧ answered s t mb .busy 0 [] ∧ t.grp = s.grp)) ∧
  (∀ (mb : Nat) (q : Proposal) (s : State), serves s mb 0x0702 → s.grp.prop = some q → s.tb < q.expiry →
    BitVec.ofNat 32 (pby (payOf s mb) 0 4) = q.pseq → leBytes 32 (pby (payOf s mb) 16 32) = q.digest →
    (let u : State := { s with gaf := { s.gaf with serving := none } }
     (changeFail u q.record = none →
       ∃ t, exec .protConfirm s = .next t ∧ answered s t mb .ok 0 [] ∧
         t.grp = { (applyRec u q.record).grp with prop := none, propOut := .ok, pseq := q.pseq }) ∧
     (∀ st, changeFail u q.record = some st →
       ∃ t, exec .protConfirm s = .next t ∧ answered s t mb st 0 [] ∧ t.grp = { s.grp with prop := none, propOut := st }))) ∧
  (∀ (mb : Nat) (q : Proposal) (s : State), serves s mb 0x0702 → s.grp.prop = some q → s.tb < q.expiry →
    (BitVec.ofNat 32 (pby (payOf s mb) 0 4) ≠ q.pseq ∨ leBytes 32 (pby (payOf s mb) 16 32) ≠ q.digest) →
    ∃ t, exec .protConfirm s = .next t ∧ answered s t mb .denied 0 [] ∧ t.grp = { s.grp with prop := none, propOut := .denied }) ∧
  (∀ (mb : Nat) (s : State), serves s mb 0x0702 → s.grp.prop = none →
    ∃ t, exec .protConfirm s = .next t ∧ answered s t mb .notx 0 [] ∧ t.grp = s.grp) ∧
  (∀ (mb : Nat) (q : Proposal) (s : State), serves s mb 0x0702 → s.grp.prop = some q → q.expiry ≤ s.tb →
    ∃ t, exec .protConfirm s = .next t ∧ answered s t mb .notx 0 [] ∧ t.grp = { s.grp with prop := none, propOut := .notx }) ∧
  (∀ (mb : Nat) (q : Proposal) (s : State), serves s mb 0x0703 → s.grp.prop = some q → s.tb < q.expiry →
    ∃ t, exec .protQuery s = .next t ∧ t.grp = s.grp ∧
      answered s t mb .ok 0 (leBytes 1 1 ++ leBytes 1 s.grp.propOut.code ++ leBytes 2 0 ++ leBytes 4 s.grp.pseq.toNat ++ leBytes 4 q.pseq.toNat
        ++ leBytes 4 ((q.expiry - s.tb) / 1000000))) ∧
  (∀ (mb : Nat) (s : State), serves s mb 0x0703 → s.grp.prop = none →
    ∃ t x, exec .protQuery s = .next t ∧ t.grp = s.grp ∧
      answered s t mb .ok 0 (leBytes 1 0 ++ leBytes 1 s.grp.propOut.code ++ leBytes 2 0 ++ leBytes 4 s.grp.pseq.toNat ++ leBytes 8 x)) ∧
  (∀ (q : Proposal) (s : State), s.grp.prop = some q → q.expiry ≤ s.tb →
    exec .proposalExpire s = .next { s with grp := { s.grp with prop := none, propOut := .notx } }) ∧
  (∀ s : State, (∀ q, s.grp.prop = some q → s.tb < q.expiry) → exec .proposalExpire s = .next s)

/-! ## Resets, boot, power, test (14, 17) -/

/-- R154, R186, R188, R304, R319, R363, R373, R375, R377, R416, Table 14-2: what each reset clears and what it keeps, what its release starts, and what a loss of
power leaves. The time base, the free counter and the queue are the model's own and stay (log entries 1, 3). -/
def Obligations.ResetsClearAndKeep : Prop :=
  (∀ s : State, s.boot.rst ≠ some .cold →
    ∃ t, exec .rstCold s = .next t ∧ t.tb = s.tb ∧ t.pending = s.pending ∧ t.boot = { rst := some .cold } ∧ t.grp = {} ∧ t.ports = [] ∧
      t.fab = {} ∧ t.sync = {} ∧ t.cane = {} ∧ t.lps = [] ∧ t.gaf = {} ∧ t.host = {} ∧ t.mrv = {} ∧ t.test = {} ∧ t.lehr = deviceOf s.lehr ∧
      (s.flt.c4 = false → t.flt = {}) ∧ (s.flt.c4 = true → t.flt.c4 = true ∧ t.flt.ring = s.flt.ring ∧ t.flt.fatal = s.flt.fatal)) ∧
  (∀ s : State, s.boot.rst = some .cold → exec .rstCold s = .next s ∧ exec .rstBlk s = .next s ∧ exec .rstBlkRelease s = .next s) ∧
  (∀ s : State, s.boot.rst ≠ some .cold → s.boot.rst ≠ some .blk →
    ∃ t, exec .rstBlk s = .next t ∧ t.boot = { rst := some .blk, testMode := s.boot.testMode } ∧ t.grp = {} ∧ t.sync = {} ∧
      (∀ k, t.port k = { cgAck := (s.port k).cgAck, wake := (s.port k).wake || sleepsGated (s.port k) }) ∧
      t.test = s.test ∧ t.lehr = deviceOf s.lehr ∧ t.flt.ring = s.flt.ring ∧ t.flt.total = s.flt.total ∧ t.flt.frozen = false ∧ t.flt.c4 = s.flt.c4 ∧
      t.flt.bstop = false ∧ t.flt.c2pend = s.flt.c2pend ∧ t.flt.timers = [] ∧ t.mbox 0 = { s.mbox 0 with full := false } ∧
      (∀ m, m ≠ 0 → t.mbox m = {}) ∧ t.host.msgen = s.host.msgen ∧ t.host.fie = s.host.fie) ∧
  (∀ s : State, s.boot.rst = some .cold → s.boot.powered = true →
    ∃ t, exec (.rstColdRelease false) s = .next t ∧ t.boot = { s.boot with rst := none, testMode := false, stage := 1 } ∧
      t.lehr = { s.lehr with rstHigh := some (s.tb + 2000) } ∧ (∀ p, p < 6 → t.lport p = { s.lport p with rst := false }) ∧ t.flt = s.flt) ∧
  (∀ s : State, s.boot.rst = some .cold → s.boot.powered = true →
    exec (.rstColdRelease true) s = .next { s with boot := { s.boot with rst := none, testMode := true, stage := 0 } }) ∧
  (∀ (b : Bool) (s : State), (s.boot.rst ≠ some .cold ∨ s.boot.powered = false) → exec (.rstColdRelease b) s = .next s) ∧
  (∀ s : State, s.boot.rst = some .blk → s.boot.testMode = false →
    ∃ t, exec .rstBlkRelease s = .next t ∧ t.boot = { s.boot with rst := none, stage := 1 } ∧ t.flt = s.flt ∧
      t.lehr = { s.lehr with rstHigh := some (s.tb + 2000) } ∧ (∀ p, p < 6 → (t.lport p).rst = false)) ∧
  (∀ s : State, s.boot.rst = some .blk → s.boot.testMode = true →
    exec .rstBlkRelease s = .next { s with boot := { s.boot with rst := none, stage := 0 } }) ∧
  (∀ s : State, s.boot.powered = true →
    ∃ t, exec .powerLoss s = .next t ∧ t.boot = { rst := some .cold, powered := false } ∧ t.flt = { c4 := s.flt.c4 } ∧ t.grp = {} ∧ t.ports = [] ∧
      t.gaf = {} ∧ t.lehr = { deviceOf s.lehr with hourPast := s.tb - s.lehr.hourStart } ∧ t.lehr.sectors = s.lehr.sectors ∧
      t.lehr.anchors = s.lehr.anchors ∧ t.lehr.images = s.lehr.images) ∧
  (∀ s : State, s.boot.powered = false → exec .powerLoss s = .next s ∧
    exec .powerOn s = .next { s with boot := { s.boot with powered := true, rst := some .cold }, flt := { s.flt with c4 := false, fatal := false }
                                     lehr := { s.lehr with hourStart := s.tb - s.lehr.hourPast, hourPast := 0 } }) ∧
  (∀ s : State, s.boot.powered = true → exec .powerOn s = .next s) ∧
  (∀ (mb : Nat) (op : FlashOp) (s : State), serves s mb 0x0607 → s.lehr.cur = some op →
    ∃ t, exec .serviceReset s = .next t ∧ t.boot = { s.boot with rst := some .svc, level := .dark, svcStep := 1, wave := 0 } ∧
      t.gaf.parked = s.gaf.parked ++ [.serviceReset] ∧ t.mbox mb = s.mbox mb ∧ t.flt = { s.flt with c3timer := none } ∧
      t.lehr = { s.lehr with ops := s.lehr.ops.filter svcKeeps, held := s.lehr.held.filter fun h => svcKeeps h.1 }) ∧
  (∀ (mb : Nat) (s : State), serves s mb 0x0607 → s.lehr.cur = none → s.lehr.ops.filter svcKeeps = [] →
    (s.lehr.held.filter fun h => svcKeeps h.1) = [] →
    ∃ t, exec .serviceReset s = .next t ∧ t.gaf.parked = s.gaf.parked ++ [.serviceReset] ∧ t.mbox mb = s.mbox mb ∧ t.flt.c3timer = none ∧
      t.boot = { s.boot with rst := some .svc, level := .dark, svcStep := 4, svcSince := s.tb, wave := 0 }) ∧
  (∀ s : State, s.boot.svcStep = 4 → (memOut s = false ∨ s.boot.svcSince + 100000 ≤ s.tb) → s.boot.testMode = false →
    ∃ t, exec .serviceResetMemWait s = .next t ∧ t.boot.rst = none ∧ t.boot.stage = 1 ∧ t.boot.svcStep = 0 ∧ t.boot.placed = s.boot.placed ∧
      t.boot.cap = s.boot.cap ∧ t.flt.ring = s.flt.ring ∧ t.flt.polled = s.flt.polled ∧ t.flt.tesc = s.flt.tesc ∧
      t.flt.bstop = false ∧ t.grp.lclass = s.grp.lclass ∧ t.grp.groups = [] ∧ (s.flt.c4 = false → t.gaf.parked = [.serviceReset]) ∧
      (s.flt.c4 = true → t.gaf.parked = [] ∧ answered s t 0 .denied 0 [])) ∧
  (∀ s : State, s.boot.svcStep = 4 → memOut s = true → s.tb < s.boot.svcSince + 100000 → exec .serviceResetMemWait s = .next s) ∧
  (∀ s : State, s.boot.svcStep ≠ 4 → exec .serviceResetMemWait s = .next s)

/-- R24, R351, R366, R367, R379, R381, R382: with the device supported, the anchor in force gives ABSENT and the trims and serves the boot barrier, and a
selected image that holds goes for verification at CANE; no anchor, no device, or one that is not supported, gives ROM defaults at LIMP; the firmware
starts at LIMP with the first training wave; a wave ends in the next one, the ninth in FULL; slices that fail their check retire. -/
def Obligations.TheBootRuns : Prop :=
  (∀ (a : Anchor) (s : State), booting s 1 = true → s.lehr.sfdp = true → 25 ≤ s.lehr.dlog → s.lehr.dlog ≤ 28 → anchorOf s = some a →
    ∃ t, exec .bootAnchorsApplied s = .next t ∧ t.boot.absent = a.absent ∧ t.lehr.trims = a.trim ∧ t.lehr.ready = true ∧ t.cane.bootBar = true ∧
      t.grp = s.grp ∧ t.fab = s.fab) ∧
  (∀ (a : Anchor) (s : State), booting s 1 = true → s.lehr.sfdp = true → 25 ≤ s.lehr.dlog → s.lehr.dlog ≤ 28 → anchorOf s = some a →
    s.flt.bstop = false → slotValid s a.sel = true → imageHeadOk (slotBytes s.lehr a.sel) = true → imageDigestOk (slotBytes s.lehr a.sel) = true →
    ∃ t, exec .bootAnchorsApplied s = .next t ∧ t.boot.level = .cane ∧ t.boot.stage = 2 ∧ t.gaf.run = a.sel ∧
      t.gaf.secOut = s.gaf.secOut ++ [(false, imageAsk (slotBytes s.lehr a.sel))]) ∧
  (∀ s : State, booting s 1 = true → s.lehr.sfdp = true → 25 ≤ s.lehr.dlog → s.lehr.dlog ≤ 28 → anchorOf s = none →
    ∃ t, exec .bootAnchorsApplied s = .next t ∧ t.boot.lehrLimp = true ∧ t.gaf.rom = true ∧ t.cane.bootBar = true ∧ t.lehr.absent = false ∧
      t.lehr.trims = List.replicate 4062 8 ∧ (s.flt.bstop = false → t.boot.level = .limp) ∧ (∃ e ∈ t.flt.synd, e.code = .lehrAbsent ∧ e.cls = 2)) ∧
  (∀ s : State, booting s 1 = true → (s.lehr.sfdp = false ∨ s.lehr.dlog < 25 ∨ 28 < s.lehr.dlog) →
    ∃ t, exec .bootAnchorsApplied s = .next t ∧ t.boot.lehrLimp = true ∧ t.gaf.rom = true ∧ t.cane.bootBar = true ∧ t.lehr.absent = true ∧
      t.lehr.trims = List.replicate 4062 8 ∧ (s.flt.bstop = false → t.boot.level = .limp) ∧ (∃ e ∈ t.flt.synd, e.code = .lehrAbsent ∧ e.cls = 2)) ∧
  (∀ s : State, booting s 1 = false → exec .bootAnchorsApplied s = .next s) ∧
  (∀ (r : Nat) (s : State), s.lehr.rstHigh = some r → booting s 1 = true → s.lehr.ready = false → r + 20000000 ≤ s.tb →
    ∃ t, exec .flashReadyTimeout s = .next t ∧ t.lehr.absent = true ∧ t.boot.lehrLimp = true ∧ (s.flt.bstop = false → t.boot.level = .limp)) ∧
  (∀ s : State, (s.lehr.ready = true ∨ ∀ r, s.lehr.rstHigh = some r → s.tb < r + 20000000) → exec .flashReadyTimeout s = .next s) ∧
  (∀ s : State, booting s 2 = true → s.boot.verdict = some true →
    ∃ t, exec .firmwareStart s = .next t ∧ t.boot.stage = 5 ∧ t.boot.wave = 1 ∧ t.boot.waveSince = s.tb ∧ t.gaf.fwRun = true ∧
      (s.flt.bstop = false → t.boot.level = .limp) ∧ (∀ i, i < 16 → bit t.lehr.slices i = true → (t.sliceOf i).retired = true)) ∧
  (∀ s : State, (booting s 2 = false ∨ s.boot.verdict ≠ some true) → exec .firmwareStart s = .next s) ∧
  (∀ (fails : List (LinkDir × List LaneFail)) (s : State), (Instr.trainingWaveEnd fails).ok = true → s.stopped = false → 1 ≤ s.boot.wave → s.boot.wave < 9 →
    ∃ t, exec (.trainingWaveEnd fails) s = .next t ∧ t.boot = { s.boot with wave := s.boot.wave + 1, waveSince := s.tb } ∧
      (∀ d ∈ waveDirs (s.boot.wave + 1), (t.link d).hold = true)) ∧
  (∀ (fails : List (LinkDir × List LaneFail)) (s : State), (Instr.trainingWaveEnd fails).ok = true → s.stopped = false → s.boot.wave = 9 →
    ∃ t, exec (.trainingWaveEnd fails) s = .next t ∧ t.boot = { s.boot with wave := 0, level := .full }) ∧
  (∀ (fails : List (LinkDir × List LaneFail)) (s : State), (Instr.trainingWaveEnd fails).ok = true → (s.boot.wave = 0 ∨ s.stopped = true) →
    exec (.trainingWaveEnd fails) s = .next s) ∧
  (∀ (failed : BitVec 16) (s : State), s.boot.stage = 5 → s.boot.kac = false → s.boot.rst = none →
    ∃ t, exec (.sliceKacDone failed) s = .next t ∧ t.boot = { s.boot with kac := true } ∧ t.grp = s.grp ∧
      (∀ i, i < 16 → (t.sliceOf i).retired = ((s.sliceOf i).retired || bit failed i))) ∧
  (∀ (failed : BitVec 16) (s : State), (s.boot.stage ≠ 5 ∨ s.boot.kac = true ∨ s.boot.rst ≠ none) → exec (.sliceKacDone failed) s = .next s)

/-- R385 to R388: a window sets the budget, by at most 8 more in the ramp after a brake; the brake takes hold once and its release starts the
ramp at 8, and what the brake held goes on.
R416, R417: an instrument of test mode keeps what it found, and nothing else moves; with tst_en at 0 it ignores its update, and a PRBS run outside
128 to 2^24 cycles counts nothing. -/
def Obligations.PowerAndInstruments : Prop :=
  (∀ (est : Nat) (s : State), s.boot.rst = none → s.boot.brake = true →
    exec (.governorWindow est) s = .next { s with boot := { s.boot with est := min 0xFFFF est } }) ∧
  (∀ (est : Nat) (s : State), s.boot.rst = none → s.boot.brake = false →
    ∃ t, exec (.governorWindow est) s = .next t ∧ t = { s with boot := t.boot } ∧ t.boot.est = min 0xFFFF est ∧
      t.boot.bOwn = (if s.boot.cap < 150 ∧ 10 * s.boot.cap < est then max 8 (640 * s.boot.cap / est) else min 64 (s.boot.bOwn + 8)) ∧
      t.boot.b = (if s.boot.ramp then min (s.boot.b + 8) t.boot.bOwn else t.boot.bOwn) ∧
      t.boot.ramp = (s.boot.ramp && decide (s.boot.b + 8 < t.boot.bOwn))) ∧
  (∀ s : State, s.boot.rst = none → s.boot.brake = false →
    exec .pwrBrake s = .next { s with boot := { s.boot with brake := true, brakeSince := s.tb, ramp := false } } ∧ exec .brakeRelease s = .next s) ∧
  (∀ s : State, s.boot.brake = true → exec .pwrBrake s = .next s) ∧
  (∀ s : State, s.boot.rst = none → s.boot.brake = true → exec .brakeRelease s = .next (brakeOff s)) ∧
  (∀ s : State, s.boot.rst = none → s.boot.brake = true → idleMarver s →
    ∃ t, exec .brakeRelease s = .next t ∧ t.boot = { s.boot with brake := false, b := 8, ramp := true } ∧ t.grp = s.grp ∧ t.flt = s.flt) ∧
  (∀ (sram : Nat) (fail : Option (Nat × Nat)) (s : State), testLive s = true →
    ∃ t, exec (.mbistRun sram fail) s = .next t ∧ tabGet none t.test.mbist sram = some fail ∧
      (∀ k, k ≠ sram → tabGet none t.test.mbist k = tabGet none s.test.mbist k) ∧ t = { s with test := t.test }) ∧
  (∀ (d : LinkDir) (n : Nat) (lb : Bool) (errs : List Nat) (s : State), d.link.ok = true → testLive s = true → 128 ≤ n → n ≤ 2 ^ 24 →
    ∃ t, exec (.prbsRun d n lb errs) s = .next t ∧ tabGet [] t.test.prbs d.key = errs.map (min 0xFFFF) ∧ t = { s with test := t.test }) ∧
  (∀ (d : LinkDir) (n : Nat) (lb : Bool) (errs : List Nat) (s : State), d.link.ok = true → (n < 128 ∨ 2 ^ 24 < n) →
    exec (.prbsRun d n lb errs) s = .next s) ∧
  (∀ (n : Nat) (a b c : BitVec 16) (s : State), testLive s = true →
    ∃ t, exec (.caneSweep n a b c) s = .next t ∧ tabGet none t.test.cane n = some (a, b, c) ∧ t = { s with test := t.test }) ∧
  (∀ (u : UnitId) (copyB : Bool) (n : Nat) (s : State), u.ok = true → testLive s = true →
    exec (.lockstepForce u copyB n) s = .next { s with test := { s.test with forced := s.test.forced ++ [(u, copyB, n)] } }) ∧
  (∀ (node src : Nat) (p n : Bool) (s : State), node < 75 → testLive s = true → (p || !n) = true →
    ∃ t, exec (.errpairForce node src p n) s = .next t ∧ (node, src, p, n) ∈ t.test.pairs ∧ t = { s with test := t.test } ∧
      (∀ e, e ∈ t.test.pairs → e.1 = node → e.2.1 = src → e = (node, src, p, n))) ∧
  (∀ (c : Instr) (s : State), testLive s = false → c.ok = true →
    ((∃ sram fail, c = .mbistRun sram fail) ∨ (∃ d n lb errs, c = .prbsRun d n lb errs) ∨ (∃ n x y z, c = .caneSweep n x y z) ∨
      (∃ u b n, c = .lockstepForce u b n) ∨ ∃ node src p n, c = .errpairForce node src p n) → exec c s = .next s)

/-! ## The block as a whole -/

/-- The row's cut, R3: the block takes the command at the front of its queue and runs it on the rest of the queue; with none waiting the
time base moves by one (the model's choice, log entry 1). Every command that names units of the block completes, and no other does. -/
def Obligations.AStepRunsTheFrontCommand : Prop :=
  (∀ (c : Instr) (r : List Instr) (s : State), s.pending = c :: r → step s = exec c { s with pending := r }) ∧
  (∀ s : State, s.pending = [] → step s = .next { s with tb := s.tb + 1 }) ∧
  (∀ (c : Instr) (s : State), c.ok = true → ∃ t, exec c s = .next t) ∧
  (∀ (c : Instr) (s : State), c.ok = false → exec c s = .fault .noSuchUnit)

/-- R373, R374, Table 14-2, R304, R406: after reset the block waits in a cold reset, DARK, with every table empty and canonical, every latch clear
and no command waiting; the values where the manual gives none are those of log entry 2. -/
def Obligations.ResetIsAColdReset : Prop :=
  tablesWf State.reset = true ∧ State.reset.pending = [] ∧ State.reset.boot.rst = some .cold ∧ State.reset.boot.level = .dark ∧
  State.reset.stopped = true ∧ State.reset.flt = {} ∧ State.reset.faultLow = false ∧ State.reset.gaf = {} ∧ State.reset.grp = {} ∧
  (∀ k, State.reset.port k = {}) ∧ (∀ g, (State.reset.group g).st = .free) ∧ (∀ n, (State.reset.slot n).soid = none) ∧
  (∀ p, (State.reset.lport p).up = false ∧ (State.reset.lport p).rst = true) ∧ (∀ n, State.reset.sched n = none)

/-- R335, R319: at LIMP from ROM defaults, Gaffer turns every command but eight away with ST_BUSY and turns none of the eight away for it;
under the C4 latch, after the reset that ends the block stop, it answers everything but MB0's FAULT_READ with ST_DENIED. -/
def Obligations.RomDefaultsServeEightCommands : Prop :=
  ∀ (mb : Nat) (s : State), s.gaf.serving = none → s.gaf.restart = false → s.boot.rst = none → nextMb s = some mb →
    (let op := cmdOp (s.mbox mb).cmd
     let eight := [0x0001, 0x0703, 0x060A, 0x0604, 0x0607, 0x060B, 0x060C, 0x060D]
     (s.flt.c4 = false → s.flt.bstop = false → s.boot.level = .limp → s.boot.lehrLimp = true →
       (op ∉ eight → ∃ t, exec .mbServeSelect s = .next t ∧ answered s t mb .busy 0 [] ∧ t.gaf.serving = none ∧ t.grp = s.grp ∧ t.boot = s.boot) ∧
       (op ∈ eight → (∀ i, callerTid s mb = some i → s.grp.resetT.contains i = false) → gate s mb op = none ∧
         (commonFail { expireTxs s with gaf := { (expireTxs s).gaf with lastT := if 2 ≤ mb then mb else s.gaf.lastT } } mb = none →
           ∃ t, exec .mbServeSelect s = .next t ∧ t.gaf.serving = some mb))) ∧
     (s.flt.c4 = true → s.flt.bstop = false → ¬ (mb = 0 ∧ op = 0x060A) →
       ∃ t, exec .mbServeSelect s = .next t ∧ answered s t mb .denied 0 [] ∧ t.gaf.serving = none ∧ t.grp = s.grp ∧ t.flt = s.flt))

/-- R309: while block stop holds, no chunk is opened or offered, no piece, step, pass or training wave moves on, nothing goes to memory, and
deliveries and group changes wait, a link that is between beats drives no further beat of a channel, and a link port
sends no item but an ABORT of its own. -/
def Obligations.BlockStopIssuesNothing : Prop :=
  ∀ (s : State) (i n p ch g mb : Nat) (ctx : Bool) (fails : List (LinkDir × List LaneFail)),
    s.flt.bstop = true → i < 16 → n < 512 → p < 6 → ch < 16 → g < 4096 → mb < 72 →
    (∀ c ∈ [Instr.pieceTake i, .stepStart n 0 i, .stepComplete n 0 i, .passStart n, .upChunkOpen g ch, .downOffer .spine ch ctx, .done p, .commit p,
            .poison p, .bumped p, .go p, .poisonDieQuiesce g, .drainEnd g, .drainStuck g, .peerWait g, .txPauseHeld mb,
            .trainingWaveEnd fails, .abortCleanupEnd g],
       c.ok = true → exec c s = .next s) ∧
    pumpMem s i = s ∧ workSched s n = s ∧ admitAll s = s ∧
    ((s.lport p).vcu.cur = [] → takeAbort (s.lport p).vcu = none → (pumpBoth s p).lport p = s.lport p) ∧
    (∀ (d : LinkDir) (u : Beat) (r : List Beat), d.link.ok = true → (s.link d).midKey = ctlKey →
      (tabGet {} (s.link d).tx (chCtx ch ctx)).ready = u :: r →
      ∃ t, exec (.linkGrant d) s = .next t ∧ tabGet {} (t.link d).tx (chCtx ch ctx) = tabGet {} (s.link d).tx (chCtx ch ctx))

/-- Every command leaves the waiting commands alone, and a step takes exactly the front one off: the queue is first in, first out. -/
def Obligations.TheQueueIsFirstInFirstOut : Prop :=
  (∀ (c : Instr) (s t : State), exec c s = .next t → t.pending = s.pending) ∧
  (∀ s t : State, step s = .next t → t.pending = s.pending.tail)

/-- R319: once set, the C4 latch stands through every command but POWER_ON, resets and loss of power included. -/
def Obligations.TheC4LatchStands : Prop :=
  ∀ s t : State, latched s = true → s.pending.head? ≠ some .powerOn → step s = .next t → latched t = true

/-- The model's own form of the tables (log entry 2): every step keeps every table of the state canonical, so that equal contents are equal data
and a number has at most one entry (R189). -/
def Obligations.TablesStayCanonical : Prop :=
  ∀ s t : State, tablesWf s = true → step s = .next t → tablesWf t = true
end

