-- ==== Sys2Proof/Laws/Tab.lean ====
section
/-! SUPPORT. Laws of the sparse tables: what a read answers after a write, and that every operation keeps the canonical form. -/
namespace Sys2Proof.Machine

variable {α : Type} (d : α)

@[simp] theorem tabGet_nil (k : Nat) : tabGet d [] k = d := rfl

@[simp] theorem tabGet_tabPut_same (k : Nat) (v : α) (m : Tab α) : tabGet d (tabPut k v m) k = v := by
  induction m with
  | nil => simp [tabPut, tabGet]
  | cons e r ih =>
    obtain ⟨j, w⟩ := e
    simp only [tabPut]
    split
    · simp [tabGet]
    · split
      · simp [tabGet]
      · next h => simp [tabGet, h, ih]

theorem tabGet_tabPut_ne {k i : Nat} (h : i ≠ k) (v : α) (m : Tab α) : tabGet d (tabPut k v m) i = tabGet d m i := by
  induction m with
  | nil => simp [tabPut, tabGet, h]
  | cons e r ih =>
    obtain ⟨j, w⟩ := e
    simp only [tabPut]
    split
    · simp [tabGet, h]
    · split
      · next hj => subst hj; simp [tabGet, h]
      · simp [tabGet, ih]

@[simp] theorem tabGet_tabDel_same (k : Nat) (m : Tab α) : tabGet d (tabDel k m) k = d := by
  induction m with
  | nil => rfl
  | cons e r ih =>
    obtain ⟨j, w⟩ := e
    simp only [tabDel]
    split
    · exact ih
    · next h => simp [tabGet, h, ih]

theorem tabGet_tabDel_ne {k i : Nat} (h : i ≠ k) (m : Tab α) : tabGet d (tabDel k m) i = tabGet d m i := by
  induction m with
  | nil => rfl
  | cons e r ih =>
    obtain ⟨j, w⟩ := e
    simp only [tabDel]
    split
    · next hj => subst hj; simp [tabGet, h, ih]
    · simp [tabGet, ih]

section
variable [DecidableEq α]

/-- A read after a write to the same key gives what was written. -/
@[simp] theorem tabGet_tabSet_same (m : Tab α) (k : Nat) (v : α) : tabGet d (tabSet d m k v) k = v := by
  unfold tabSet
  split
  · next h => simp [h]
  · simp

/-- A write leaves every other key alone. -/
theorem tabGet_tabSet_ne {k i : Nat} (h : i ≠ k) (m : Tab α) (v : α) : tabGet d (tabSet d m k v) i = tabGet d m i := by
  unfold tabSet
  split
  · exact tabGet_tabDel_ne d h m
  · exact tabGet_tabPut_ne d h v m

@[simp] theorem tabGet_tabMod_same (m : Tab α) (k : Nat) (f : α → α) : tabGet d (tabMod d m k f) k = f (tabGet d m k) := by
  simp [tabMod]

theorem tabGet_tabMod_ne {k i : Nat} (h : i ≠ k) (m : Tab α) (f : α → α) : tabGet d (tabMod d m k f) i = tabGet d m i := by
  simp [tabMod, tabGet_tabSet_ne d h]

theorem tabWfFrom_mono {a b : Nat} (h : a ≤ b) {m : Tab α} (w : tabWfFrom d b m = true) : tabWfFrom d a m = true := by
  cases m with
  | nil => rfl
  | cons e r =>
    obtain ⟨j, v⟩ := e
    simp [tabWfFrom] at w ⊢
    exact ⟨⟨by omega, w.1.2⟩, w.2⟩

theorem tabWfFrom_tabPut {b k : Nat} {v : α} (hv : v ≠ d) (hb : b ≤ k) {m : Tab α} (w : tabWfFrom d b m = true) :
    tabWfFrom d b (tabPut k v m) = true := by
  induction m generalizing b with
  | nil => simp [tabPut, tabWfFrom, hv, hb]
  | cons e r ih =>
    obtain ⟨j, u⟩ := e
    simp [tabWfFrom] at w
    simp only [tabPut]
    split
    · simp [tabWfFrom, hb, hv, w.1.2, w.2]; omega
    · split
      · next h => subst h; simp [tabWfFrom, hb, hv, w.2]
      · simp [tabWfFrom, w.1]
        exact ih (by omega) w.2

theorem tabWfFrom_tabDel {b : Nat} (k : Nat) {m : Tab α} (w : tabWfFrom d b m = true) : tabWfFrom d b (tabDel k m) = true := by
  induction m generalizing b with
  | nil => rfl
  | cons e r ih =>
    obtain ⟨j, u⟩ := e
    simp [tabWfFrom] at w
    simp only [tabDel]
    split
    · exact ih (tabWfFrom_mono d (by omega) w.2)
    · simp [tabWfFrom, w.1]
      exact ih w.2

/-- A write keeps the canonical form. -/
theorem tabWf_tabSet {m : Tab α} (w : tabWf d m = true) (k : Nat) (v : α) : tabWf d (tabSet d m k v) = true := by
  unfold tabSet
  split
  · exact tabWfFrom_tabDel d k w
  · next h => exact tabWfFrom_tabPut d h (Nat.zero_le k) w

theorem tabWf_tabMod {m : Tab α} (w : tabWf d m = true) (k : Nat) (f : α → α) : tabWf d (tabMod d m k f) = true :=
  tabWf_tabSet d w k _

theorem tabWfFrom_tabMap {b : Nat} (f : Nat → α → α) {m : Tab α} (w : tabWfFrom d b m = true) : tabWfFrom d b (tabMap d f m) = true := by
  induction m generalizing b with
  | nil => rfl
  | cons e r ih =>
    obtain ⟨j, u⟩ := e
    simp [tabWfFrom] at w
    simp only [tabMap]
    split
    · exact ih (tabWfFrom_mono d (by omega) w.2)
    · next h => simp [tabWfFrom, w.1.1, h]; exact ih w.2

/-- A change of every listed entry keeps the canonical form. -/
theorem tabWf_tabMap {m : Tab α} (w : tabWf d m = true) (f : Nat → α → α) : tabWf d (tabMap d f m) = true := tabWfFrom_tabMap d f w

theorem tabWfFrom_filter {b : Nat} (p : Nat × α → Bool) {m : Tab α} (w : tabWfFrom d b m = true) : tabWfFrom d b (m.filter p) = true := by
  induction m generalizing b with
  | nil => rfl
  | cons e r ih =>
    obtain ⟨j, u⟩ := e
    simp [tabWfFrom] at w
    simp only [List.filter]
    split
    · simp [tabWfFrom, w.1]; exact ih w.2
    · exact ih (tabWfFrom_mono d (by omega) w.2)

/-- Dropping entries keeps the canonical form. -/
theorem tabWf_filter {m : Tab α} (w : tabWf d m = true) (p : Nat × α → Bool) : tabWf d (m.filter p) = true := tabWfFrom_filter d p w

/-- Two tables in canonical form that read alike are equal data. -/
theorem tabGet_below {b k : Nat} {m : Tab α} (w : tabWfFrom d b m = true) (h : k < b) : tabGet d m k = d := by
  induction m generalizing b with
  | nil => rfl
  | cons e r ih =>
    obtain ⟨j, u⟩ := e
    simp [tabWfFrom] at w
    have hk : k ≠ j := by omega
    simp [tabGet, hk]
    exact ih w.2 (by omega)

end
end Sys2Proof.Machine
end

