-- ==== Sys2Proof/Laws/State.lean ====
section
/-! SUPPORT. One lemma per field per update of the state, so that no later proof unfolds a record update. -/
namespace Sys2Proof.Machine

variable (s : State)

/-! ## modPort -/

@[simp] theorem modPort_tb (k : Nat) (f : CorePort → CorePort) : (s.modPort k f).tb = s.tb := rfl
@[simp] theorem modPort_freeCtr (k : Nat) (f : CorePort → CorePort) : (s.modPort k f).freeCtr = s.freeCtr := rfl
@[simp] theorem modPort_boot (k : Nat) (f : CorePort → CorePort) : (s.modPort k f).boot = s.boot := rfl
@[simp] theorem modPort_fab (k : Nat) (f : CorePort → CorePort) : (s.modPort k f).fab = s.fab := rfl
@[simp] theorem modPort_sync (k : Nat) (f : CorePort → CorePort) : (s.modPort k f).sync = s.sync := rfl
@[simp] theorem modPort_cane (k : Nat) (f : CorePort → CorePort) : (s.modPort k f).cane = s.cane := rfl
@[simp] theorem modPort_grp (k : Nat) (f : CorePort → CorePort) : (s.modPort k f).grp = s.grp := rfl
@[simp] theorem modPort_mrv (k : Nat) (f : CorePort → CorePort) : (s.modPort k f).mrv = s.mrv := rfl
@[simp] theorem modPort_lps (k : Nat) (f : CorePort → CorePort) : (s.modPort k f).lps = s.lps := rfl
@[simp] theorem modPort_flt (k : Nat) (f : CorePort → CorePort) : (s.modPort k f).flt = s.flt := rfl
@[simp] theorem modPort_gaf (k : Nat) (f : CorePort → CorePort) : (s.modPort k f).gaf = s.gaf := rfl
@[simp] theorem modPort_lehr (k : Nat) (f : CorePort → CorePort) : (s.modPort k f).lehr = s.lehr := rfl
@[simp] theorem modPort_host (k : Nat) (f : CorePort → CorePort) : (s.modPort k f).host = s.host := rfl
@[simp] theorem modPort_test (k : Nat) (f : CorePort → CorePort) : (s.modPort k f).test = s.test := rfl
@[simp] theorem modPort_pending (k : Nat) (f : CorePort → CorePort) : (s.modPort k f).pending = s.pending := rfl
@[simp] theorem modPort_get_group (k : Nat) (f : CorePort → CorePort) (g' : Nat) : (s.modPort k f).group g' = s.group g' := rfl
@[simp] theorem modPort_get_obj (k : Nat) (f : CorePort → CorePort) (i' : Nat) : (s.modPort k f).obj i' = s.obj i' := rfl
@[simp] theorem modPort_get_cchan (k : Nat) (f : CorePort → CorePort) (c' : Nat) : (s.modPort k f).cchan c' = s.cchan c' := rfl
@[simp] theorem modPort_get_tenant (k : Nat) (f : CorePort → CorePort) (t' : Nat) : (s.modPort k f).tenant t' = s.tenant t' := rfl
@[simp] theorem modPort_get_mbox (k : Nat) (f : CorePort → CorePort) (m' : Nat) : (s.modPort k f).mbox m' = s.mbox m' := rfl
@[simp] theorem modPort_get_slot (k : Nat) (f : CorePort → CorePort) (n' : Nat) : (s.modPort k f).slot n' = s.slot n' := rfl
@[simp] theorem modPort_get_sched (k : Nat) (f : CorePort → CorePort) (n' : Nat) : (s.modPort k f).sched n' = s.sched n' := rfl
@[simp] theorem modPort_get_mport (k : Nat) (f : CorePort → CorePort) (n' : Nat) : (s.modPort k f).mport n' = s.mport n' := rfl
@[simp] theorem modPort_get_sliceOf (k : Nat) (f : CorePort → CorePort) (i' : Nat) : (s.modPort k f).sliceOf i' = s.sliceOf i' := rfl
@[simp] theorem modPort_get_lport (k : Nat) (f : CorePort → CorePort) (p' : Nat) : (s.modPort k f).lport p' = s.lport p' := rfl
@[simp] theorem modPort_get_link (k : Nat) (f : CorePort → CorePort) (d' : LinkDir) : (s.modPort k f).link d' = s.link d' := rfl
@[simp] theorem modPort_get_node (k : Nat) (f : CorePort → CorePort) (n' : NodeId) : (s.modPort k f).node n' = s.node n' := rfl
@[simp] theorem modPort_get_nchan (k : Nat) (f : CorePort → CorePort) (n' : NodeId) (h' : Nat) (x' : Bool) : (s.modPort k f).nchan n' h' x' = s.nchan n' h' x' := rfl
@[simp] theorem modPort_get_maskOf (k : Nat) (f : CorePort → CorePort) (n' : NodeId) (g' : Nat) : (s.modPort k f).maskOf n' g' = s.maskOf n' g' := rfl
@[simp] theorem modPort_get_rehome (k : Nat) (f : CorePort → CorePort) (b' : Nat) : (s.modPort k f).rehome b' = s.rehome b' := rfl

/-! ## modGroup -/

@[simp] theorem modGroup_tb (g : Nat) (f : Group → Group) : (s.modGroup g f).tb = s.tb := rfl
@[simp] theorem modGroup_freeCtr (g : Nat) (f : Group → Group) : (s.modGroup g f).freeCtr = s.freeCtr := rfl
@[simp] theorem modGroup_boot (g : Nat) (f : Group → Group) : (s.modGroup g f).boot = s.boot := rfl
@[simp] theorem modGroup_fab (g : Nat) (f : Group → Group) : (s.modGroup g f).fab = s.fab := rfl
@[simp] theorem modGroup_sync (g : Nat) (f : Group → Group) : (s.modGroup g f).sync = s.sync := rfl
@[simp] theorem modGroup_cane (g : Nat) (f : Group → Group) : (s.modGroup g f).cane = s.cane := rfl
@[simp] theorem modGroup_ports (g : Nat) (f : Group → Group) : (s.modGroup g f).ports = s.ports := rfl
@[simp] theorem modGroup_mrv (g : Nat) (f : Group → Group) : (s.modGroup g f).mrv = s.mrv := rfl
@[simp] theorem modGroup_lps (g : Nat) (f : Group → Group) : (s.modGroup g f).lps = s.lps := rfl
@[simp] theorem modGroup_flt (g : Nat) (f : Group → Group) : (s.modGroup g f).flt = s.flt := rfl
@[simp] theorem modGroup_gaf (g : Nat) (f : Group → Group) : (s.modGroup g f).gaf = s.gaf := rfl
@[simp] theorem modGroup_lehr (g : Nat) (f : Group → Group) : (s.modGroup g f).lehr = s.lehr := rfl
@[simp] theorem modGroup_host (g : Nat) (f : Group → Group) : (s.modGroup g f).host = s.host := rfl
@[simp] theorem modGroup_test (g : Nat) (f : Group → Group) : (s.modGroup g f).test = s.test := rfl
@[simp] theorem modGroup_pending (g : Nat) (f : Group → Group) : (s.modGroup g f).pending = s.pending := rfl
@[simp] theorem modGroup_grp_tasks (g : Nat) (f : Group → Group) : (s.modGroup g f).grp.tasks = s.grp.tasks := rfl
@[simp] theorem modGroup_grp_tenants (g : Nat) (f : Group → Group) : (s.modGroup g f).grp.tenants = s.grp.tenants := rfl
@[simp] theorem modGroup_grp_chGrant (g : Nat) (f : Group → Group) : (s.modGroup g f).grp.chGrant = s.grp.chGrant := rfl
@[simp] theorem modGroup_grp_caneGrant (g : Nat) (f : Group → Group) : (s.modGroup g f).grp.caneGrant = s.grp.caneGrant := rfl
@[simp] theorem modGroup_grp_soGrant (g : Nat) (f : Group → Group) : (s.modGroup g f).grp.soGrant = s.grp.soGrant := rfl
@[simp] theorem modGroup_grp_slotGrant (g : Nat) (f : Group → Group) : (s.modGroup g f).grp.slotGrant = s.grp.slotGrant := rfl
@[simp] theorem modGroup_grp_pseq (g : Nat) (f : Group → Group) : (s.modGroup g f).grp.pseq = s.grp.pseq := rfl
@[simp] theorem modGroup_grp_prop (g : Nat) (f : Group → Group) : (s.modGroup g f).grp.prop = s.grp.prop := rfl
@[simp] theorem modGroup_grp_propOut (g : Nat) (f : Group → Group) : (s.modGroup g f).grp.propOut = s.grp.propOut := rfl
@[simp] theorem modGroup_grp_vcbW (g : Nat) (f : Group → Group) : (s.modGroup g f).grp.vcbW = s.grp.vcbW := rfl
@[simp] theorem modGroup_grp_lclass (g : Nat) (f : Group → Group) : (s.modGroup g f).grp.lclass = s.grp.lclass := rfl
@[simp] theorem modGroup_grp_resetT (g : Nat) (f : Group → Group) : (s.modGroup g f).grp.resetT = s.grp.resetT := rfl
@[simp] theorem modGroup_get_port (g : Nat) (f : Group → Group) (k' : Nat) : (s.modGroup g f).port k' = s.port k' := rfl
@[simp] theorem modGroup_get_obj (g : Nat) (f : Group → Group) (i' : Nat) : (s.modGroup g f).obj i' = s.obj i' := rfl
@[simp] theorem modGroup_get_cchan (g : Nat) (f : Group → Group) (c' : Nat) : (s.modGroup g f).cchan c' = s.cchan c' := rfl
@[simp] theorem modGroup_get_tenant (g : Nat) (f : Group → Group) (t' : Nat) : (s.modGroup g f).tenant t' = s.tenant t' := rfl
@[simp] theorem modGroup_get_mbox (g : Nat) (f : Group → Group) (m' : Nat) : (s.modGroup g f).mbox m' = s.mbox m' := rfl
@[simp] theorem modGroup_get_slot (g : Nat) (f : Group → Group) (n' : Nat) : (s.modGroup g f).slot n' = s.slot n' := rfl
@[simp] theorem modGroup_get_sched (g : Nat) (f : Group → Group) (n' : Nat) : (s.modGroup g f).sched n' = s.sched n' := rfl
@[simp] theorem modGroup_get_mport (g : Nat) (f : Group → Group) (n' : Nat) : (s.modGroup g f).mport n' = s.mport n' := rfl
@[simp] theorem modGroup_get_sliceOf (g : Nat) (f : Group → Group) (i' : Nat) : (s.modGroup g f).sliceOf i' = s.sliceOf i' := rfl
@[simp] theorem modGroup_get_lport (g : Nat) (f : Group → Group) (p' : Nat) : (s.modGroup g f).lport p' = s.lport p' := rfl
@[simp] theorem modGroup_get_link (g : Nat) (f : Group → Group) (d' : LinkDir) : (s.modGroup g f).link d' = s.link d' := rfl
@[simp] theorem modGroup_get_node (g : Nat) (f : Group → Group) (n' : NodeId) : (s.modGroup g f).node n' = s.node n' := rfl
@[simp] theorem modGroup_get_nchan (g : Nat) (f : Group → Group) (n' : NodeId) (h' : Nat) (x' : Bool) : (s.modGroup g f).nchan n' h' x' = s.nchan n' h' x' := rfl
@[simp] theorem modGroup_get_maskOf (g : Nat) (f : Group → Group) (n' : NodeId) (g' : Nat) : (s.modGroup g f).maskOf n' g' = s.maskOf n' g' := rfl
@[simp] theorem modGroup_get_rehome (g : Nat) (f : Group → Group) (b' : Nat) : (s.modGroup g f).rehome b' = s.rehome b' := rfl

/-! ## modObj -/

@[simp] theorem modObj_tb (i : Nat) (f : SyncObj → SyncObj) : (s.modObj i f).tb = s.tb := rfl
@[simp] theorem modObj_freeCtr (i : Nat) (f : SyncObj → SyncObj) : (s.modObj i f).freeCtr = s.freeCtr := rfl
@[simp] theorem modObj_boot (i : Nat) (f : SyncObj → SyncObj) : (s.modObj i f).boot = s.boot := rfl
@[simp] theorem modObj_fab (i : Nat) (f : SyncObj → SyncObj) : (s.modObj i f).fab = s.fab := rfl
@[simp] theorem modObj_cane (i : Nat) (f : SyncObj → SyncObj) : (s.modObj i f).cane = s.cane := rfl
@[simp] theorem modObj_ports (i : Nat) (f : SyncObj → SyncObj) : (s.modObj i f).ports = s.ports := rfl
@[simp] theorem modObj_grp (i : Nat) (f : SyncObj → SyncObj) : (s.modObj i f).grp = s.grp := rfl
@[simp] theorem modObj_mrv (i : Nat) (f : SyncObj → SyncObj) : (s.modObj i f).mrv = s.mrv := rfl
@[simp] theorem modObj_lps (i : Nat) (f : SyncObj → SyncObj) : (s.modObj i f).lps = s.lps := rfl
@[simp] theorem modObj_flt (i : Nat) (f : SyncObj → SyncObj) : (s.modObj i f).flt = s.flt := rfl
@[simp] theorem modObj_gaf (i : Nat) (f : SyncObj → SyncObj) : (s.modObj i f).gaf = s.gaf := rfl
@[simp] theorem modObj_lehr (i : Nat) (f : SyncObj → SyncObj) : (s.modObj i f).lehr = s.lehr := rfl
@[simp] theorem modObj_host (i : Nat) (f : SyncObj → SyncObj) : (s.modObj i f).host = s.host := rfl
@[simp] theorem modObj_test (i : Nat) (f : SyncObj → SyncObj) : (s.modObj i f).test = s.test := rfl
@[simp] theorem modObj_pending (i : Nat) (f : SyncObj → SyncObj) : (s.modObj i f).pending = s.pending := rfl
@[simp] theorem modObj_sync_ops (i : Nat) (f : SyncObj → SyncObj) : (s.modObj i f).sync.ops = s.sync.ops := rfl
@[simp] theorem modObj_sync_notices (i : Nat) (f : SyncObj → SyncObj) : (s.modObj i f).sync.notices = s.sync.notices := rfl
@[simp] theorem modObj_sync_trig (i : Nat) (f : SyncObj → SyncObj) : (s.modObj i f).sync.trig = s.sync.trig := rfl
@[simp] theorem modObj_get_port (i : Nat) (f : SyncObj → SyncObj) (k' : Nat) : (s.modObj i f).port k' = s.port k' := rfl
@[simp] theorem modObj_get_group (i : Nat) (f : SyncObj → SyncObj) (g' : Nat) : (s.modObj i f).group g' = s.group g' := rfl
@[simp] theorem modObj_get_cchan (i : Nat) (f : SyncObj → SyncObj) (c' : Nat) : (s.modObj i f).cchan c' = s.cchan c' := rfl
@[simp] theorem modObj_get_tenant (i : Nat) (f : SyncObj → SyncObj) (t' : Nat) : (s.modObj i f).tenant t' = s.tenant t' := rfl
@[simp] theorem modObj_get_mbox (i : Nat) (f : SyncObj → SyncObj) (m' : Nat) : (s.modObj i f).mbox m' = s.mbox m' := rfl
@[simp] theorem modObj_get_slot (i : Nat) (f : SyncObj → SyncObj) (n' : Nat) : (s.modObj i f).slot n' = s.slot n' := rfl
@[simp] theorem modObj_get_sched (i : Nat) (f : SyncObj → SyncObj) (n' : Nat) : (s.modObj i f).sched n' = s.sched n' := rfl
@[simp] theorem modObj_get_mport (i : Nat) (f : SyncObj → SyncObj) (n' : Nat) : (s.modObj i f).mport n' = s.mport n' := rfl
@[simp] theorem modObj_get_sliceOf (i : Nat) (f : SyncObj → SyncObj) (i' : Nat) : (s.modObj i f).sliceOf i' = s.sliceOf i' := rfl
@[simp] theorem modObj_get_lport (i : Nat) (f : SyncObj → SyncObj) (p' : Nat) : (s.modObj i f).lport p' = s.lport p' := rfl
@[simp] theorem modObj_get_link (i : Nat) (f : SyncObj → SyncObj) (d' : LinkDir) : (s.modObj i f).link d' = s.link d' := rfl
@[simp] theorem modObj_get_node (i : Nat) (f : SyncObj → SyncObj) (n' : NodeId) : (s.modObj i f).node n' = s.node n' := rfl
@[simp] theorem modObj_get_nchan (i : Nat) (f : SyncObj → SyncObj) (n' : NodeId) (h' : Nat) (x' : Bool) : (s.modObj i f).nchan n' h' x' = s.nchan n' h' x' := rfl
@[simp] theorem modObj_get_maskOf (i : Nat) (f : SyncObj → SyncObj) (n' : NodeId) (g' : Nat) : (s.modObj i f).maskOf n' g' = s.maskOf n' g' := rfl
@[simp] theorem modObj_get_rehome (i : Nat) (f : SyncObj → SyncObj) (b' : Nat) : (s.modObj i f).rehome b' = s.rehome b' := rfl

/-! ## modCchan -/

@[simp] theorem modCchan_tb (cn : Nat) (f : CaneChan → CaneChan) : (s.modCchan cn f).tb = s.tb := rfl
@[simp] theorem modCchan_freeCtr (cn : Nat) (f : CaneChan → CaneChan) : (s.modCchan cn f).freeCtr = s.freeCtr := rfl
@[simp] theorem modCchan_boot (cn : Nat) (f : CaneChan → CaneChan) : (s.modCchan cn f).boot = s.boot := rfl
@[simp] theorem modCchan_fab (cn : Nat) (f : CaneChan → CaneChan) : (s.modCchan cn f).fab = s.fab := rfl
@[simp] theorem modCchan_sync (cn : Nat) (f : CaneChan → CaneChan) : (s.modCchan cn f).sync = s.sync := rfl
@[simp] theorem modCchan_ports (cn : Nat) (f : CaneChan → CaneChan) : (s.modCchan cn f).ports = s.ports := rfl
@[simp] theorem modCchan_grp (cn : Nat) (f : CaneChan → CaneChan) : (s.modCchan cn f).grp = s.grp := rfl
@[simp] theorem modCchan_mrv (cn : Nat) (f : CaneChan → CaneChan) : (s.modCchan cn f).mrv = s.mrv := rfl
@[simp] theorem modCchan_lps (cn : Nat) (f : CaneChan → CaneChan) : (s.modCchan cn f).lps = s.lps := rfl
@[simp] theorem modCchan_flt (cn : Nat) (f : CaneChan → CaneChan) : (s.modCchan cn f).flt = s.flt := rfl
@[simp] theorem modCchan_gaf (cn : Nat) (f : CaneChan → CaneChan) : (s.modCchan cn f).gaf = s.gaf := rfl
@[simp] theorem modCchan_lehr (cn : Nat) (f : CaneChan → CaneChan) : (s.modCchan cn f).lehr = s.lehr := rfl
@[simp] theorem modCchan_host (cn : Nat) (f : CaneChan → CaneChan) : (s.modCchan cn f).host = s.host := rfl
@[simp] theorem modCchan_test (cn : Nat) (f : CaneChan → CaneChan) : (s.modCchan cn f).test = s.test := rfl
@[simp] theorem modCchan_pending (cn : Nat) (f : CaneChan → CaneChan) : (s.modCchan cn f).pending = s.pending := rfl
@[simp] theorem modCchan_cane_rel (cn : Nat) (f : CaneChan → CaneChan) : (s.modCchan cn f).cane.rel = s.cane.rel := rfl
@[simp] theorem modCchan_cane_flags (cn : Nat) (f : CaneChan → CaneChan) : (s.modCchan cn f).cane.flags = s.cane.flags := rfl
@[simp] theorem modCchan_cane_bootBar (cn : Nat) (f : CaneChan → CaneChan) : (s.modCchan cn f).cane.bootBar = s.cane.bootBar := rfl
@[simp] theorem modCchan_get_port (cn : Nat) (f : CaneChan → CaneChan) (k' : Nat) : (s.modCchan cn f).port k' = s.port k' := rfl
@[simp] theorem modCchan_get_group (cn : Nat) (f : CaneChan → CaneChan) (g' : Nat) : (s.modCchan cn f).group g' = s.group g' := rfl
@[simp] theorem modCchan_get_obj (cn : Nat) (f : CaneChan → CaneChan) (i' : Nat) : (s.modCchan cn f).obj i' = s.obj i' := rfl
@[simp] theorem modCchan_get_tenant (cn : Nat) (f : CaneChan → CaneChan) (t' : Nat) : (s.modCchan cn f).tenant t' = s.tenant t' := rfl
@[simp] theorem modCchan_get_mbox (cn : Nat) (f : CaneChan → CaneChan) (m' : Nat) : (s.modCchan cn f).mbox m' = s.mbox m' := rfl
@[simp] theorem modCchan_get_slot (cn : Nat) (f : CaneChan → CaneChan) (n' : Nat) : (s.modCchan cn f).slot n' = s.slot n' := rfl
@[simp] theorem modCchan_get_sched (cn : Nat) (f : CaneChan → CaneChan) (n' : Nat) : (s.modCchan cn f).sched n' = s.sched n' := rfl
@[simp] theorem modCchan_get_mport (cn : Nat) (f : CaneChan → CaneChan) (n' : Nat) : (s.modCchan cn f).mport n' = s.mport n' := rfl
@[simp] theorem modCchan_get_sliceOf (cn : Nat) (f : CaneChan → CaneChan) (i' : Nat) : (s.modCchan cn f).sliceOf i' = s.sliceOf i' := rfl
@[simp] theorem modCchan_get_lport (cn : Nat) (f : CaneChan → CaneChan) (p' : Nat) : (s.modCchan cn f).lport p' = s.lport p' := rfl
@[simp] theorem modCchan_get_link (cn : Nat) (f : CaneChan → CaneChan) (d' : LinkDir) : (s.modCchan cn f).link d' = s.link d' := rfl
@[simp] theorem modCchan_get_node (cn : Nat) (f : CaneChan → CaneChan) (n' : NodeId) : (s.modCchan cn f).node n' = s.node n' := rfl
@[simp] theorem modCchan_get_nchan (cn : Nat) (f : CaneChan → CaneChan) (n' : NodeId) (h' : Nat) (x' : Bool) : (s.modCchan cn f).nchan n' h' x' = s.nchan n' h' x' := rfl
@[simp] theorem modCchan_get_maskOf (cn : Nat) (f : CaneChan → CaneChan) (n' : NodeId) (g' : Nat) : (s.modCchan cn f).maskOf n' g' = s.maskOf n' g' := rfl
@[simp] theorem modCchan_get_rehome (cn : Nat) (f : CaneChan → CaneChan) (b' : Nat) : (s.modCchan cn f).rehome b' = s.rehome b' := rfl

/-! ## modTenant -/

@[simp] theorem modTenant_tb (t : Nat) (f : Tenant → Tenant) : (s.modTenant t f).tb = s.tb := rfl
@[simp] theorem modTenant_freeCtr (t : Nat) (f : Tenant → Tenant) : (s.modTenant t f).freeCtr = s.freeCtr := rfl
@[simp] theorem modTenant_boot (t : Nat) (f : Tenant → Tenant) : (s.modTenant t f).boot = s.boot := rfl
@[simp] theorem modTenant_fab (t : Nat) (f : Tenant → Tenant) : (s.modTenant t f).fab = s.fab := rfl
@[simp] theorem modTenant_sync (t : Nat) (f : Tenant → Tenant) : (s.modTenant t f).sync = s.sync := rfl
@[simp] theorem modTenant_cane (t : Nat) (f : Tenant → Tenant) : (s.modTenant t f).cane = s.cane := rfl
@[simp] theorem modTenant_ports (t : Nat) (f : Tenant → Tenant) : (s.modTenant t f).ports = s.ports := rfl
@[simp] theorem modTenant_mrv (t : Nat) (f : Tenant → Tenant) : (s.modTenant t f).mrv = s.mrv := rfl
@[simp] theorem modTenant_lps (t : Nat) (f : Tenant → Tenant) : (s.modTenant t f).lps = s.lps := rfl
@[simp] theorem modTenant_flt (t : Nat) (f : Tenant → Tenant) : (s.modTenant t f).flt = s.flt := rfl
@[simp] theorem modTenant_gaf (t : Nat) (f : Tenant → Tenant) : (s.modTenant t f).gaf = s.gaf := rfl
@[simp] theorem modTenant_lehr (t : Nat) (f : Tenant → Tenant) : (s.modTenant t f).lehr = s.lehr := rfl
@[simp] theorem modTenant_host (t : Nat) (f : Tenant → Tenant) : (s.modTenant t f).host = s.host := rfl
@[simp] theorem modTenant_test (t : Nat) (f : Tenant → Tenant) : (s.modTenant t f).test = s.test := rfl
@[simp] theorem modTenant_pending (t : Nat) (f : Tenant → Tenant) : (s.modTenant t f).pending = s.pending := rfl
@[simp] theorem modTenant_grp_groups (t : Nat) (f : Tenant → Tenant) : (s.modTenant t f).grp.groups = s.grp.groups := rfl
@[simp] theorem modTenant_grp_tasks (t : Nat) (f : Tenant → Tenant) : (s.modTenant t f).grp.tasks = s.grp.tasks := rfl
@[simp] theorem modTenant_grp_chGrant (t : Nat) (f : Tenant → Tenant) : (s.modTenant t f).grp.chGrant = s.grp.chGrant := rfl
@[simp] theorem modTenant_grp_caneGrant (t : Nat) (f : Tenant → Tenant) : (s.modTenant t f).grp.caneGrant = s.grp.caneGrant := rfl
@[simp] theorem modTenant_grp_soGrant (t : Nat) (f : Tenant → Tenant) : (s.modTenant t f).grp.soGrant = s.grp.soGrant := rfl
@[simp] theorem modTenant_grp_slotGrant (t : Nat) (f : Tenant → Tenant) : (s.modTenant t f).grp.slotGrant = s.grp.slotGrant := rfl
@[simp] theorem modTenant_grp_pseq (t : Nat) (f : Tenant → Tenant) : (s.modTenant t f).grp.pseq = s.grp.pseq := rfl
@[simp] theorem modTenant_grp_prop (t : Nat) (f : Tenant → Tenant) : (s.modTenant t f).grp.prop = s.grp.prop := rfl
@[simp] theorem modTenant_grp_propOut (t : Nat) (f : Tenant → Tenant) : (s.modTenant t f).grp.propOut = s.grp.propOut := rfl
@[simp] theorem modTenant_grp_vcbW (t : Nat) (f : Tenant → Tenant) : (s.modTenant t f).grp.vcbW = s.grp.vcbW := rfl
@[simp] theorem modTenant_grp_lclass (t : Nat) (f : Tenant → Tenant) : (s.modTenant t f).grp.lclass = s.grp.lclass := rfl
@[simp] theorem modTenant_grp_resetT (t : Nat) (f : Tenant → Tenant) : (s.modTenant t f).grp.resetT = s.grp.resetT := rfl
@[simp] theorem modTenant_get_port (t : Nat) (f : Tenant → Tenant) (k' : Nat) : (s.modTenant t f).port k' = s.port k' := rfl
@[simp] theorem modTenant_get_group (t : Nat) (f : Tenant → Tenant) (g' : Nat) : (s.modTenant t f).group g' = s.group g' := rfl
@[simp] theorem modTenant_get_obj (t : Nat) (f : Tenant → Tenant) (i' : Nat) : (s.modTenant t f).obj i' = s.obj i' := rfl
@[simp] theorem modTenant_get_cchan (t : Nat) (f : Tenant → Tenant) (c' : Nat) : (s.modTenant t f).cchan c' = s.cchan c' := rfl
@[simp] theorem modTenant_get_mbox (t : Nat) (f : Tenant → Tenant) (m' : Nat) : (s.modTenant t f).mbox m' = s.mbox m' := rfl
@[simp] theorem modTenant_get_slot (t : Nat) (f : Tenant → Tenant) (n' : Nat) : (s.modTenant t f).slot n' = s.slot n' := rfl
@[simp] theorem modTenant_get_sched (t : Nat) (f : Tenant → Tenant) (n' : Nat) : (s.modTenant t f).sched n' = s.sched n' := rfl
@[simp] theorem modTenant_get_mport (t : Nat) (f : Tenant → Tenant) (n' : Nat) : (s.modTenant t f).mport n' = s.mport n' := rfl
@[simp] theorem modTenant_get_sliceOf (t : Nat) (f : Tenant → Tenant) (i' : Nat) : (s.modTenant t f).sliceOf i' = s.sliceOf i' := rfl
@[simp] theorem modTenant_get_lport (t : Nat) (f : Tenant → Tenant) (p' : Nat) : (s.modTenant t f).lport p' = s.lport p' := rfl
@[simp] theorem modTenant_get_link (t : Nat) (f : Tenant → Tenant) (d' : LinkDir) : (s.modTenant t f).link d' = s.link d' := rfl
@[simp] theorem modTenant_get_node (t : Nat) (f : Tenant → Tenant) (n' : NodeId) : (s.modTenant t f).node n' = s.node n' := rfl
@[simp] theorem modTenant_get_nchan (t : Nat) (f : Tenant → Tenant) (n' : NodeId) (h' : Nat) (x' : Bool) : (s.modTenant t f).nchan n' h' x' = s.nchan n' h' x' := rfl
@[simp] theorem modTenant_get_maskOf (t : Nat) (f : Tenant → Tenant) (n' : NodeId) (g' : Nat) : (s.modTenant t f).maskOf n' g' = s.maskOf n' g' := rfl
@[simp] theorem modTenant_get_rehome (t : Nat) (f : Tenant → Tenant) (b' : Nat) : (s.modTenant t f).rehome b' = s.rehome b' := rfl

/-! ## modMbox -/

@[simp] theorem modMbox_tb (m : Nat) (f : Mailbox → Mailbox) : (s.modMbox m f).tb = s.tb := rfl
@[simp] theorem modMbox_freeCtr (m : Nat) (f : Mailbox → Mailbox) : (s.modMbox m f).freeCtr = s.freeCtr := rfl
@[simp] theorem modMbox_boot (m : Nat) (f : Mailbox → Mailbox) : (s.modMbox m f).boot = s.boot := rfl
@[simp] theorem modMbox_fab (m : Nat) (f : Mailbox → Mailbox) : (s.modMbox m f).fab = s.fab := rfl
@[simp] theorem modMbox_sync (m : Nat) (f : Mailbox → Mailbox) : (s.modMbox m f).sync = s.sync := rfl
@[simp] theorem modMbox_cane (m : Nat) (f : Mailbox → Mailbox) : (s.modMbox m f).cane = s.cane := rfl
@[simp] theorem modMbox_ports (m : Nat) (f : Mailbox → Mailbox) : (s.modMbox m f).ports = s.ports := rfl
@[simp] theorem modMbox_grp (m : Nat) (f : Mailbox → Mailbox) : (s.modMbox m f).grp = s.grp := rfl
@[simp] theorem modMbox_mrv (m : Nat) (f : Mailbox → Mailbox) : (s.modMbox m f).mrv = s.mrv := rfl
@[simp] theorem modMbox_lps (m : Nat) (f : Mailbox → Mailbox) : (s.modMbox m f).lps = s.lps := rfl
@[simp] theorem modMbox_flt (m : Nat) (f : Mailbox → Mailbox) : (s.modMbox m f).flt = s.flt := rfl
@[simp] theorem modMbox_lehr (m : Nat) (f : Mailbox → Mailbox) : (s.modMbox m f).lehr = s.lehr := rfl
@[simp] theorem modMbox_host (m : Nat) (f : Mailbox → Mailbox) : (s.modMbox m f).host = s.host := rfl
@[simp] theorem modMbox_test (m : Nat) (f : Mailbox → Mailbox) : (s.modMbox m f).test = s.test := rfl
@[simp] theorem modMbox_pending (m : Nat) (f : Mailbox → Mailbox) : (s.modMbox m f).pending = s.pending := rfl
@[simp] theorem modMbox_gaf_serving (m : Nat) (f : Mailbox → Mailbox) : (s.modMbox m f).gaf.serving = s.gaf.serving := rfl
@[simp] theorem modMbox_gaf_lastT (m : Nat) (f : Mailbox → Mailbox) : (s.modMbox m f).gaf.lastT = s.gaf.lastT := rfl
@[simp] theorem modMbox_gaf_parked (m : Nat) (f : Mailbox → Mailbox) : (s.modMbox m f).gaf.parked = s.gaf.parked := rfl
@[simp] theorem modMbox_gaf_txs (m : Nat) (f : Mailbox → Mailbox) : (s.modMbox m f).gaf.txs = s.gaf.txs := rfl
@[simp] theorem modMbox_gaf_nextTx (m : Nat) (f : Mailbox → Mailbox) : (s.modMbox m f).gaf.nextTx = s.gaf.nextTx := rfl
@[simp] theorem modMbox_gaf_chg (m : Nat) (f : Mailbox → Mailbox) : (s.modMbox m f).gaf.chg = s.gaf.chg := rfl
@[simp] theorem modMbox_gaf_fwRun (m : Nat) (f : Mailbox → Mailbox) : (s.modMbox m f).gaf.fwRun = s.gaf.fwRun := rfl
@[simp] theorem modMbox_gaf_rom (m : Nat) (f : Mailbox → Mailbox) : (s.modMbox m f).gaf.rom = s.gaf.rom := rfl
@[simp] theorem modMbox_gaf_run (m : Nat) (f : Mailbox → Mailbox) : (s.modMbox m f).gaf.run = s.gaf.run := rfl
@[simp] theorem modMbox_gaf_build (m : Nat) (f : Mailbox → Mailbox) : (s.modMbox m f).gaf.build = s.gaf.build := rfl
@[simp] theorem modMbox_gaf_vmin (m : Nat) (f : Mailbox → Mailbox) : (s.modMbox m f).gaf.vmin = s.gaf.vmin := rfl
@[simp] theorem modMbox_gaf_vmaj (m : Nat) (f : Mailbox → Mailbox) : (s.modMbox m f).gaf.vmaj = s.gaf.vmaj := rfl
@[simp] theorem modMbox_gaf_restart (m : Nat) (f : Mailbox → Mailbox) : (s.modMbox m f).gaf.restart = s.gaf.restart := rfl
@[simp] theorem modMbox_gaf_upd (m : Nat) (f : Mailbox → Mailbox) : (s.modMbox m f).gaf.upd = s.gaf.upd := rfl
@[simp] theorem modMbox_gaf_secOut (m : Nat) (f : Mailbox → Mailbox) : (s.modMbox m f).gaf.secOut = s.gaf.secOut := rfl
@[simp] theorem modMbox_gaf_lehrW (m : Nat) (f : Mailbox → Mailbox) : (s.modMbox m f).gaf.lehrW = s.gaf.lehrW := rfl
@[simp] theorem modMbox_get_port (m : Nat) (f : Mailbox → Mailbox) (k' : Nat) : (s.modMbox m f).port k' = s.port k' := rfl
@[simp] theorem modMbox_get_group (m : Nat) (f : Mailbox → Mailbox) (g' : Nat) : (s.modMbox m f).group g' = s.group g' := rfl
@[simp] theorem modMbox_get_obj (m : Nat) (f : Mailbox → Mailbox) (i' : Nat) : (s.modMbox m f).obj i' = s.obj i' := rfl
@[simp] theorem modMbox_get_cchan (m : Nat) (f : Mailbox → Mailbox) (c' : Nat) : (s.modMbox m f).cchan c' = s.cchan c' := rfl
@[simp] theorem modMbox_get_tenant (m : Nat) (f : Mailbox → Mailbox) (t' : Nat) : (s.modMbox m f).tenant t' = s.tenant t' := rfl
@[simp] theorem modMbox_get_slot (m : Nat) (f : Mailbox → Mailbox) (n' : Nat) : (s.modMbox m f).slot n' = s.slot n' := rfl
@[simp] theorem modMbox_get_sched (m : Nat) (f : Mailbox → Mailbox) (n' : Nat) : (s.modMbox m f).sched n' = s.sched n' := rfl
@[simp] theorem modMbox_get_mport (m : Nat) (f : Mailbox → Mailbox) (n' : Nat) : (s.modMbox m f).mport n' = s.mport n' := rfl
@[simp] theorem modMbox_get_sliceOf (m : Nat) (f : Mailbox → Mailbox) (i' : Nat) : (s.modMbox m f).sliceOf i' = s.sliceOf i' := rfl
@[simp] theorem modMbox_get_lport (m : Nat) (f : Mailbox → Mailbox) (p' : Nat) : (s.modMbox m f).lport p' = s.lport p' := rfl
@[simp] theorem modMbox_get_link (m : Nat) (f : Mailbox → Mailbox) (d' : LinkDir) : (s.modMbox m f).link d' = s.link d' := rfl
@[simp] theorem modMbox_get_node (m : Nat) (f : Mailbox → Mailbox) (n' : NodeId) : (s.modMbox m f).node n' = s.node n' := rfl
@[simp] theorem modMbox_get_nchan (m : Nat) (f : Mailbox → Mailbox) (n' : NodeId) (h' : Nat) (x' : Bool) : (s.modMbox m f).nchan n' h' x' = s.nchan n' h' x' := rfl
@[simp] theorem modMbox_get_maskOf (m : Nat) (f : Mailbox → Mailbox) (n' : NodeId) (g' : Nat) : (s.modMbox m f).maskOf n' g' = s.maskOf n' g' := rfl
@[simp] theorem modMbox_get_rehome (m : Nat) (f : Mailbox → Mailbox) (b' : Nat) : (s.modMbox m f).rehome b' = s.rehome b' := rfl

/-! ## modSlot -/

@[simp] theorem modSlot_tb (n : Nat) (f : Slot → Slot) : (s.modSlot n f).tb = s.tb := rfl
@[simp] theorem modSlot_freeCtr (n : Nat) (f : Slot → Slot) : (s.modSlot n f).freeCtr = s.freeCtr := rfl
@[simp] theorem modSlot_boot (n : Nat) (f : Slot → Slot) : (s.modSlot n f).boot = s.boot := rfl
@[simp] theorem modSlot_fab (n : Nat) (f : Slot → Slot) : (s.modSlot n f).fab = s.fab := rfl
@[simp] theorem modSlot_sync (n : Nat) (f : Slot → Slot) : (s.modSlot n f).sync = s.sync := rfl
@[simp] theorem modSlot_cane (n : Nat) (f : Slot → Slot) : (s.modSlot n f).cane = s.cane := rfl
@[simp] theorem modSlot_ports (n : Nat) (f : Slot → Slot) : (s.modSlot n f).ports = s.ports := rfl
@[simp] theorem modSlot_grp (n : Nat) (f : Slot → Slot) : (s.modSlot n f).grp = s.grp := rfl
@[simp] theorem modSlot_mrv (n : Nat) (f : Slot → Slot) : (s.modSlot n f).mrv = s.mrv := rfl
@[simp] theorem modSlot_lps (n : Nat) (f : Slot → Slot) : (s.modSlot n f).lps = s.lps := rfl
@[simp] theorem modSlot_flt (n : Nat) (f : Slot → Slot) : (s.modSlot n f).flt = s.flt := rfl
@[simp] theorem modSlot_gaf (n : Nat) (f : Slot → Slot) : (s.modSlot n f).gaf = s.gaf := rfl
@[simp] theorem modSlot_lehr (n : Nat) (f : Slot → Slot) : (s.modSlot n f).lehr = s.lehr := rfl
@[simp] theorem modSlot_test (n : Nat) (f : Slot → Slot) : (s.modSlot n f).test = s.test := rfl
@[simp] theorem modSlot_pending (n : Nat) (f : Slot → Slot) : (s.modSlot n f).pending = s.pending := rfl
@[simp] theorem modSlot_host_msgen (n : Nat) (f : Slot → Slot) : (s.modSlot n f).host.msgen = s.host.msgen := rfl
@[simp] theorem modSlot_host_msgAddr (n : Nat) (f : Slot → Slot) : (s.modSlot n f).host.msgAddr = s.host.msgAddr := rfl
@[simp] theorem modSlot_host_dbase (n : Nat) (f : Slot → Slot) : (s.modSlot n f).host.dbase = s.host.dbase := rfl
@[simp] theorem modSlot_host_mbie (n : Nat) (f : Slot → Slot) : (s.modSlot n f).host.mbie = s.host.mbie := rfl
@[simp] theorem modSlot_host_mbip (n : Nat) (f : Slot → Slot) : (s.modSlot n f).host.mbip = s.host.mbip := rfl
@[simp] theorem modSlot_host_mbCnt (n : Nat) (f : Slot → Slot) : (s.modSlot n f).host.mbCnt = s.host.mbCnt := rfl
@[simp] theorem modSlot_host_fie (n : Nat) (f : Slot → Slot) : (s.modSlot n f).host.fie = s.host.fie := rfl
@[simp] theorem modSlot_host_fip (n : Nat) (f : Slot → Slot) : (s.modSlot n f).host.fip = s.host.fip := rfl
@[simp] theorem modSlot_host_fCnt (n : Nat) (f : Slot → Slot) : (s.modSlot n f).host.fCnt = s.host.fCnt := rfl
@[simp] theorem modSlot_host_caneIp (n : Nat) (f : Slot → Slot) : (s.modSlot n f).host.caneIp = s.host.caneIp := rfl
@[simp] theorem modSlot_host_caneCnt (n : Nat) (f : Slot → Slot) : (s.modSlot n f).host.caneCnt = s.host.caneCnt := rfl
@[simp] theorem modSlot_host_due (n : Nat) (f : Slot → Slot) : (s.modSlot n f).host.due = s.host.due := rfl
@[simp] theorem modSlot_host_msgOut (n : Nat) (f : Slot → Slot) : (s.modSlot n f).host.msgOut = s.host.msgOut := rfl
@[simp] theorem modSlot_host_herrAddr (n : Nat) (f : Slot → Slot) : (s.modSlot n f).host.herrAddr = s.host.herrAddr := rfl
@[simp] theorem modSlot_host_herrSize (n : Nat) (f : Slot → Slot) : (s.modSlot n f).host.herrSize = s.host.herrSize := rfl
@[simp] theorem modSlot_host_herrWro (n : Nat) (f : Slot → Slot) : (s.modSlot n f).host.herrWro = s.host.herrWro := rfl
@[simp] theorem modSlot_host_herrMbx (n : Nat) (f : Slot → Slot) : (s.modSlot n f).host.herrMbx = s.host.herrMbx := rfl
@[simp] theorem modSlot_host_lastoff (n : Nat) (f : Slot → Slot) : (s.modSlot n f).host.lastoff = s.host.lastoff := rfl
@[simp] theorem modSlot_host_tbLatch (n : Nat) (f : Slot → Slot) : (s.modSlot n f).host.tbLatch = s.host.tbLatch := rfl
@[simp] theorem modSlot_host_rdata (n : Nat) (f : Slot → Slot) : (s.modSlot n f).host.rdata = s.host.rdata := rfl
@[simp] theorem modSlot_host_csel (n : Nat) (f : Slot → Slot) : (s.modSlot n f).host.csel = s.host.csel := rfl
@[simp] theorem modSlot_host_cselSeq (n : Nat) (f : Slot → Slot) : (s.modSlot n f).host.cselSeq = s.host.cselSeq := rfl
@[simp] theorem modSlot_host_cent (n : Nat) (f : Slot → Slot) : (s.modSlot n f).host.cent = s.host.cent := rfl
@[simp] theorem modSlot_host_caneLo (n : Nat) (f : Slot → Slot) : (s.modSlot n f).host.caneLo = s.host.caneLo := rfl
@[simp] theorem modSlot_host_caneSt (n : Nat) (f : Slot → Slot) : (s.modSlot n f).host.caneSt = s.host.caneSt := rfl
@[simp] theorem modSlot_host_caneStCn (n : Nat) (f : Slot → Slot) : (s.modSlot n f).host.caneStCn = s.host.caneStCn := rfl
@[simp] theorem modSlot_host_caneSel (n : Nat) (f : Slot → Slot) : (s.modSlot n f).host.caneSel = s.host.caneSel := rfl
@[simp] theorem modSlot_get_port (n : Nat) (f : Slot → Slot) (k' : Nat) : (s.modSlot n f).port k' = s.port k' := rfl
@[simp] theorem modSlot_get_group (n : Nat) (f : Slot → Slot) (g' : Nat) : (s.modSlot n f).group g' = s.group g' := rfl
@[simp] theorem modSlot_get_obj (n : Nat) (f : Slot → Slot) (i' : Nat) : (s.modSlot n f).obj i' = s.obj i' := rfl
@[simp] theorem modSlot_get_cchan (n : Nat) (f : Slot → Slot) (c' : Nat) : (s.modSlot n f).cchan c' = s.cchan c' := rfl
@[simp] theorem modSlot_get_tenant (n : Nat) (f : Slot → Slot) (t' : Nat) : (s.modSlot n f).tenant t' = s.tenant t' := rfl
@[simp] theorem modSlot_get_mbox (n : Nat) (f : Slot → Slot) (m' : Nat) : (s.modSlot n f).mbox m' = s.mbox m' := rfl
@[simp] theorem modSlot_get_sched (n : Nat) (f : Slot → Slot) (n' : Nat) : (s.modSlot n f).sched n' = s.sched n' := rfl
@[simp] theorem modSlot_get_mport (n : Nat) (f : Slot → Slot) (n' : Nat) : (s.modSlot n f).mport n' = s.mport n' := rfl
@[simp] theorem modSlot_get_sliceOf (n : Nat) (f : Slot → Slot) (i' : Nat) : (s.modSlot n f).sliceOf i' = s.sliceOf i' := rfl
@[simp] theorem modSlot_get_lport (n : Nat) (f : Slot → Slot) (p' : Nat) : (s.modSlot n f).lport p' = s.lport p' := rfl
@[simp] theorem modSlot_get_link (n : Nat) (f : Slot → Slot) (d' : LinkDir) : (s.modSlot n f).link d' = s.link d' := rfl
@[simp] theorem modSlot_get_node (n : Nat) (f : Slot → Slot) (n' : NodeId) : (s.modSlot n f).node n' = s.node n' := rfl
@[simp] theorem modSlot_get_nchan (n : Nat) (f : Slot → Slot) (n' : NodeId) (h' : Nat) (x' : Bool) : (s.modSlot n f).nchan n' h' x' = s.nchan n' h' x' := rfl
@[simp] theorem modSlot_get_maskOf (n : Nat) (f : Slot → Slot) (n' : NodeId) (g' : Nat) : (s.modSlot n f).maskOf n' g' = s.maskOf n' g' := rfl
@[simp] theorem modSlot_get_rehome (n : Nat) (f : Slot → Slot) (b' : Nat) : (s.modSlot n f).rehome b' = s.rehome b' := rfl

/-! ## setSched -/

@[simp] theorem setSched_tb (n : Nat) (v : Option Sched) : (s.setSched n v).tb = s.tb := rfl
@[simp] theorem setSched_freeCtr (n : Nat) (v : Option Sched) : (s.setSched n v).freeCtr = s.freeCtr := rfl
@[simp] theorem setSched_boot (n : Nat) (v : Option Sched) : (s.setSched n v).boot = s.boot := rfl
@[simp] theorem setSched_fab (n : Nat) (v : Option Sched) : (s.setSched n v).fab = s.fab := rfl
@[simp] theorem setSched_sync (n : Nat) (v : Option Sched) : (s.setSched n v).sync = s.sync := rfl
@[simp] theorem setSched_cane (n : Nat) (v : Option Sched) : (s.setSched n v).cane = s.cane := rfl
@[simp] theorem setSched_ports (n : Nat) (v : Option Sched) : (s.setSched n v).ports = s.ports := rfl
@[simp] theorem setSched_grp (n : Nat) (v : Option Sched) : (s.setSched n v).grp = s.grp := rfl
@[simp] theorem setSched_lps (n : Nat) (v : Option Sched) : (s.setSched n v).lps = s.lps := rfl
@[simp] theorem setSched_flt (n : Nat) (v : Option Sched) : (s.setSched n v).flt = s.flt := rfl
@[simp] theorem setSched_gaf (n : Nat) (v : Option Sched) : (s.setSched n v).gaf = s.gaf := rfl
@[simp] theorem setSched_lehr (n : Nat) (v : Option Sched) : (s.setSched n v).lehr = s.lehr := rfl
@[simp] theorem setSched_host (n : Nat) (v : Option Sched) : (s.setSched n v).host = s.host := rfl
@[simp] theorem setSched_test (n : Nat) (v : Option Sched) : (s.setSched n v).test = s.test := rfl
@[simp] theorem setSched_pending (n : Nat) (v : Option Sched) : (s.setSched n v).pending = s.pending := rfl
@[simp] theorem setSched_mrv_freeUnits (n : Nat) (v : Option Sched) : (s.setSched n v).mrv.freeUnits = s.mrv.freeUnits := rfl
@[simp] theorem setSched_mrv_order (n : Nat) (v : Option Sched) : (s.setSched n v).mrv.order = s.mrv.order := rfl
@[simp] theorem setSched_mrv_slices (n : Nat) (v : Option Sched) : (s.setSched n v).mrv.slices = s.mrv.slices := rfl
@[simp] theorem setSched_mrv_rr (n : Nat) (v : Option Sched) : (s.setSched n v).mrv.rr = s.mrv.rr := rfl
@[simp] theorem setSched_mrv_redo (n : Nat) (v : Option Sched) : (s.setSched n v).mrv.redo = s.mrv.redo := rfl
@[simp] theorem setSched_mrv_mps (n : Nat) (v : Option Sched) : (s.setSched n v).mrv.mps = s.mrv.mps := rfl
@[simp] theorem setSched_mrv_postOut (n : Nat) (v : Option Sched) : (s.setSched n v).mrv.postOut = s.mrv.postOut := rfl
@[simp] theorem setSched_mrv_commits (n : Nat) (v : Option Sched) : (s.setSched n v).mrv.commits = s.mrv.commits := rfl
@[simp] theorem setSched_get_port (n : Nat) (v : Option Sched) (k' : Nat) : (s.setSched n v).port k' = s.port k' := rfl
@[simp] theorem setSched_get_group (n : Nat) (v : Option Sched) (g' : Nat) : (s.setSched n v).group g' = s.group g' := rfl
@[simp] theorem setSched_get_obj (n : Nat) (v : Option Sched) (i' : Nat) : (s.setSched n v).obj i' = s.obj i' := rfl
@[simp] theorem setSched_get_cchan (n : Nat) (v : Option Sched) (c' : Nat) : (s.setSched n v).cchan c' = s.cchan c' := rfl
@[simp] theorem setSched_get_tenant (n : Nat) (v : Option Sched) (t' : Nat) : (s.setSched n v).tenant t' = s.tenant t' := rfl
@[simp] theorem setSched_get_mbox (n : Nat) (v : Option Sched) (m' : Nat) : (s.setSched n v).mbox m' = s.mbox m' := rfl
@[simp] theorem setSched_get_slot (n : Nat) (v : Option Sched) (n' : Nat) : (s.setSched n v).slot n' = s.slot n' := rfl
@[simp] theorem setSched_get_mport (n : Nat) (v : Option Sched) (n' : Nat) : (s.setSched n v).mport n' = s.mport n' := rfl
@[simp] theorem setSched_get_sliceOf (n : Nat) (v : Option Sched) (i' : Nat) : (s.setSched n v).sliceOf i' = s.sliceOf i' := rfl
@[simp] theorem setSched_get_lport (n : Nat) (v : Option Sched) (p' : Nat) : (s.setSched n v).lport p' = s.lport p' := rfl
@[simp] theorem setSched_get_link (n : Nat) (v : Option Sched) (d' : LinkDir) : (s.setSched n v).link d' = s.link d' := rfl
@[simp] theorem setSched_get_node (n : Nat) (v : Option Sched) (n' : NodeId) : (s.setSched n v).node n' = s.node n' := rfl
@[simp] theorem setSched_get_nchan (n : Nat) (v : Option Sched) (n' : NodeId) (h' : Nat) (x' : Bool) : (s.setSched n v).nchan n' h' x' = s.nchan n' h' x' := rfl
@[simp] theorem setSched_get_maskOf (n : Nat) (v : Option Sched) (n' : NodeId) (g' : Nat) : (s.setSched n v).maskOf n' g' = s.maskOf n' g' := rfl
@[simp] theorem setSched_get_rehome (n : Nat) (v : Option Sched) (b' : Nat) : (s.setSched n v).rehome b' = s.rehome b' := rfl

/-! ## modSched -/

@[simp] theorem modSched_tb (n : Nat) (f : Sched → Sched) : (s.modSched n f).tb = s.tb := rfl
@[simp] theorem modSched_freeCtr (n : Nat) (f : Sched → Sched) : (s.modSched n f).freeCtr = s.freeCtr := rfl
@[simp] theorem modSched_boot (n : Nat) (f : Sched → Sched) : (s.modSched n f).boot = s.boot := rfl
@[simp] theorem modSched_fab (n : Nat) (f : Sched → Sched) : (s.modSched n f).fab = s.fab := rfl
@[simp] theorem modSched_sync (n : Nat) (f : Sched → Sched) : (s.modSched n f).sync = s.sync := rfl
@[simp] theorem modSched_cane (n : Nat) (f : Sched → Sched) : (s.modSched n f).cane = s.cane := rfl
@[simp] theorem modSched_ports (n : Nat) (f : Sched → Sched) : (s.modSched n f).ports = s.ports := rfl
@[simp] theorem modSched_grp (n : Nat) (f : Sched → Sched) : (s.modSched n f).grp = s.grp := rfl
@[simp] theorem modSched_lps (n : Nat) (f : Sched → Sched) : (s.modSched n f).lps = s.lps := rfl
@[simp] theorem modSched_flt (n : Nat) (f : Sched → Sched) : (s.modSched n f).flt = s.flt := rfl
@[simp] theorem modSched_gaf (n : Nat) (f : Sched → Sched) : (s.modSched n f).gaf = s.gaf := rfl
@[simp] theorem modSched_lehr (n : Nat) (f : Sched → Sched) : (s.modSched n f).lehr = s.lehr := rfl
@[simp] theorem modSched_host (n : Nat) (f : Sched → Sched) : (s.modSched n f).host = s.host := rfl
@[simp] theorem modSched_test (n : Nat) (f : Sched → Sched) : (s.modSched n f).test = s.test := rfl
@[simp] theorem modSched_pending (n : Nat) (f : Sched → Sched) : (s.modSched n f).pending = s.pending := rfl
@[simp] theorem modSched_mrv_freeUnits (n : Nat) (f : Sched → Sched) : (s.modSched n f).mrv.freeUnits = s.mrv.freeUnits := rfl
@[simp] theorem modSched_mrv_order (n : Nat) (f : Sched → Sched) : (s.modSched n f).mrv.order = s.mrv.order := rfl
@[simp] theorem modSched_mrv_slices (n : Nat) (f : Sched → Sched) : (s.modSched n f).mrv.slices = s.mrv.slices := rfl
@[simp] theorem modSched_mrv_rr (n : Nat) (f : Sched → Sched) : (s.modSched n f).mrv.rr = s.mrv.rr := rfl
@[simp] theorem modSched_mrv_redo (n : Nat) (f : Sched → Sched) : (s.modSched n f).mrv.redo = s.mrv.redo := rfl
@[simp] theorem modSched_mrv_mps (n : Nat) (f : Sched → Sched) : (s.modSched n f).mrv.mps = s.mrv.mps := rfl
@[simp] theorem modSched_mrv_postOut (n : Nat) (f : Sched → Sched) : (s.modSched n f).mrv.postOut = s.mrv.postOut := rfl
@[simp] theorem modSched_mrv_commits (n : Nat) (f : Sched → Sched) : (s.modSched n f).mrv.commits = s.mrv.commits := rfl
@[simp] theorem modSched_get_port (n : Nat) (f : Sched → Sched) (k' : Nat) : (s.modSched n f).port k' = s.port k' := rfl
@[simp] theorem modSched_get_group (n : Nat) (f : Sched → Sched) (g' : Nat) : (s.modSched n f).group g' = s.group g' := rfl
@[simp] theorem modSched_get_obj (n : Nat) (f : Sched → Sched) (i' : Nat) : (s.modSched n f).obj i' = s.obj i' := rfl
@[simp] theorem modSched_get_cchan (n : Nat) (f : Sched → Sched) (c' : Nat) : (s.modSched n f).cchan c' = s.cchan c' := rfl
@[simp] theorem modSched_get_tenant (n : Nat) (f : Sched → Sched) (t' : Nat) : (s.modSched n f).tenant t' = s.tenant t' := rfl
@[simp] theorem modSched_get_mbox (n : Nat) (f : Sched → Sched) (m' : Nat) : (s.modSched n f).mbox m' = s.mbox m' := rfl
@[simp] theorem modSched_get_slot (n : Nat) (f : Sched → Sched) (n' : Nat) : (s.modSched n f).slot n' = s.slot n' := rfl
@[simp] theorem modSched_get_mport (n : Nat) (f : Sched → Sched) (n' : Nat) : (s.modSched n f).mport n' = s.mport n' := rfl
@[simp] theorem modSched_get_sliceOf (n : Nat) (f : Sched → Sched) (i' : Nat) : (s.modSched n f).sliceOf i' = s.sliceOf i' := rfl
@[simp] theorem modSched_get_lport (n : Nat) (f : Sched → Sched) (p' : Nat) : (s.modSched n f).lport p' = s.lport p' := rfl
@[simp] theorem modSched_get_link (n : Nat) (f : Sched → Sched) (d' : LinkDir) : (s.modSched n f).link d' = s.link d' := rfl
@[simp] theorem modSched_get_node (n : Nat) (f : Sched → Sched) (n' : NodeId) : (s.modSched n f).node n' = s.node n' := rfl
@[simp] theorem modSched_get_nchan (n : Nat) (f : Sched → Sched) (n' : NodeId) (h' : Nat) (x' : Bool) : (s.modSched n f).nchan n' h' x' = s.nchan n' h' x' := rfl
@[simp] theorem modSched_get_maskOf (n : Nat) (f : Sched → Sched) (n' : NodeId) (g' : Nat) : (s.modSched n f).maskOf n' g' = s.maskOf n' g' := rfl
@[simp] theorem modSched_get_rehome (n : Nat) (f : Sched → Sched) (b' : Nat) : (s.modSched n f).rehome b' = s.rehome b' := rfl

/-! ## modMport -/

@[simp] theorem modMport_tb (n : Nat) (f : MemPort → MemPort) : (s.modMport n f).tb = s.tb := rfl
@[simp] theorem modMport_freeCtr (n : Nat) (f : MemPort → MemPort) : (s.modMport n f).freeCtr = s.freeCtr := rfl
@[simp] theorem modMport_boot (n : Nat) (f : MemPort → MemPort) : (s.modMport n f).boot = s.boot := rfl
@[simp] theorem modMport_fab (n : Nat) (f : MemPort → MemPort) : (s.modMport n f).fab = s.fab := rfl
@[simp] theorem modMport_sync (n : Nat) (f : MemPort → MemPort) : (s.modMport n f).sync = s.sync := rfl
@[simp] theorem modMport_cane (n : Nat) (f : MemPort → MemPort) : (s.modMport n f).cane = s.cane := rfl
@[simp] theorem modMport_ports (n : Nat) (f : MemPort → MemPort) : (s.modMport n f).ports = s.ports := rfl
@[simp] theorem modMport_grp (n : Nat) (f : MemPort → MemPort) : (s.modMport n f).grp = s.grp := rfl
@[simp] theorem modMport_lps (n : Nat) (f : MemPort → MemPort) : (s.modMport n f).lps = s.lps := rfl
@[simp] theorem modMport_flt (n : Nat) (f : MemPort → MemPort) : (s.modMport n f).flt = s.flt := rfl
@[simp] theorem modMport_gaf (n : Nat) (f : MemPort → MemPort) : (s.modMport n f).gaf = s.gaf := rfl
@[simp] theorem modMport_lehr (n : Nat) (f : MemPort → MemPort) : (s.modMport n f).lehr = s.lehr := rfl
@[simp] theorem modMport_host (n : Nat) (f : MemPort → MemPort) : (s.modMport n f).host = s.host := rfl
@[simp] theorem modMport_test (n : Nat) (f : MemPort → MemPort) : (s.modMport n f).test = s.test := rfl
@[simp] theorem modMport_pending (n : Nat) (f : MemPort → MemPort) : (s.modMport n f).pending = s.pending := rfl
@[simp] theorem modMport_mrv_scheds (n : Nat) (f : MemPort → MemPort) : (s.modMport n f).mrv.scheds = s.mrv.scheds := rfl
@[simp] theorem modMport_mrv_freeUnits (n : Nat) (f : MemPort → MemPort) : (s.modMport n f).mrv.freeUnits = s.mrv.freeUnits := rfl
@[simp] theorem modMport_mrv_order (n : Nat) (f : MemPort → MemPort) : (s.modMport n f).mrv.order = s.mrv.order := rfl
@[simp] theorem modMport_mrv_slices (n : Nat) (f : MemPort → MemPort) : (s.modMport n f).mrv.slices = s.mrv.slices := rfl
@[simp] theorem modMport_mrv_rr (n : Nat) (f : MemPort → MemPort) : (s.modMport n f).mrv.rr = s.mrv.rr := rfl
@[simp] theorem modMport_mrv_redo (n : Nat) (f : MemPort → MemPort) : (s.modMport n f).mrv.redo = s.mrv.redo := rfl
@[simp] theorem modMport_mrv_postOut (n : Nat) (f : MemPort → MemPort) : (s.modMport n f).mrv.postOut = s.mrv.postOut := rfl
@[simp] theorem modMport_mrv_commits (n : Nat) (f : MemPort → MemPort) : (s.modMport n f).mrv.commits = s.mrv.commits := rfl
@[simp] theorem modMport_get_port (n : Nat) (f : MemPort → MemPort) (k' : Nat) : (s.modMport n f).port k' = s.port k' := rfl
@[simp] theorem modMport_get_group (n : Nat) (f : MemPort → MemPort) (g' : Nat) : (s.modMport n f).group g' = s.group g' := rfl
@[simp] theorem modMport_get_obj (n : Nat) (f : MemPort → MemPort) (i' : Nat) : (s.modMport n f).obj i' = s.obj i' := rfl
@[simp] theorem modMport_get_cchan (n : Nat) (f : MemPort → MemPort) (c' : Nat) : (s.modMport n f).cchan c' = s.cchan c' := rfl
@[simp] theorem modMport_get_tenant (n : Nat) (f : MemPort → MemPort) (t' : Nat) : (s.modMport n f).tenant t' = s.tenant t' := rfl
@[simp] theorem modMport_get_mbox (n : Nat) (f : MemPort → MemPort) (m' : Nat) : (s.modMport n f).mbox m' = s.mbox m' := rfl
@[simp] theorem modMport_get_slot (n : Nat) (f : MemPort → MemPort) (n' : Nat) : (s.modMport n f).slot n' = s.slot n' := rfl
@[simp] theorem modMport_get_sched (n : Nat) (f : MemPort → MemPort) (n' : Nat) : (s.modMport n f).sched n' = s.sched n' := rfl
@[simp] theorem modMport_get_sliceOf (n : Nat) (f : MemPort → MemPort) (i' : Nat) : (s.modMport n f).sliceOf i' = s.sliceOf i' := rfl
@[simp] theorem modMport_get_lport (n : Nat) (f : MemPort → MemPort) (p' : Nat) : (s.modMport n f).lport p' = s.lport p' := rfl
@[simp] theorem modMport_get_link (n : Nat) (f : MemPort → MemPort) (d' : LinkDir) : (s.modMport n f).link d' = s.link d' := rfl
@[simp] theorem modMport_get_node (n : Nat) (f : MemPort → MemPort) (n' : NodeId) : (s.modMport n f).node n' = s.node n' := rfl
@[simp] theorem modMport_get_nchan (n : Nat) (f : MemPort → MemPort) (n' : NodeId) (h' : Nat) (x' : Bool) : (s.modMport n f).nchan n' h' x' = s.nchan n' h' x' := rfl
@[simp] theorem modMport_get_maskOf (n : Nat) (f : MemPort → MemPort) (n' : NodeId) (g' : Nat) : (s.modMport n f).maskOf n' g' = s.maskOf n' g' := rfl
@[simp] theorem modMport_get_rehome (n : Nat) (f : MemPort → MemPort) (b' : Nat) : (s.modMport n f).rehome b' = s.rehome b' := rfl

/-! ## modSlice -/

@[simp] theorem modSlice_tb (i : Nat) (f : Slice → Slice) : (s.modSlice i f).tb = s.tb := rfl
@[simp] theorem modSlice_freeCtr (i : Nat) (f : Slice → Slice) : (s.modSlice i f).freeCtr = s.freeCtr := rfl
@[simp] theorem modSlice_boot (i : Nat) (f : Slice → Slice) : (s.modSlice i f).boot = s.boot := rfl
@[simp] theorem modSlice_fab (i : Nat) (f : Slice → Slice) : (s.modSlice i f).fab = s.fab := rfl
@[simp] theorem modSlice_sync (i : Nat) (f : Slice → Slice) : (s.modSlice i f).sync = s.sync := rfl
@[simp] theorem modSlice_cane (i : Nat) (f : Slice → Slice) : (s.modSlice i f).cane = s.cane := rfl
@[simp] theorem modSlice_ports (i : Nat) (f : Slice → Slice) : (s.modSlice i f).ports = s.ports := rfl
@[simp] theorem modSlice_grp (i : Nat) (f : Slice → Slice) : (s.modSlice i f).grp = s.grp := rfl
@[simp] theorem modSlice_lps (i : Nat) (f : Slice → Slice) : (s.modSlice i f).lps = s.lps := rfl
@[simp] theorem modSlice_flt (i : Nat) (f : Slice → Slice) : (s.modSlice i f).flt = s.flt := rfl
@[simp] theorem modSlice_gaf (i : Nat) (f : Slice → Slice) : (s.modSlice i f).gaf = s.gaf := rfl
@[simp] theorem modSlice_lehr (i : Nat) (f : Slice → Slice) : (s.modSlice i f).lehr = s.lehr := rfl
@[simp] theorem modSlice_host (i : Nat) (f : Slice → Slice) : (s.modSlice i f).host = s.host := rfl
@[simp] theorem modSlice_test (i : Nat) (f : Slice → Slice) : (s.modSlice i f).test = s.test := rfl
@[simp] theorem modSlice_pending (i : Nat) (f : Slice → Slice) : (s.modSlice i f).pending = s.pending := rfl
@[simp] theorem modSlice_mrv_scheds (i : Nat) (f : Slice → Slice) : (s.modSlice i f).mrv.scheds = s.mrv.scheds := rfl
@[simp] theorem modSlice_mrv_freeUnits (i : Nat) (f : Slice → Slice) : (s.modSlice i f).mrv.freeUnits = s.mrv.freeUnits := rfl
@[simp] theorem modSlice_mrv_order (i : Nat) (f : Slice → Slice) : (s.modSlice i f).mrv.order = s.mrv.order := rfl
@[simp] theorem modSlice_mrv_rr (i : Nat) (f : Slice → Slice) : (s.modSlice i f).mrv.rr = s.mrv.rr := rfl
@[simp] theorem modSlice_mrv_redo (i : Nat) (f : Slice → Slice) : (s.modSlice i f).mrv.redo = s.mrv.redo := rfl
@[simp] theorem modSlice_mrv_mps (i : Nat) (f : Slice → Slice) : (s.modSlice i f).mrv.mps = s.mrv.mps := rfl
@[simp] theorem modSlice_mrv_postOut (i : Nat) (f : Slice → Slice) : (s.modSlice i f).mrv.postOut = s.mrv.postOut := rfl
@[simp] theorem modSlice_mrv_commits (i : Nat) (f : Slice → Slice) : (s.modSlice i f).mrv.commits = s.mrv.commits := rfl
@[simp] theorem modSlice_get_port (i : Nat) (f : Slice → Slice) (k' : Nat) : (s.modSlice i f).port k' = s.port k' := rfl
@[simp] theorem modSlice_get_group (i : Nat) (f : Slice → Slice) (g' : Nat) : (s.modSlice i f).group g' = s.group g' := rfl
@[simp] theorem modSlice_get_obj (i : Nat) (f : Slice → Slice) (i' : Nat) : (s.modSlice i f).obj i' = s.obj i' := rfl
@[simp] theorem modSlice_get_cchan (i : Nat) (f : Slice → Slice) (c' : Nat) : (s.modSlice i f).cchan c' = s.cchan c' := rfl
@[simp] theorem modSlice_get_tenant (i : Nat) (f : Slice → Slice) (t' : Nat) : (s.modSlice i f).tenant t' = s.tenant t' := rfl
@[simp] theorem modSlice_get_mbox (i : Nat) (f : Slice → Slice) (m' : Nat) : (s.modSlice i f).mbox m' = s.mbox m' := rfl
@[simp] theorem modSlice_get_slot (i : Nat) (f : Slice → Slice) (n' : Nat) : (s.modSlice i f).slot n' = s.slot n' := rfl
@[simp] theorem modSlice_get_sched (i : Nat) (f : Slice → Slice) (n' : Nat) : (s.modSlice i f).sched n' = s.sched n' := rfl
@[simp] theorem modSlice_get_mport (i : Nat) (f : Slice → Slice) (n' : Nat) : (s.modSlice i f).mport n' = s.mport n' := rfl
@[simp] theorem modSlice_get_lport (i : Nat) (f : Slice → Slice) (p' : Nat) : (s.modSlice i f).lport p' = s.lport p' := rfl
@[simp] theorem modSlice_get_link (i : Nat) (f : Slice → Slice) (d' : LinkDir) : (s.modSlice i f).link d' = s.link d' := rfl
@[simp] theorem modSlice_get_node (i : Nat) (f : Slice → Slice) (n' : NodeId) : (s.modSlice i f).node n' = s.node n' := rfl
@[simp] theorem modSlice_get_nchan (i : Nat) (f : Slice → Slice) (n' : NodeId) (h' : Nat) (x' : Bool) : (s.modSlice i f).nchan n' h' x' = s.nchan n' h' x' := rfl
@[simp] theorem modSlice_get_maskOf (i : Nat) (f : Slice → Slice) (n' : NodeId) (g' : Nat) : (s.modSlice i f).maskOf n' g' = s.maskOf n' g' := rfl
@[simp] theorem modSlice_get_rehome (i : Nat) (f : Slice → Slice) (b' : Nat) : (s.modSlice i f).rehome b' = s.rehome b' := rfl

/-! ## modLport -/

@[simp] theorem modLport_tb (p : Nat) (f : LinkPort → LinkPort) : (s.modLport p f).tb = s.tb := rfl
@[simp] theorem modLport_freeCtr (p : Nat) (f : LinkPort → LinkPort) : (s.modLport p f).freeCtr = s.freeCtr := rfl
@[simp] theorem modLport_boot (p : Nat) (f : LinkPort → LinkPort) : (s.modLport p f).boot = s.boot := rfl
@[simp] theorem modLport_fab (p : Nat) (f : LinkPort → LinkPort) : (s.modLport p f).fab = s.fab := rfl
@[simp] theorem modLport_sync (p : Nat) (f : LinkPort → LinkPort) : (s.modLport p f).sync = s.sync := rfl
@[simp] theorem modLport_cane (p : Nat) (f : LinkPort → LinkPort) : (s.modLport p f).cane = s.cane := rfl
@[simp] theorem modLport_ports (p : Nat) (f : LinkPort → LinkPort) : (s.modLport p f).ports = s.ports := rfl
@[simp] theorem modLport_grp (p : Nat) (f : LinkPort → LinkPort) : (s.modLport p f).grp = s.grp := rfl
@[simp] theorem modLport_mrv (p : Nat) (f : LinkPort → LinkPort) : (s.modLport p f).mrv = s.mrv := rfl
@[simp] theorem modLport_flt (p : Nat) (f : LinkPort → LinkPort) : (s.modLport p f).flt = s.flt := rfl
@[simp] theorem modLport_gaf (p : Nat) (f : LinkPort → LinkPort) : (s.modLport p f).gaf = s.gaf := rfl
@[simp] theorem modLport_lehr (p : Nat) (f : LinkPort → LinkPort) : (s.modLport p f).lehr = s.lehr := rfl
@[simp] theorem modLport_host (p : Nat) (f : LinkPort → LinkPort) : (s.modLport p f).host = s.host := rfl
@[simp] theorem modLport_test (p : Nat) (f : LinkPort → LinkPort) : (s.modLport p f).test = s.test := rfl
@[simp] theorem modLport_pending (p : Nat) (f : LinkPort → LinkPort) : (s.modLport p f).pending = s.pending := rfl
@[simp] theorem modLport_get_port (p : Nat) (f : LinkPort → LinkPort) (k' : Nat) : (s.modLport p f).port k' = s.port k' := rfl
@[simp] theorem modLport_get_group (p : Nat) (f : LinkPort → LinkPort) (g' : Nat) : (s.modLport p f).group g' = s.group g' := rfl
@[simp] theorem modLport_get_obj (p : Nat) (f : LinkPort → LinkPort) (i' : Nat) : (s.modLport p f).obj i' = s.obj i' := rfl
@[simp] theorem modLport_get_cchan (p : Nat) (f : LinkPort → LinkPort) (c' : Nat) : (s.modLport p f).cchan c' = s.cchan c' := rfl
@[simp] theorem modLport_get_tenant (p : Nat) (f : LinkPort → LinkPort) (t' : Nat) : (s.modLport p f).tenant t' = s.tenant t' := rfl
@[simp] theorem modLport_get_mbox (p : Nat) (f : LinkPort → LinkPort) (m' : Nat) : (s.modLport p f).mbox m' = s.mbox m' := rfl
@[simp] theorem modLport_get_slot (p : Nat) (f : LinkPort → LinkPort) (n' : Nat) : (s.modLport p f).slot n' = s.slot n' := rfl
@[simp] theorem modLport_get_sched (p : Nat) (f : LinkPort → LinkPort) (n' : Nat) : (s.modLport p f).sched n' = s.sched n' := rfl
@[simp] theorem modLport_get_mport (p : Nat) (f : LinkPort → LinkPort) (n' : Nat) : (s.modLport p f).mport n' = s.mport n' := rfl
@[simp] theorem modLport_get_sliceOf (p : Nat) (f : LinkPort → LinkPort) (i' : Nat) : (s.modLport p f).sliceOf i' = s.sliceOf i' := rfl
@[simp] theorem modLport_get_link (p : Nat) (f : LinkPort → LinkPort) (d' : LinkDir) : (s.modLport p f).link d' = s.link d' := rfl
@[simp] theorem modLport_get_node (p : Nat) (f : LinkPort → LinkPort) (n' : NodeId) : (s.modLport p f).node n' = s.node n' := rfl
@[simp] theorem modLport_get_nchan (p : Nat) (f : LinkPort → LinkPort) (n' : NodeId) (h' : Nat) (x' : Bool) : (s.modLport p f).nchan n' h' x' = s.nchan n' h' x' := rfl
@[simp] theorem modLport_get_maskOf (p : Nat) (f : LinkPort → LinkPort) (n' : NodeId) (g' : Nat) : (s.modLport p f).maskOf n' g' = s.maskOf n' g' := rfl
@[simp] theorem modLport_get_rehome (p : Nat) (f : LinkPort → LinkPort) (b' : Nat) : (s.modLport p f).rehome b' = s.rehome b' := rfl

/-! ## modLink -/

@[simp] theorem modLink_tb (d : LinkDir) (f : LinkState → LinkState) : (s.modLink d f).tb = s.tb := rfl
@[simp] theorem modLink_freeCtr (d : LinkDir) (f : LinkState → LinkState) : (s.modLink d f).freeCtr = s.freeCtr := rfl
@[simp] theorem modLink_boot (d : LinkDir) (f : LinkState → LinkState) : (s.modLink d f).boot = s.boot := rfl
@[simp] theorem modLink_sync (d : LinkDir) (f : LinkState → LinkState) : (s.modLink d f).sync = s.sync := rfl
@[simp] theorem modLink_cane (d : LinkDir) (f : LinkState → LinkState) : (s.modLink d f).cane = s.cane := rfl
@[simp] theorem modLink_ports (d : LinkDir) (f : LinkState → LinkState) : (s.modLink d f).ports = s.ports := rfl
@[simp] theorem modLink_grp (d : LinkDir) (f : LinkState → LinkState) : (s.modLink d f).grp = s.grp := rfl
@[simp] theorem modLink_mrv (d : LinkDir) (f : LinkState → LinkState) : (s.modLink d f).mrv = s.mrv := rfl
@[simp] theorem modLink_lps (d : LinkDir) (f : LinkState → LinkState) : (s.modLink d f).lps = s.lps := rfl
@[simp] theorem modLink_flt (d : LinkDir) (f : LinkState → LinkState) : (s.modLink d f).flt = s.flt := rfl
@[simp] theorem modLink_gaf (d : LinkDir) (f : LinkState → LinkState) : (s.modLink d f).gaf = s.gaf := rfl
@[simp] theorem modLink_lehr (d : LinkDir) (f : LinkState → LinkState) : (s.modLink d f).lehr = s.lehr := rfl
@[simp] theorem modLink_host (d : LinkDir) (f : LinkState → LinkState) : (s.modLink d f).host = s.host := rfl
@[simp] theorem modLink_test (d : LinkDir) (f : LinkState → LinkState) : (s.modLink d f).test = s.test := rfl
@[simp] theorem modLink_pending (d : LinkDir) (f : LinkState → LinkState) : (s.modLink d f).pending = s.pending := rfl
@[simp] theorem modLink_fab_nodes (d : LinkDir) (f : LinkState → LinkState) : (s.modLink d f).fab.nodes = s.fab.nodes := rfl
@[simp] theorem modLink_fab_chans (d : LinkDir) (f : LinkState → LinkState) : (s.modLink d f).fab.chans = s.fab.chans := rfl
@[simp] theorem modLink_fab_masks (d : LinkDir) (f : LinkState → LinkState) : (s.modLink d f).fab.masks = s.fab.masks := rfl
@[simp] theorem modLink_fab_rehome (d : LinkDir) (f : LinkState → LinkState) : (s.modLink d f).fab.rehome = s.fab.rehome := rfl
@[simp] theorem modLink_fab_weight (d : LinkDir) (f : LinkState → LinkState) : (s.modLink d f).fab.weight = s.fab.weight := rfl
@[simp] theorem modLink_fab_pauseCh (d : LinkDir) (f : LinkState → LinkState) : (s.modLink d f).fab.pauseCh = s.fab.pauseCh := rfl
@[simp] theorem modLink_fab_pauseHalf (d : LinkDir) (f : LinkState → LinkState) : (s.modLink d f).fab.pauseHalf = s.fab.pauseHalf := rfl
@[simp] theorem modLink_fab_seamSlow (d : LinkDir) (f : LinkState → LinkState) : (s.modLink d f).fab.seamSlow = s.fab.seamSlow := rfl
@[simp] theorem modLink_get_port (d : LinkDir) (f : LinkState → LinkState) (k' : Nat) : (s.modLink d f).port k' = s.port k' := rfl
@[simp] theorem modLink_get_group (d : LinkDir) (f : LinkState → LinkState) (g' : Nat) : (s.modLink d f).group g' = s.group g' := rfl
@[simp] theorem modLink_get_obj (d : LinkDir) (f : LinkState → LinkState) (i' : Nat) : (s.modLink d f).obj i' = s.obj i' := rfl
@[simp] theorem modLink_get_cchan (d : LinkDir) (f : LinkState → LinkState) (c' : Nat) : (s.modLink d f).cchan c' = s.cchan c' := rfl
@[simp] theorem modLink_get_tenant (d : LinkDir) (f : LinkState → LinkState) (t' : Nat) : (s.modLink d f).tenant t' = s.tenant t' := rfl
@[simp] theorem modLink_get_mbox (d : LinkDir) (f : LinkState → LinkState) (m' : Nat) : (s.modLink d f).mbox m' = s.mbox m' := rfl
@[simp] theorem modLink_get_slot (d : LinkDir) (f : LinkState → LinkState) (n' : Nat) : (s.modLink d f).slot n' = s.slot n' := rfl
@[simp] theorem modLink_get_sched (d : LinkDir) (f : LinkState → LinkState) (n' : Nat) : (s.modLink d f).sched n' = s.sched n' := rfl
@[simp] theorem modLink_get_mport (d : LinkDir) (f : LinkState → LinkState) (n' : Nat) : (s.modLink d f).mport n' = s.mport n' := rfl
@[simp] theorem modLink_get_sliceOf (d : LinkDir) (f : LinkState → LinkState) (i' : Nat) : (s.modLink d f).sliceOf i' = s.sliceOf i' := rfl
@[simp] theorem modLink_get_lport (d : LinkDir) (f : LinkState → LinkState) (p' : Nat) : (s.modLink d f).lport p' = s.lport p' := rfl
@[simp] theorem modLink_get_node (d : LinkDir) (f : LinkState → LinkState) (n' : NodeId) : (s.modLink d f).node n' = s.node n' := rfl
@[simp] theorem modLink_get_nchan (d : LinkDir) (f : LinkState → LinkState) (n' : NodeId) (h' : Nat) (x' : Bool) : (s.modLink d f).nchan n' h' x' = s.nchan n' h' x' := rfl
@[simp] theorem modLink_get_maskOf (d : LinkDir) (f : LinkState → LinkState) (n' : NodeId) (g' : Nat) : (s.modLink d f).maskOf n' g' = s.maskOf n' g' := rfl
@[simp] theorem modLink_get_rehome (d : LinkDir) (f : LinkState → LinkState) (b' : Nat) : (s.modLink d f).rehome b' = s.rehome b' := rfl

/-! ## modNode -/

@[simp] theorem modNode_tb (n : NodeId) (f : NodeState → NodeState) : (s.modNode n f).tb = s.tb := rfl
@[simp] theorem modNode_freeCtr (n : NodeId) (f : NodeState → NodeState) : (s.modNode n f).freeCtr = s.freeCtr := rfl
@[simp] theorem modNode_boot (n : NodeId) (f : NodeState → NodeState) : (s.modNode n f).boot = s.boot := rfl
@[simp] theorem modNode_sync (n : NodeId) (f : NodeState → NodeState) : (s.modNode n f).sync = s.sync := rfl
@[simp] theorem modNode_cane (n : NodeId) (f : NodeState → NodeState) : (s.modNode n f).cane = s.cane := rfl
@[simp] theorem modNode_ports (n : NodeId) (f : NodeState → NodeState) : (s.modNode n f).ports = s.ports := rfl
@[simp] theorem modNode_grp (n : NodeId) (f : NodeState → NodeState) : (s.modNode n f).grp = s.grp := rfl
@[simp] theorem modNode_mrv (n : NodeId) (f : NodeState → NodeState) : (s.modNode n f).mrv = s.mrv := rfl
@[simp] theorem modNode_lps (n : NodeId) (f : NodeState → NodeState) : (s.modNode n f).lps = s.lps := rfl
@[simp] theorem modNode_flt (n : NodeId) (f : NodeState → NodeState) : (s.modNode n f).flt = s.flt := rfl
@[simp] theorem modNode_gaf (n : NodeId) (f : NodeState → NodeState) : (s.modNode n f).gaf = s.gaf := rfl
@[simp] theorem modNode_lehr (n : NodeId) (f : NodeState → NodeState) : (s.modNode n f).lehr = s.lehr := rfl
@[simp] theorem modNode_host (n : NodeId) (f : NodeState → NodeState) : (s.modNode n f).host = s.host := rfl
@[simp] theorem modNode_test (n : NodeId) (f : NodeState → NodeState) : (s.modNode n f).test = s.test := rfl
@[simp] theorem modNode_pending (n : NodeId) (f : NodeState → NodeState) : (s.modNode n f).pending = s.pending := rfl
@[simp] theorem modNode_fab_links (n : NodeId) (f : NodeState → NodeState) : (s.modNode n f).fab.links = s.fab.links := rfl
@[simp] theorem modNode_fab_chans (n : NodeId) (f : NodeState → NodeState) : (s.modNode n f).fab.chans = s.fab.chans := rfl
@[simp] theorem modNode_fab_masks (n : NodeId) (f : NodeState → NodeState) : (s.modNode n f).fab.masks = s.fab.masks := rfl
@[simp] theorem modNode_fab_rehome (n : NodeId) (f : NodeState → NodeState) : (s.modNode n f).fab.rehome = s.fab.rehome := rfl
@[simp] theorem modNode_fab_weight (n : NodeId) (f : NodeState → NodeState) : (s.modNode n f).fab.weight = s.fab.weight := rfl
@[simp] theorem modNode_fab_pauseCh (n : NodeId) (f : NodeState → NodeState) : (s.modNode n f).fab.pauseCh = s.fab.pauseCh := rfl
@[simp] theorem modNode_fab_pauseHalf (n : NodeId) (f : NodeState → NodeState) : (s.modNode n f).fab.pauseHalf = s.fab.pauseHalf := rfl
@[simp] theorem modNode_fab_seamSlow (n : NodeId) (f : NodeState → NodeState) : (s.modNode n f).fab.seamSlow = s.fab.seamSlow := rfl
@[simp] theorem modNode_get_port (n : NodeId) (f : NodeState → NodeState) (k' : Nat) : (s.modNode n f).port k' = s.port k' := rfl
@[simp] theorem modNode_get_group (n : NodeId) (f : NodeState → NodeState) (g' : Nat) : (s.modNode n f).group g' = s.group g' := rfl
@[simp] theorem modNode_get_obj (n : NodeId) (f : NodeState → NodeState) (i' : Nat) : (s.modNode n f).obj i' = s.obj i' := rfl
@[simp] theorem modNode_get_cchan (n : NodeId) (f : NodeState → NodeState) (c' : Nat) : (s.modNode n f).cchan c' = s.cchan c' := rfl
@[simp] theorem modNode_get_tenant (n : NodeId) (f : NodeState → NodeState) (t' : Nat) : (s.modNode n f).tenant t' = s.tenant t' := rfl
@[simp] theorem modNode_get_mbox (n : NodeId) (f : NodeState → NodeState) (m' : Nat) : (s.modNode n f).mbox m' = s.mbox m' := rfl
@[simp] theorem modNode_get_slot (n : NodeId) (f : NodeState → NodeState) (n' : Nat) : (s.modNode n f).slot n' = s.slot n' := rfl
@[simp] theorem modNode_get_sched (n : NodeId) (f : NodeState → NodeState) (n' : Nat) : (s.modNode n f).sched n' = s.sched n' := rfl
@[simp] theorem modNode_get_mport (n : NodeId) (f : NodeState → NodeState) (n' : Nat) : (s.modNode n f).mport n' = s.mport n' := rfl
@[simp] theorem modNode_get_sliceOf (n : NodeId) (f : NodeState → NodeState) (i' : Nat) : (s.modNode n f).sliceOf i' = s.sliceOf i' := rfl
@[simp] theorem modNode_get_lport (n : NodeId) (f : NodeState → NodeState) (p' : Nat) : (s.modNode n f).lport p' = s.lport p' := rfl
@[simp] theorem modNode_get_link (n : NodeId) (f : NodeState → NodeState) (d' : LinkDir) : (s.modNode n f).link d' = s.link d' := rfl
@[simp] theorem modNode_get_nchan (n : NodeId) (f : NodeState → NodeState) (n' : NodeId) (h' : Nat) (x' : Bool) : (s.modNode n f).nchan n' h' x' = s.nchan n' h' x' := rfl
@[simp] theorem modNode_get_maskOf (n : NodeId) (f : NodeState → NodeState) (n' : NodeId) (g' : Nat) : (s.modNode n f).maskOf n' g' = s.maskOf n' g' := rfl
@[simp] theorem modNode_get_rehome (n : NodeId) (f : NodeState → NodeState) (b' : Nat) : (s.modNode n f).rehome b' = s.rehome b' := rfl

/-! ## modNchan -/

@[simp] theorem modNchan_tb (n : NodeId) (ch : Nat) (ctx : Bool) (f : NodeChan → NodeChan) : (s.modNchan n ch ctx f).tb = s.tb := rfl
@[simp] theorem modNchan_freeCtr (n : NodeId) (ch : Nat) (ctx : Bool) (f : NodeChan → NodeChan) : (s.modNchan n ch ctx f).freeCtr = s.freeCtr := rfl
@[simp] theorem modNchan_boot (n : NodeId) (ch : Nat) (ctx : Bool) (f : NodeChan → NodeChan) : (s.modNchan n ch ctx f).boot = s.boot := rfl
@[simp] theorem modNchan_sync (n : NodeId) (ch : Nat) (ctx : Bool) (f : NodeChan → NodeChan) : (s.modNchan n ch ctx f).sync = s.sync := rfl
@[simp] theorem modNchan_cane (n : NodeId) (ch : Nat) (ctx : Bool) (f : NodeChan → NodeChan) : (s.modNchan n ch ctx f).cane = s.cane := rfl
@[simp] theorem modNchan_ports (n : NodeId) (ch : Nat) (ctx : Bool) (f : NodeChan → NodeChan) : (s.modNchan n ch ctx f).ports = s.ports := rfl
@[simp] theorem modNchan_grp (n : NodeId) (ch : Nat) (ctx : Bool) (f : NodeChan → NodeChan) : (s.modNchan n ch ctx f).grp = s.grp := rfl
@[simp] theorem modNchan_mrv (n : NodeId) (ch : Nat) (ctx : Bool) (f : NodeChan → NodeChan) : (s.modNchan n ch ctx f).mrv = s.mrv := rfl
@[simp] theorem modNchan_lps (n : NodeId) (ch : Nat) (ctx : Bool) (f : NodeChan → NodeChan) : (s.modNchan n ch ctx f).lps = s.lps := rfl
@[simp] theorem modNchan_flt (n : NodeId) (ch : Nat) (ctx : Bool) (f : NodeChan → NodeChan) : (s.modNchan n ch ctx f).flt = s.flt := rfl
@[simp] theorem modNchan_gaf (n : NodeId) (ch : Nat) (ctx : Bool) (f : NodeChan → NodeChan) : (s.modNchan n ch ctx f).gaf = s.gaf := rfl
@[simp] theorem modNchan_lehr (n : NodeId) (ch : Nat) (ctx : Bool) (f : NodeChan → NodeChan) : (s.modNchan n ch ctx f).lehr = s.lehr := rfl
@[simp] theorem modNchan_host (n : NodeId) (ch : Nat) (ctx : Bool) (f : NodeChan → NodeChan) : (s.modNchan n ch ctx f).host = s.host := rfl
@[simp] theorem modNchan_test (n : NodeId) (ch : Nat) (ctx : Bool) (f : NodeChan → NodeChan) : (s.modNchan n ch ctx f).test = s.test := rfl
@[simp] theorem modNchan_pending (n : NodeId) (ch : Nat) (ctx : Bool) (f : NodeChan → NodeChan) : (s.modNchan n ch ctx f).pending = s.pending := rfl
@[simp] theorem modNchan_fab_links (n : NodeId) (ch : Nat) (ctx : Bool) (f : NodeChan → NodeChan) : (s.modNchan n ch ctx f).fab.links = s.fab.links := rfl
@[simp] theorem modNchan_fab_nodes (n : NodeId) (ch : Nat) (ctx : Bool) (f : NodeChan → NodeChan) : (s.modNchan n ch ctx f).fab.nodes = s.fab.nodes := rfl
@[simp] theorem modNchan_fab_masks (n : NodeId) (ch : Nat) (ctx : Bool) (f : NodeChan → NodeChan) : (s.modNchan n ch ctx f).fab.masks = s.fab.masks := rfl
@[simp] theorem modNchan_fab_rehome (n : NodeId) (ch : Nat) (ctx : Bool) (f : NodeChan → NodeChan) : (s.modNchan n ch ctx f).fab.rehome = s.fab.rehome := rfl
@[simp] theorem modNchan_fab_weight (n : NodeId) (ch : Nat) (ctx : Bool) (f : NodeChan → NodeChan) : (s.modNchan n ch ctx f).fab.weight = s.fab.weight := rfl
@[simp] theorem modNchan_fab_pauseCh (n : NodeId) (ch : Nat) (ctx : Bool) (f : NodeChan → NodeChan) : (s.modNchan n ch ctx f).fab.pauseCh = s.fab.pauseCh := rfl
@[simp] theorem modNchan_fab_pauseHalf (n : NodeId) (ch : Nat) (ctx : Bool) (f : NodeChan → NodeChan) : (s.modNchan n ch ctx f).fab.pauseHalf = s.fab.pauseHalf := rfl
@[simp] theorem modNchan_fab_seamSlow (n : NodeId) (ch : Nat) (ctx : Bool) (f : NodeChan → NodeChan) : (s.modNchan n ch ctx f).fab.seamSlow = s.fab.seamSlow := rfl
@[simp] theorem modNchan_get_port (n : NodeId) (ch : Nat) (ctx : Bool) (f : NodeChan → NodeChan) (k' : Nat) : (s.modNchan n ch ctx f).port k' = s.port k' := rfl
@[simp] theorem modNchan_get_group (n : NodeId) (ch : Nat) (ctx : Bool) (f : NodeChan → NodeChan) (g' : Nat) : (s.modNchan n ch ctx f).group g' = s.group g' := rfl
@[simp] theorem modNchan_get_obj (n : NodeId) (ch : Nat) (ctx : Bool) (f : NodeChan → NodeChan) (i' : Nat) : (s.modNchan n ch ctx f).obj i' = s.obj i' := rfl
@[simp] theorem modNchan_get_cchan (n : NodeId) (ch : Nat) (ctx : Bool) (f : NodeChan → NodeChan) (c' : Nat) : (s.modNchan n ch ctx f).cchan c' = s.cchan c' := rfl
@[simp] theorem modNchan_get_tenant (n : NodeId) (ch : Nat) (ctx : Bool) (f : NodeChan → NodeChan) (t' : Nat) : (s.modNchan n ch ctx f).tenant t' = s.tenant t' := rfl
@[simp] theorem modNchan_get_mbox (n : NodeId) (ch : Nat) (ctx : Bool) (f : NodeChan → NodeChan) (m' : Nat) : (s.modNchan n ch ctx f).mbox m' = s.mbox m' := rfl
@[simp] theorem modNchan_get_slot (n : NodeId) (ch : Nat) (ctx : Bool) (f : NodeChan → NodeChan) (n' : Nat) : (s.modNchan n ch ctx f).slot n' = s.slot n' := rfl
@[simp] theorem modNchan_get_sched (n : NodeId) (ch : Nat) (ctx : Bool) (f : NodeChan → NodeChan) (n' : Nat) : (s.modNchan n ch ctx f).sched n' = s.sched n' := rfl
@[simp] theorem modNchan_get_mport (n : NodeId) (ch : Nat) (ctx : Bool) (f : NodeChan → NodeChan) (n' : Nat) : (s.modNchan n ch ctx f).mport n' = s.mport n' := rfl
@[simp] theorem modNchan_get_sliceOf (n : NodeId) (ch : Nat) (ctx : Bool) (f : NodeChan → NodeChan) (i' : Nat) : (s.modNchan n ch ctx f).sliceOf i' = s.sliceOf i' := rfl
@[simp] theorem modNchan_get_lport (n : NodeId) (ch : Nat) (ctx : Bool) (f : NodeChan → NodeChan) (p' : Nat) : (s.modNchan n ch ctx f).lport p' = s.lport p' := rfl
@[simp] theorem modNchan_get_link (n : NodeId) (ch : Nat) (ctx : Bool) (f : NodeChan → NodeChan) (d' : LinkDir) : (s.modNchan n ch ctx f).link d' = s.link d' := rfl
@[simp] theorem modNchan_get_node (n : NodeId) (ch : Nat) (ctx : Bool) (f : NodeChan → NodeChan) (n' : NodeId) : (s.modNchan n ch ctx f).node n' = s.node n' := rfl
@[simp] theorem modNchan_get_maskOf (n : NodeId) (ch : Nat) (ctx : Bool) (f : NodeChan → NodeChan) (n' : NodeId) (g' : Nat) : (s.modNchan n ch ctx f).maskOf n' g' = s.maskOf n' g' := rfl
@[simp] theorem modNchan_get_rehome (n : NodeId) (ch : Nat) (ctx : Bool) (f : NodeChan → NodeChan) (b' : Nat) : (s.modNchan n ch ctx f).rehome b' = s.rehome b' := rfl

/-! ## setMask -/

@[simp] theorem setMask_tb (n : NodeId) (g : Nat) (m : Option MaskEntry) : (s.setMask n g m).tb = s.tb := rfl
@[simp] theorem setMask_freeCtr (n : NodeId) (g : Nat) (m : Option MaskEntry) : (s.setMask n g m).freeCtr = s.freeCtr := rfl
@[simp] theorem setMask_boot (n : NodeId) (g : Nat) (m : Option MaskEntry) : (s.setMask n g m).boot = s.boot := rfl
@[simp] theorem setMask_sync (n : NodeId) (g : Nat) (m : Option MaskEntry) : (s.setMask n g m).sync = s.sync := rfl
@[simp] theorem setMask_cane (n : NodeId) (g : Nat) (m : Option MaskEntry) : (s.setMask n g m).cane = s.cane := rfl
@[simp] theorem setMask_ports (n : NodeId) (g : Nat) (m : Option MaskEntry) : (s.setMask n g m).ports = s.ports := rfl
@[simp] theorem setMask_grp (n : NodeId) (g : Nat) (m : Option MaskEntry) : (s.setMask n g m).grp = s.grp := rfl
@[simp] theorem setMask_mrv (n : NodeId) (g : Nat) (m : Option MaskEntry) : (s.setMask n g m).mrv = s.mrv := rfl
@[simp] theorem setMask_lps (n : NodeId) (g : Nat) (m : Option MaskEntry) : (s.setMask n g m).lps = s.lps := rfl
@[simp] theorem setMask_flt (n : NodeId) (g : Nat) (m : Option MaskEntry) : (s.setMask n g m).flt = s.flt := rfl
@[simp] theorem setMask_gaf (n : NodeId) (g : Nat) (m : Option MaskEntry) : (s.setMask n g m).gaf = s.gaf := rfl
@[simp] theorem setMask_lehr (n : NodeId) (g : Nat) (m : Option MaskEntry) : (s.setMask n g m).lehr = s.lehr := rfl
@[simp] theorem setMask_host (n : NodeId) (g : Nat) (m : Option MaskEntry) : (s.setMask n g m).host = s.host := rfl
@[simp] theorem setMask_test (n : NodeId) (g : Nat) (m : Option MaskEntry) : (s.setMask n g m).test = s.test := rfl
@[simp] theorem setMask_pending (n : NodeId) (g : Nat) (m : Option MaskEntry) : (s.setMask n g m).pending = s.pending := rfl
@[simp] theorem setMask_fab_links (n : NodeId) (g : Nat) (m : Option MaskEntry) : (s.setMask n g m).fab.links = s.fab.links := rfl
@[simp] theorem setMask_fab_nodes (n : NodeId) (g : Nat) (m : Option MaskEntry) : (s.setMask n g m).fab.nodes = s.fab.nodes := rfl
@[simp] theorem setMask_fab_chans (n : NodeId) (g : Nat) (m : Option MaskEntry) : (s.setMask n g m).fab.chans = s.fab.chans := rfl
@[simp] theorem setMask_fab_rehome (n : NodeId) (g : Nat) (m : Option MaskEntry) : (s.setMask n g m).fab.rehome = s.fab.rehome := rfl
@[simp] theorem setMask_fab_weight (n : NodeId) (g : Nat) (m : Option MaskEntry) : (s.setMask n g m).fab.weight = s.fab.weight := rfl
@[simp] theorem setMask_fab_pauseCh (n : NodeId) (g : Nat) (m : Option MaskEntry) : (s.setMask n g m).fab.pauseCh = s.fab.pauseCh := rfl
@[simp] theorem setMask_fab_pauseHalf (n : NodeId) (g : Nat) (m : Option MaskEntry) : (s.setMask n g m).fab.pauseHalf = s.fab.pauseHalf := rfl
@[simp] theorem setMask_fab_seamSlow (n : NodeId) (g : Nat) (m : Option MaskEntry) : (s.setMask n g m).fab.seamSlow = s.fab.seamSlow := rfl
@[simp] theorem setMask_get_port (n : NodeId) (g : Nat) (m : Option MaskEntry) (k' : Nat) : (s.setMask n g m).port k' = s.port k' := rfl
@[simp] theorem setMask_get_group (n : NodeId) (g : Nat) (m : Option MaskEntry) (g' : Nat) : (s.setMask n g m).group g' = s.group g' := rfl
@[simp] theorem setMask_get_obj (n : NodeId) (g : Nat) (m : Option MaskEntry) (i' : Nat) : (s.setMask n g m).obj i' = s.obj i' := rfl
@[simp] theorem setMask_get_cchan (n : NodeId) (g : Nat) (m : Option MaskEntry) (c' : Nat) : (s.setMask n g m).cchan c' = s.cchan c' := rfl
@[simp] theorem setMask_get_tenant (n : NodeId) (g : Nat) (m : Option MaskEntry) (t' : Nat) : (s.setMask n g m).tenant t' = s.tenant t' := rfl
@[simp] theorem setMask_get_mbox (n : NodeId) (g : Nat) (m : Option MaskEntry) (m' : Nat) : (s.setMask n g m).mbox m' = s.mbox m' := rfl
@[simp] theorem setMask_get_slot (n : NodeId) (g : Nat) (m : Option MaskEntry) (n' : Nat) : (s.setMask n g m).slot n' = s.slot n' := rfl
@[simp] theorem setMask_get_sched (n : NodeId) (g : Nat) (m : Option MaskEntry) (n' : Nat) : (s.setMask n g m).sched n' = s.sched n' := rfl
@[simp] theorem setMask_get_mport (n : NodeId) (g : Nat) (m : Option MaskEntry) (n' : Nat) : (s.setMask n g m).mport n' = s.mport n' := rfl
@[simp] theorem setMask_get_sliceOf (n : NodeId) (g : Nat) (m : Option MaskEntry) (i' : Nat) : (s.setMask n g m).sliceOf i' = s.sliceOf i' := rfl
@[simp] theorem setMask_get_lport (n : NodeId) (g : Nat) (m : Option MaskEntry) (p' : Nat) : (s.setMask n g m).lport p' = s.lport p' := rfl
@[simp] theorem setMask_get_link (n : NodeId) (g : Nat) (m : Option MaskEntry) (d' : LinkDir) : (s.setMask n g m).link d' = s.link d' := rfl
@[simp] theorem setMask_get_node (n : NodeId) (g : Nat) (m : Option MaskEntry) (n' : NodeId) : (s.setMask n g m).node n' = s.node n' := rfl
@[simp] theorem setMask_get_nchan (n : NodeId) (g : Nat) (m : Option MaskEntry) (n' : NodeId) (h' : Nat) (x' : Bool) : (s.setMask n g m).nchan n' h' x' = s.nchan n' h' x' := rfl
@[simp] theorem setMask_get_rehome (n : NodeId) (g : Nat) (m : Option MaskEntry) (b' : Nat) : (s.setMask n g m).rehome b' = s.rehome b' := rfl

/-! ## modRehome -/

@[simp] theorem modRehome_tb (b : Nat) (f : Rehome → Rehome) : (s.modRehome b f).tb = s.tb := rfl
@[simp] theorem modRehome_freeCtr (b : Nat) (f : Rehome → Rehome) : (s.modRehome b f).freeCtr = s.freeCtr := rfl
@[simp] theorem modRehome_boot (b : Nat) (f : Rehome → Rehome) : (s.modRehome b f).boot = s.boot := rfl
@[simp] theorem modRehome_sync (b : Nat) (f : Rehome → Rehome) : (s.modRehome b f).sync = s.sync := rfl
@[simp] theorem modRehome_cane (b : Nat) (f : Rehome → Rehome) : (s.modRehome b f).cane = s.cane := rfl
@[simp] theorem modRehome_ports (b : Nat) (f : Rehome → Rehome) : (s.modRehome b f).ports = s.ports := rfl
@[simp] theorem modRehome_grp (b : Nat) (f : Rehome → Rehome) : (s.modRehome b f).grp = s.grp := rfl
@[simp] theorem modRehome_mrv (b : Nat) (f : Rehome → Rehome) : (s.modRehome b f).mrv = s.mrv := rfl
@[simp] theorem modRehome_lps (b : Nat) (f : Rehome → Rehome) : (s.modRehome b f).lps = s.lps := rfl
@[simp] theorem modRehome_flt (b : Nat) (f : Rehome → Rehome) : (s.modRehome b f).flt = s.flt := rfl
@[simp] theorem modRehome_gaf (b : Nat) (f : Rehome → Rehome) : (s.modRehome b f).gaf = s.gaf := rfl
@[simp] theorem modRehome_lehr (b : Nat) (f : Rehome → Rehome) : (s.modRehome b f).lehr = s.lehr := rfl
@[simp] theorem modRehome_host (b : Nat) (f : Rehome → Rehome) : (s.modRehome b f).host = s.host := rfl
@[simp] theorem modRehome_test (b : Nat) (f : Rehome → Rehome) : (s.modRehome b f).test = s.test := rfl
@[simp] theorem modRehome_pending (b : Nat) (f : Rehome → Rehome) : (s.modRehome b f).pending = s.pending := rfl
@[simp] theorem modRehome_fab_links (b : Nat) (f : Rehome → Rehome) : (s.modRehome b f).fab.links = s.fab.links := rfl
@[simp] theorem modRehome_fab_nodes (b : Nat) (f : Rehome → Rehome) : (s.modRehome b f).fab.nodes = s.fab.nodes := rfl
@[simp] theorem modRehome_fab_chans (b : Nat) (f : Rehome → Rehome) : (s.modRehome b f).fab.chans = s.fab.chans := rfl
@[simp] theorem modRehome_fab_masks (b : Nat) (f : Rehome → Rehome) : (s.modRehome b f).fab.masks = s.fab.masks := rfl
@[simp] theorem modRehome_fab_weight (b : Nat) (f : Rehome → Rehome) : (s.modRehome b f).fab.weight = s.fab.weight := rfl
@[simp] theorem modRehome_fab_pauseCh (b : Nat) (f : Rehome → Rehome) : (s.modRehome b f).fab.pauseCh = s.fab.pauseCh := rfl
@[simp] theorem modRehome_fab_pauseHalf (b : Nat) (f : Rehome → Rehome) : (s.modRehome b f).fab.pauseHalf = s.fab.pauseHalf := rfl
@[simp] theorem modRehome_fab_seamSlow (b : Nat) (f : Rehome → Rehome) : (s.modRehome b f).fab.seamSlow = s.fab.seamSlow := rfl
@[simp] theorem modRehome_get_port (b : Nat) (f : Rehome → Rehome) (k' : Nat) : (s.modRehome b f).port k' = s.port k' := rfl
@[simp] theorem modRehome_get_group (b : Nat) (f : Rehome → Rehome) (g' : Nat) : (s.modRehome b f).group g' = s.group g' := rfl
@[simp] theorem modRehome_get_obj (b : Nat) (f : Rehome → Rehome) (i' : Nat) : (s.modRehome b f).obj i' = s.obj i' := rfl
@[simp] theorem modRehome_get_cchan (b : Nat) (f : Rehome → Rehome) (c' : Nat) : (s.modRehome b f).cchan c' = s.cchan c' := rfl
@[simp] theorem modRehome_get_tenant (b : Nat) (f : Rehome → Rehome) (t' : Nat) : (s.modRehome b f).tenant t' = s.tenant t' := rfl
@[simp] theorem modRehome_get_mbox (b : Nat) (f : Rehome → Rehome) (m' : Nat) : (s.modRehome b f).mbox m' = s.mbox m' := rfl
@[simp] theorem modRehome_get_slot (b : Nat) (f : Rehome → Rehome) (n' : Nat) : (s.modRehome b f).slot n' = s.slot n' := rfl
@[simp] theorem modRehome_get_sched (b : Nat) (f : Rehome → Rehome) (n' : Nat) : (s.modRehome b f).sched n' = s.sched n' := rfl
@[simp] theorem modRehome_get_mport (b : Nat) (f : Rehome → Rehome) (n' : Nat) : (s.modRehome b f).mport n' = s.mport n' := rfl
@[simp] theorem modRehome_get_sliceOf (b : Nat) (f : Rehome → Rehome) (i' : Nat) : (s.modRehome b f).sliceOf i' = s.sliceOf i' := rfl
@[simp] theorem modRehome_get_lport (b : Nat) (f : Rehome → Rehome) (p' : Nat) : (s.modRehome b f).lport p' = s.lport p' := rfl
@[simp] theorem modRehome_get_link (b : Nat) (f : Rehome → Rehome) (d' : LinkDir) : (s.modRehome b f).link d' = s.link d' := rfl
@[simp] theorem modRehome_get_node (b : Nat) (f : Rehome → Rehome) (n' : NodeId) : (s.modRehome b f).node n' = s.node n' := rfl
@[simp] theorem modRehome_get_nchan (b : Nat) (f : Rehome → Rehome) (n' : NodeId) (h' : Nat) (x' : Bool) : (s.modRehome b f).nchan n' h' x' = s.nchan n' h' x' := rfl
@[simp] theorem modRehome_get_maskOf (b : Nat) (f : Rehome → Rehome) (n' : NodeId) (g' : Nat) : (s.modRehome b f).maskOf n' g' = s.maskOf n' g' := rfl

/-! ## What a read answers after a write to the same or another item -/

@[simp] theorem port_modPort_same (k : Nat) (f : CorePort → CorePort) : (s.modPort k f).port k = f (s.port k) := by simp [State.modPort, State.port]
theorem port_modPort_ne (k : Nat) (f : CorePort → CorePort) {j : Nat} (h : j ≠ k) : (s.modPort k f).port j = s.port j := by simp [State.modPort, State.port, tabGet_tabMod_ne _ h]
@[simp] theorem group_modGroup_same (g : Nat) (f : Group → Group) : (s.modGroup g f).group g = f (s.group g) := by simp [State.modGroup, State.group]
theorem group_modGroup_ne (g : Nat) (f : Group → Group) {j : Nat} (h : j ≠ g) : (s.modGroup g f).group j = s.group j := by simp [State.modGroup, State.group, tabGet_tabMod_ne _ h]
@[simp] theorem obj_modObj_same (i : Nat) (f : SyncObj → SyncObj) : (s.modObj i f).obj i = f (s.obj i) := by simp [State.modObj, State.obj]
theorem obj_modObj_ne (i : Nat) (f : SyncObj → SyncObj) {j : Nat} (h : j ≠ i) : (s.modObj i f).obj j = s.obj j := by simp [State.modObj, State.obj, tabGet_tabMod_ne _ h]
@[simp] theorem cchan_modCchan_same (cn : Nat) (f : CaneChan → CaneChan) : (s.modCchan cn f).cchan cn = f (s.cchan cn) := by simp [State.modCchan, State.cchan]
theorem cchan_modCchan_ne (cn : Nat) (f : CaneChan → CaneChan) {j : Nat} (h : j ≠ cn) : (s.modCchan cn f).cchan j = s.cchan j := by simp [State.modCchan, State.cchan, tabGet_tabMod_ne _ h]
@[simp] theorem tenant_modTenant_same (t : Nat) (f : Tenant → Tenant) : (s.modTenant t f).tenant t = f (s.tenant t) := by simp [State.modTenant, State.tenant]
theorem tenant_modTenant_ne (t : Nat) (f : Tenant → Tenant) {j : Nat} (h : j ≠ t) : (s.modTenant t f).tenant j = s.tenant j := by simp [State.modTenant, State.tenant, tabGet_tabMod_ne _ h]
@[simp] theorem mbox_modMbox_same (m : Nat) (f : Mailbox → Mailbox) : (s.modMbox m f).mbox m = f (s.mbox m) := by simp [State.modMbox, State.mbox]
theorem mbox_modMbox_ne (m : Nat) (f : Mailbox → Mailbox) {j : Nat} (h : j ≠ m) : (s.modMbox m f).mbox j = s.mbox j := by simp [State.modMbox, State.mbox, tabGet_tabMod_ne _ h]
@[simp] theorem slot_modSlot_same (n : Nat) (f : Slot → Slot) : (s.modSlot n f).slot n = f (s.slot n) := by simp [State.modSlot, State.slot]
theorem slot_modSlot_ne (n : Nat) (f : Slot → Slot) {j : Nat} (h : j ≠ n) : (s.modSlot n f).slot j = s.slot j := by simp [State.modSlot, State.slot, tabGet_tabMod_ne _ h]
@[simp] theorem mport_modMport_same (n : Nat) (f : MemPort → MemPort) : (s.modMport n f).mport n = f (s.mport n) := by simp [State.modMport, State.mport]
theorem mport_modMport_ne (n : Nat) (f : MemPort → MemPort) {j : Nat} (h : j ≠ n) : (s.modMport n f).mport j = s.mport j := by simp [State.modMport, State.mport, tabGet_tabMod_ne _ h]
@[simp] theorem sliceOf_modSlice_same (i : Nat) (f : Slice → Slice) : (s.modSlice i f).sliceOf i = f (s.sliceOf i) := by simp [State.modSlice, State.sliceOf]
theorem sliceOf_modSlice_ne (i : Nat) (f : Slice → Slice) {j : Nat} (h : j ≠ i) : (s.modSlice i f).sliceOf j = s.sliceOf j := by simp [State.modSlice, State.sliceOf, tabGet_tabMod_ne _ h]
@[simp] theorem lport_modLport_same (p : Nat) (f : LinkPort → LinkPort) : (s.modLport p f).lport p = f (s.lport p) := by simp [State.modLport, State.lport]
theorem lport_modLport_ne (p : Nat) (f : LinkPort → LinkPort) {j : Nat} (h : j ≠ p) : (s.modLport p f).lport j = s.lport j := by simp [State.modLport, State.lport, tabGet_tabMod_ne _ h]
@[simp] theorem rehome_modRehome_same (b : Nat) (f : Rehome → Rehome) : (s.modRehome b f).rehome b = f (s.rehome b) := by simp [State.modRehome, State.rehome]
theorem rehome_modRehome_ne (b : Nat) (f : Rehome → Rehome) {j : Nat} (h : j ≠ b) : (s.modRehome b f).rehome j = s.rehome j := by simp [State.modRehome, State.rehome, tabGet_tabMod_ne _ h]
@[simp] theorem link_modLink_same (d : LinkDir) (f : LinkState → LinkState) : (s.modLink d f).link d = f (s.link d) := by simp [State.modLink, State.link]
theorem link_modLink_ne (d : LinkDir) (f : LinkState → LinkState) {e : LinkDir} (h : e.key ≠ d.key) : (s.modLink d f).link e = s.link e := by simp [State.modLink, State.link, tabGet_tabMod_ne _ h]
@[simp] theorem node_modNode_same (n : NodeId) (f : NodeState → NodeState) : (s.modNode n f).node n = f (s.node n) := by simp [State.modNode, State.node]
theorem node_modNode_ne (n : NodeId) (f : NodeState → NodeState) {e : NodeId} (h : e.key ≠ n.key) : (s.modNode n f).node e = s.node e := by simp [State.modNode, State.node, tabGet_tabMod_ne _ h]
@[simp] theorem sched_setSched_same (n : Nat) (v : Option Sched) : (s.setSched n v).sched n = v := by simp [State.setSched, State.sched]
theorem sched_setSched_ne (n : Nat) (v : Option Sched) {j : Nat} (h : j ≠ n) : (s.setSched n v).sched j = s.sched j := by
  simp [State.setSched, State.sched, tabGet_tabSet_ne _ h]
@[simp] theorem sched_modSched_same (n : Nat) (f : Sched → Sched) : (s.modSched n f).sched n = (s.sched n).map f := by simp [State.modSched]
theorem sched_modSched_ne (n : Nat) (f : Sched → Sched) {j : Nat} (h : j ≠ n) : (s.modSched n f).sched j = s.sched j := by
  simp [State.modSched, sched_setSched_ne _ _ _ h]
@[simp] theorem nchan_modNchan_same (n : NodeId) (ch : Nat) (ctx : Bool) (f : NodeChan → NodeChan) :
    (s.modNchan n ch ctx f).nchan n ch ctx = f (s.nchan n ch ctx) := by simp [State.modNchan, State.nchan]
theorem nchan_modNchan_ne (n : NodeId) (ch : Nat) (ctx : Bool) (f : NodeChan → NodeChan) {m : NodeId} {c : Nat} {x : Bool}
    (h : m.key * 32 + chCtx c x ≠ n.key * 32 + chCtx ch ctx) : (s.modNchan n ch ctx f).nchan m c x = s.nchan m c x := by
  simp [State.modNchan, State.nchan, tabGet_tabMod_ne _ h]
@[simp] theorem maskOf_setMask_same (n : NodeId) (g : Nat) (m : Option MaskEntry) : (s.setMask n g m).maskOf n g = m := by
  simp [State.setMask, State.maskOf]

/-! ## The free counter -/

@[simp] theorem takeFree_fst : (takeFree s).1 = Config.freeNat s.freeCtr := rfl
@[simp] theorem takeFree_tb : (takeFree s).2.tb = s.tb := rfl
@[simp] theorem takeFree_boot : (takeFree s).2.boot = s.boot := rfl
@[simp] theorem takeFree_fab : (takeFree s).2.fab = s.fab := rfl
@[simp] theorem takeFree_sync : (takeFree s).2.sync = s.sync := rfl
@[simp] theorem takeFree_cane : (takeFree s).2.cane = s.cane := rfl
@[simp] theorem takeFree_ports : (takeFree s).2.ports = s.ports := rfl
@[simp] theorem takeFree_grp : (takeFree s).2.grp = s.grp := rfl
@[simp] theorem takeFree_mrv : (takeFree s).2.mrv = s.mrv := rfl
@[simp] theorem takeFree_lps : (takeFree s).2.lps = s.lps := rfl
@[simp] theorem takeFree_flt : (takeFree s).2.flt = s.flt := rfl
@[simp] theorem takeFree_gaf : (takeFree s).2.gaf = s.gaf := rfl
@[simp] theorem takeFree_lehr : (takeFree s).2.lehr = s.lehr := rfl
@[simp] theorem takeFree_host : (takeFree s).2.host = s.host := rfl
@[simp] theorem takeFree_test : (takeFree s).2.test = s.test := rfl
@[simp] theorem takeFree_pending : (takeFree s).2.pending = s.pending := rfl
@[simp] theorem takeFree_freeCtr : (takeFree s).2.freeCtr = s.freeCtr + 1 := rfl
@[simp] theorem takeFree_get_port (k' : Nat) : (takeFree s).2.port k' = s.port k' := rfl
@[simp] theorem takeFree_get_group (g' : Nat) : (takeFree s).2.group g' = s.group g' := rfl
@[simp] theorem takeFree_get_obj (i' : Nat) : (takeFree s).2.obj i' = s.obj i' := rfl
@[simp] theorem takeFree_get_cchan (c' : Nat) : (takeFree s).2.cchan c' = s.cchan c' := rfl
@[simp] theorem takeFree_get_tenant (t' : Nat) : (takeFree s).2.tenant t' = s.tenant t' := rfl
@[simp] theorem takeFree_get_mbox (m' : Nat) : (takeFree s).2.mbox m' = s.mbox m' := rfl
@[simp] theorem takeFree_get_slot (n' : Nat) : (takeFree s).2.slot n' = s.slot n' := rfl
@[simp] theorem takeFree_get_sched (n' : Nat) : (takeFree s).2.sched n' = s.sched n' := rfl
@[simp] theorem takeFree_get_mport (n' : Nat) : (takeFree s).2.mport n' = s.mport n' := rfl
@[simp] theorem takeFree_get_sliceOf (i' : Nat) : (takeFree s).2.sliceOf i' = s.sliceOf i' := rfl
@[simp] theorem takeFree_get_lport (p' : Nat) : (takeFree s).2.lport p' = s.lport p' := rfl
@[simp] theorem takeFree_get_link (d' : LinkDir) : (takeFree s).2.link d' = s.link d' := rfl
@[simp] theorem takeFree_get_node (n' : NodeId) : (takeFree s).2.node n' = s.node n' := rfl
@[simp] theorem takeFree_get_nchan (n' : NodeId) (h' : Nat) (x' : Bool) : (takeFree s).2.nchan n' h' x' = s.nchan n' h' x' := rfl
@[simp] theorem takeFree_get_maskOf (n' : NodeId) (g' : Nat) : (takeFree s).2.maskOf n' g' = s.maskOf n' g' := rfl
@[simp] theorem takeFree_get_rehome (b' : Nat) : (takeFree s).2.rehome b' = s.rehome b' := rfl

end Sys2Proof.Machine
end

