-- ==== Sys2Proof/Laws/Ops.lean ====
section
/-! SUPPORT. What the shared operations can do: events, messages, answers, the queue. -/
namespace Sys2Proof.Machine

/-! ## Commands at the boundary -/

/-- A command that names units of the block is answered with its effect. -/
theorem answer_ok {c : Instr} {t : State} (h : c.ok = true) : answer c t = .next t := by simp [answer, h]

/-- The stop of a command that names none. -/
theorem answer_bad {c : Instr} {t : State} (h : c.ok = false) : answer c t = .fault .noSuchUnit := by simp [answer, h]

theorem answer_next {c : Instr} {t u : State} (h : answer c t = .next u) : c.ok = true ∧ u = t := by
  unfold answer at h
  split at h <;> simp_all

/-! ## Events (R297, R299) -/

variable (s : State) (e : Event)

@[simp] theorem raise_synd : (raise s e).flt.synd = addEvent e s.flt.synd := rfl
@[simp] theorem raise_boot : (raise s e).boot = s.boot := rfl
@[simp] theorem raise_fab : (raise s e).fab = s.fab := rfl
@[simp] theorem raise_sync : (raise s e).sync = s.sync := rfl
@[simp] theorem raise_cane : (raise s e).cane = s.cane := rfl
@[simp] theorem raise_ports : (raise s e).ports = s.ports := rfl
@[simp] theorem raise_grp : (raise s e).grp = s.grp := rfl
@[simp] theorem raise_mrv : (raise s e).mrv = s.mrv := rfl
@[simp] theorem raise_lps : (raise s e).lps = s.lps := rfl
@[simp] theorem raise_gaf : (raise s e).gaf = s.gaf := rfl
@[simp] theorem raise_lehr : (raise s e).lehr = s.lehr := rfl
@[simp] theorem raise_host : (raise s e).host = s.host := rfl
@[simp] theorem raise_test : (raise s e).test = s.test := rfl
@[simp] theorem raise_tb : (raise s e).tb = s.tb := rfl
@[simp] theorem raise_freeCtr : (raise s e).freeCtr = s.freeCtr := rfl
@[simp] theorem raise_pending : (raise s e).pending = s.pending := rfl
@[simp] theorem raise_ring : (raise s e).flt.ring = s.flt.ring := rfl
@[simp] theorem raise_c4 : (raise s e).flt.c4 = s.flt.c4 := rfl
@[simp] theorem raise_bstop : (raise s e).flt.bstop = s.flt.bstop := rfl
@[simp] theorem raise_timers : (raise s e).flt.timers = s.flt.timers := rfl
@[simp] theorem raise_port (k : Nat) : (raise s e).port k = s.port k := rfl
@[simp] theorem raise_group (g : Nat) : (raise s e).group g = s.group g := rfl
@[simp] theorem raise_obj (i : Nat) : (raise s e).obj i = s.obj i := rfl
@[simp] theorem raise_cchan (c : Nat) : (raise s e).cchan c = s.cchan c := rfl
@[simp] theorem raise_link (d : LinkDir) : (raise s e).link d = s.link d := rfl
@[simp] theorem raise_node (n : NodeId) : (raise s e).node n = s.node n := rfl
@[simp] theorem raise_nchan (n : NodeId) (ch : Nat) (x : Bool) : (raise s e).nchan n ch x = s.nchan n ch x := rfl
@[simp] theorem raise_mbox (m : Nat) : (raise s e).mbox m = s.mbox m := rfl
@[simp] theorem raise_slot (n : Nat) : (raise s e).slot n = s.slot n := rfl
@[simp] theorem raise_sched (n : Nat) : (raise s e).sched n = s.sched n := rfl
@[simp] theorem raise_mport (n : Nat) : (raise s e).mport n = s.mport n := rfl
@[simp] theorem raise_sliceOf (i : Nat) : (raise s e).sliceOf i = s.sliceOf i := rfl
@[simp] theorem raise_lport (p : Nat) : (raise s e).lport p = s.lport p := rfl
@[simp] theorem raise_rehome (b : Nat) : (raise s e).rehome b = s.rehome b := rfl

/-- An event is never lost: after it is raised, its source holds one that the collector will report as the same (R299). -/
theorem addEvent_holds (e : Event) (l : List Event) : ∃ x ∈ addEvent e l, sameEvent x e = true ∨ x = e := by
  induction l with
  | nil => exact ⟨e, by simp [addEvent], .inr rfl⟩
  | cons y r ih =>
    simp only [addEvent]
    split
    · next h =>
      refine ⟨{ y with rep := satAdd 255 y.rep 1 }, by simp, .inl ?_⟩
      simpa [sameEvent] using h
    · obtain ⟨x, hx, h⟩ := ih
      exact ⟨x, by simp [hx], h⟩

/-! ## Tree links -/

theorem revDir_key (d : LinkDir) : (revDir d).key ≠ d.key := by
  obtain ⟨l, dn⟩ := d
  cases dn <;> simp [revDir, LinkDir.key]

@[simp] theorem revDir_revDir (d : LinkDir) : revDir (revDir d) = d := by simp [revDir]
@[simp] theorem revDir_link (d : LinkDir) : (revDir d).link = d.link := rfl

@[simp] theorem link_modLink_rev (d : LinkDir) (f : LinkState → LinkState) : (s.modLink (revDir d) f).link d = s.link d :=
  link_modLink_ne s _ f (revDir_key d).symm

@[simp] theorem link_rev_modLink (d : LinkDir) (f : LinkState → LinkState) : (s.modLink d f).link (revDir d) = s.link (revDir d) :=
  link_modLink_ne s _ f (revDir_key d)

/-! ## The queue -/

/-- A step with a command in front runs it with the queue's rest. -/
theorem step_cons (c : Instr) (r : List Instr) : step { s with pending := c :: r } = exec c { s with pending := r } := rfl

theorem step_idle (h : s.pending = []) : step s = .next { s with tb := s.tb + 1 } := by simp [step, h]

end Sys2Proof.Machine
end

