-- ==== Sys2Proof/Tests/Slice0.lean ====
section
/-! SUPPORT. The model's own tests: commands that name no unit, a few values that the manual prints, and for each statement a state and
operands that meet the hypotheses of each of its clauses. -/
namespace Sys2Proof.Tests
open Sys2Proof Sys2Proof.Machine
set_option Elab.async false

/-! ## Commands that name no unit of the block are refused -/

theorem test_links_in_range :
    (Instr.liveTimeout ⟨.cell 1280, false⟩).ok = false ∧ (Instr.liveTimeout ⟨.standby 1280, true⟩).ok = false ∧
    (Instr.liveTimeout ⟨.block 64, false⟩).ok = false ∧ (Instr.liveTimeout ⟨.region 8, false⟩).ok = false ∧
    (Instr.liveTimeout ⟨.half 2, false⟩).ok = false ∧ (Instr.liveTimeout ⟨.half 1, false⟩).ok = true := by decide

theorem test_link_fields_in_range :
    (Instr.treeBeatReceive ⟨.half 2, false⟩ 0 0 0 [] 0).ok = false ∧ (Instr.linkCtlDisagree ⟨.half 1, false⟩ 3 0).ok = false ∧
    (Instr.linkCtlDisagree ⟨.half 1, false⟩ 0 20).ok = false ∧ (Instr.nakReturn ⟨.half 1, false⟩ 16 false).ok = false ∧
    (Instr.rewind ⟨.half 1, false⟩ 16 false).ok = false ∧ (Instr.held ⟨.half 1, false⟩ 16 false).ok = false ∧
    (Instr.release ⟨.half 1, false⟩ 16 false).ok = false ∧ (Instr.beatCredit ⟨.half 1, false⟩ 16 false).ok = false ∧
    (Instr.frameReceive ⟨.half 1, false⟩ 17 false).ok = false ∧ (Instr.prbsRun ⟨.half 2, false⟩ 128 false []).ok = false := by decide

theorem test_link_work_in_range :
    ([Instr.laneCheckTrigger, .linkGrant, .laneCheck, .laneReport, .linkctlRetry, .homeLost, .rehomeGo, (.prbsCountEnd · [])].all fun c =>
      !(c ⟨.region 8, true⟩).ok && (c ⟨.region 7, true⟩).ok) = true := by decide

theorem test_nodes_in_range :
    (Instr.upChunkOpen 1280 0).ok = false ∧ (Instr.upChunkOpen 0 16).ok = false ∧ (Instr.upCombine (.cell 1280) 0 false).ok = false ∧
    (Instr.upCombine .spine 16 false).ok = false ∧ (Instr.downOffer (.block 64) 0 false).ok = false ∧
    (Instr.lockstepMismatch (.node (.region 8)) 0 false false).ok = false ∧ (Instr.knownAnswerDone (.half 2) false false).ok = false ∧
    (Instr.stallTimeout (.child .spine 0 false 20)).ok = false ∧ (Instr.stallTimeout (.port 6 false)).ok = false := by decide

theorem test_cores_in_range :
    ([Instr.waitTimeout 5120, .cpCgAck 5120 true, .cpRegWrite 5120 true 0 0, .cpPush 5120 0, .cpPull 5120 0, .cpScalar 5120 0,
      .scalarResRead 5120, .wresRead 5120, .nopostTimeout 5120 0, .nopostTimeout 0 3, .cpRdData 5120 0 false, .cpWrAck 5120 false,
      .cpSyncArrive 5120 0, .cpSyncSignal 5120 0, .cpSyncReset 5120 0, .cpSyncRead 5120 0, .syncOrdMet 5120, .cpCaneArrive 5120 0,
      .cpCaneArriveWait 5120 0, .cpCaneRead 5120 0, .cpWaitGen 5120 0, .cpWaitCount 5120 0, .cpWaitCane 5120 0, .cpWaitPush 5120 0,
      .cpWaitPull 5120 0, .cpWaitScalar 5120 0, .cpWaitFence 5120 0, .fencePullvis 5120, .fenceSync 5120, .fencePushheld 5120].all
      fun c => !c.ok) = true ∧ (Instr.wresRead 5119).ok = true := by decide

theorem test_cells_objects_channels_in_range :
    ([Instr.soOpApply 32768 1, .soNotice 1280, .caneRelease 64, .caneReleaseArrive 64 0, .caneReleaseArrive 0 1280, .caneVoteDisagree 4 0 0 0 0,
      .caneVoteDisagree 0 0 0 64 0, .caneVoteDisagree 0 0 0 0 3, .postingArrive 1280, .commitNotice 1280].all fun c => !c.ok) = true ∧
    (Instr.caneRelease 63).ok = true := by decide

theorem test_mailboxes_groups_schedules_in_range :
    ([Instr.mbCmdWrite 72 0 0 0, .mbCmdWrite 0 256 0 0, .txPauseHeld 72, .txPauseTimeout 72, .txExpire 72, .maskCompileDone 4096, .drainEnd 4096,
      .drainStuck 4096, .peerWait 4096, .poisonDieQuiesce 4096, .poisonStuck 4096, .abortCleanupEnd 4096, .schedUnloadTimeout 512,
      .stepStart 512 0 0, .stepStart 0 0 128, .passStart 512, .reservationAge 512, .stepComplete 512 0 0, .stepComplete 0 0 128,
      .passEnd 512 0].all fun c => !c.ok) = true ∧ (Instr.passEnd 511 0).ok = true := by decide

theorem test_ports_and_slices_in_range :
    ([Instr.soRemoteOp 6, .soRefuse 6, .caneToken 6, .handshake 6, .linkUp 6, .linkDown 6, .routerCredit 6 0 0, .packetVerdict 6 false 0,
      .ctrlFlitReceive 6 false 0, .ack 6, .nak 6, .credit 6, .resendTimeout 6 false, .done 6, .commit 6, .poison 6, .bumped 6, .go 6, .abort 6,
      .flitLands 6 false true 0, .creditOwedPeriod 6 false, .memRdata 16 0 0 false false, .memRdata 0 256 0 false false, .memWack 16 0 false,
      .memWack 0 256 false, .memFack 16 0, .memFack 0 256, .pieceTake 16, .pieceDone 16 false, .sliceGateTimer 16, .slicePowered 16].all
      fun c => !c.ok) = true ∧ (Instr.linkUp 5).ok = true := by decide

theorem test_units_and_slots_in_range :
    ([Instr.retestDone (.copy (.cell 1280)) true, .retestDone (.blockHub 64) true, .retestDone (.slice 16) true, .retestDone (.cane 64) true,
      .shadowCompare (.slice 16) true true, .lockstepForce (.cane 64) false 0, .collectorMismatch 75 false, .errpairForce 75 0 true true,
      .slotIpClear 4096, .slotArrive 4096 0, .slotSignal 4096 0, .slotReset 4096 0, .slotRead 4096 0, .slotOpDone 4096,
      .eccError (.stage .spine 16 false false) true, .eccError (.pool 512 0 0) true, .eccError (.linkItem 6 false false) true,
      .eccError (.group 4096) true, .eccError (.object 32768) true, .eccError (.channel 64) true, .eccError (.sched 512) true,
      .eccError (.slot 4096) true].all fun c => !c.ok) = true ∧ (Instr.slotRead 4095 0).ok = true := by decide

theorem test_unnamed_unit_stops : exec (.linkUp 6) {} = .fault .noSuchUnit := rfl

theorem test_no_word_spells_a_command : decodeTableWord 32 0x10 = none := rfl

/-! ## Values that the manual prints -/

/-- R33: the CRC-16 of "123456789". -/
theorem test_crc16 : crc16 [0x31, 0x32, 0x33, 0x34, 0x35, 0x36, 0x37, 0x38, 0x39] = 0x29B1 := by decide +kernel

/-- R226: the CRC-32C of "123456789". -/
theorem test_crc32c : crc32c [0x31, 0x32, 0x33, 0x34, 0x35, 0x36, 0x37, 0x38, 0x39] = 0xE3069283 := by decide +kernel

/-- Example of 01: core 3,141. -/
theorem test_locate_core :
    cellOf 3141 = 785 ∧ blockOfCell 785 = 39 ∧ regionOfBlock 39 = 4 ∧ halfOfRegion 4 = 1 ∧ buddy 39 = 38 := by decide

/-- Table 3-8: a block of E4M3 whose scale is bumped. -/
theorem test_e4m3_block :
    (fun r => (r.1, r.2.1.take 6, r.2.2)) (encodeMx 3 ([0x476A6000, 0xBC000000, 0x3FC00000, 0x80000000, 0x3DCCCCCD].map (decodeFp fp32)
      ++ List.replicate 27 (.zero false)) one32) = (0x87, [0x77, 0, 3, 0, 0, 0], 0x43, 2) := by decide +kernel

/-- Table 3-9: FP32 into I80 under S = -30. -/
theorem test_fp32_to_i80 :
    [0x3F800001, 0xB0400000, 0x30000000, 0x80000000, 0x48000000, 0x7FC00000].map (fun w => encodeI80 (decodeFp fp32 w) (-30)) =
      [(0x40000080, 0), (-1, fINX), (0, fINX), (0, 0), (0x7FFFFFFFFFFF, fSAT ||| fINX), (0, fNAN ||| fNFL)] := by decide +kernel

/-- The pull after Table 3-9. -/
theorem test_i80_to_fp32 : encodeFp fp32 (decodeI80 0x4000007F (-30)) = (0x3F800001, fINX) := by decide +kernel

/-- Table 3-10: decoding at the edges of range. -/
theorem test_packed_edges :
    encodeFp fp32 (decodePacked 7 (padTo [0xFE, 0, 0, 0, 7] 20) 1 0 0x44800000) = (0x7F800000, fOVF ||| fINX) ∧
    encodeFp fp16 (decodePacked fmtINT4 (padTo [0x66, 0x2E, 3, 0, 8] 20) 1 0 one32) = (0xBC66, fINX) := by decide +kernel

/-- Table 4-6: SUM of the cores at positions 0, 4, 20 and 76. -/
theorem test_sum_by_position :
    onDie .fp32 opSUM (((List.range 77).map fun i =>
      match [(0, 0x3F800000), (4, 0x33800000), (20, 0x33800000), (76, 0xBF800000)].find? (·.1 == i) with
      | some e => Operand.part (decodeFp fp32 e.2)
      | none => .empty)) = (.part (.zero false), aINX) := by decide +kernel

/-- Example of R115: one rounding for product and sum. -/
theorem test_wsum_rounds_once :
    let t := fun w x => Operand.term (mulTerm (decodeFp fp32 w) (decodeFp fp32 x)).1
    (match comb .fp32 opWSUM (t 0x40400000 0x3F800001) (t 0xC0400000 0x3F800000) with
      | (.part x, f) => (encodeFp fp32 x, f) | _ => ((0, 0), 0)) = ((0x34C00000, 0), 0) := by decide +kernel

/-- Table 4-9: wrapping additions. -/
theorem test_wrap :
    comb .i80 opISUM (.int (2 ^ 79 - 1)) (.int 1) = (.int (-(2 ^ 79)), aIOVF) ∧
    comb .i80 opISUM (.int (-(2 ^ 79))) (.int (-1)) = (.int (2 ^ 79 - 1), aIOVF) := by decide +kernel

/-! ## Small states -/

/-- A block with power, out of reset, at the level FULL. -/
def up : State := { boot := { rst := none, level := .full, stage := 6, placed := true, nx := 2 } }

/-- A direction of the link of cell 5. -/
def d5 : LinkDir := ⟨.cell 5, false⟩

/-- One beat. -/
def bt : Beat := { sof := true, eof := true, data := [1, 2], gid := 3 }

/-- A LINKCTL frame with the first bytes of its payload given. -/
def lc (l : List Byte) : LinkCtl := { slvl := 1, sidx := 5, payload := padTo l 16 }

/-- A posting on group 3, of an ALLREDUCE of one FP32 element. -/
def post : Coll :=
  { cid := 7, desc := pack 1024 [(0, 4, cALLREDUCE), (4, 4, opSUM), (8, 12, 3), (40, 32, 7), (104, 4, fmtFP32), (144, 32, 1)], order := 0,
    s := none, ch := 1, epoch := 5, early := false, cellsAt := [5], posted := true }

/-- Group 3 of tenant 2: the four cores of cell 5. -/
def grp3 : Group :=
  { st := .enabled, tid := 2, epoch := 5, gtag := 0xAB, cores := 0xF00000, chips := [0], chn := some 1, chw := some 12, compiled := true,
    apex := 1, norder := 1 }

/-- The block with group 3 and a core of it. -/
def upG : State := (up.modGroup 3 fun _ => grp3).modPort 21 fun p => { p with tv := true, tid := 2 }

/-- The same with the posting in progress. -/
def upC : State := upG.modGroup 3 fun g => { g with colls := [post] }

/-- A CTRL flit of a kind on group 3's tag, from chip `src` to chip `dst`. -/
def flit (kind src dst : Nat) (more : List (Nat × Nat × Nat)) : BitVec 512 :=
  pack 512 ([(0, 8, kind), (8, 32, 0xAB), (40, 12, src), (52, 12, dst)] ++ more)

/-- Port 1 up, with flits accepted. -/
def inbox (s : State) (fs : List (BitVec 512)) : State := s.modLport 1 fun l => { l with up := true, rst := false, inbox := fs }

/-- Mailbox `mb` served, with an opcode and a payload of 240 bytes in which fields are set. -/
def mail (s : State) (mb op : Nat) (txid : Nat) (pay : List (Nat × Nat × Nat)) : State :=
  let c : BitVec 2048 := pack 2048 ([(0, 16, op), (16, 16, 1), (32, 32, txid), (96, 8, 240), (104, 4, 3)] ++ pay.map fun x => (x.1 + 128, x.2))
  let t := s.modMbox mb fun m => { m with full := true, cmd := c }
  { t with gaf := { t.gaf with serving := some mb, fwRun := true, vmaj := 3 } }

/-- An up frame of that posting from cell 5. -/
def fr1 : Frame := { ch := 1, kind := 1, gid := 3, epoch := 5, cid := 7, fmt := fmtFP32, op := opSUM, slvl := 1, sidx := 5,
                     payload := [0, 0, 0x80, 0x3F], nslot := 1 }

/-- The beats it takes. -/
def nb1 : Nat := ceilDiv 68 (linkW (.cell 5))

/-- Object 9 of tenant 2, task tag 4. -/
def upO : State := upG.modObj 9 fun o => { o with al := true, tid := 2, tag := 4, thresh := 2 }

/-- An operation of core 21 on it. -/
def op9 (kind : SoOpKind) (n : Nat) : SoOp := { soid := 9, kind := kind, opnd := n, tid := 2, tag := some 4, caller := .core 21 }

/-- A wait of a core. -/
def wt (m : WaitMode) (i n : Nat) : Wait := { mode := m, id := i, target := n, deadline := 100, gate := true }

/-- Cane channel 3, bound to group 3. -/
def upN : State :=
  let s := upG.modCchan 3 fun c => { c with bound := some 3, members := [20, 21, 22, 23], apex := 1 }
  { s with grp := { s.grp with caneGrant := [(3, some 2)] } }

/-- A packet on group 3's tag. -/
def pk : Packet := { head := pack 512 [(0, 32, 0xAB), (32, 16, 5), (48, 32, 7), (112, 12, 1)], data := [], tail := 0 }

/-- A push of core 21 under the posting, whose element the cell has not asked for. -/
def push1 : Xfer := { gid := 3, cid := 7, laddr := 0x100, nelem := 1, ctx := 0x000000003F8000003F80000000000000, nchunk := 1 }

/-- Core 21 pushes; the other cores of cell 5 are absent. -/
def upX : State :=
  let s := (upC.setMask (.cell 5) 3 (some { mask := 2, epoch := 5 })).modPort 21 fun p => { p with push := { p.push with run := some push1 } }
  { s with boot := { s.boot with absent := 0xD00000 } }

/-- A posting of 1024 elements, and a push under it that has beats to read. -/
def post2 : Coll :=
  { post with desc := pack 1024 [(0, 4, cALLREDUCE), (4, 4, opSUM), (8, 12, 3), (40, 32, 7), (104, 4, fmtFP32), (144, 32, 1024)] }
def push2 : Xfer := { push1 with nelem := 1024 }

/-- A scalar that waits for its posting. -/
def scal1 : Scal :=
  { value := 0x3F800000, gid := 3, cid := 7, ctxPush := 0x000000003F8000003F80000000000000, ctxPull := 0x000000003F8000003F80000000000000,
    weight := 0x3F800000, waiting := true, since := 0 }

/-- An ARRIVE that waits for the core's pushes. -/
def hold9 : SyncHold := { kind := .arrive, soid := 9, rmt := false, ord := 1, gid := 0, chip := 0, opnd := 2, before := 0 }

/-- A member list of one chip and the cores of cell 5. -/
def lst : List Byte := padTo ([1, 0] ++ List.replicate 32 0 ++ [0xF0]) 674

/-- Tenant 2 enabled, with cell 5. -/
def upT : State := up.modTenant 2 fun t => { t with en := true, expert := true, cells := 32, qgrp := 4 }

/-- Group 3 DISABLED. -/
def upD : State := upT.modGroup 3 fun _ => { grp3 with st := .disabled }

/-- An open transaction of mailbox 4. -/
def tx1 : Tx := { txid := 9, deadline := 50 }
def withTx (s : State) (x : Tx) : State := { s with gaf := { s.gaf with txs := [(4, some x)] } }

/-- A posting with STAND. -/
def dStand3 : Desc := pack 1024 [(0, 4, cALLREDUCE), (4, 4, opSUM), (8, 12, 3), (23, 1, 1), (40, 32, 8), (104, 4, fmtFP32), (144, 32, 1)]

/-- A schedule of one COPY step of group 3, as memory holds it: one chunk from unit 0 to unit 128. -/
def schedMem : List Byte :=
  padTo (leBytes 256 (3 + 256 * 2 ^ 20)) 256 ++ leBytes 32 (kCOPY + 2 ^ 112 + 2 ^ 163)

/-- A resident schedule without passes. -/
def sched0 : Sched := { hdr := { gid := 3 }, steps := [{ kind := kNOTE }], tid := 2, pend := [0] }

/-- Task 4 of tenant 2, on core 21. -/
def task4 : Task := { tid := 2, tag := 4, cores := 0x200000 }
def upK : State := { upO with grp := { upO.grp with tasks := [task4] } }

/-- A resident schedule of group 3 with one pass of the given steps. -/
def sched1 (ts : List Step) (rs : List StepRun) : Sched :=
  { hdr := { gid := 3 }, steps := ts, tid := 2, pend := ts.map fun _ => 0, nextPass := 1,
    passes := [{ p := 0, cid := 7, epoch := 5, reserved := true, desc := ts, steps := rs }] }
def upS (ts : List Step) (rs : List StepRun) : State := upC.setSched 0 (some (sched1 ts rs))
def pass1 (ts : List Step) (rs : List StepRun) : Pass :=
  { p := 0, cid := 7, epoch := 5, reserved := true, desc := ts, steps := rs }

/-- A request of its step 0 in use on port 15, tag 255. -/
def withReq (s : State) (r : MemReq) : State := s.modMport 15 fun m => { m with tags := [(255, some r)] }
def stStore : Step := { kind := kSTORE, fmt := fmtFP32, nchk := 1 }
def stNote : Step := { kind := kNOTE, nchk := 1 }
def runNote : StepRun := { started := true, waits := 1 }
def runStore : StepRun := { started := true, issued := [0], need := [(0, 1)] }

/-- A combine of the chunks of units 0 and 1 into unit 2, both written. -/
def stComb : Step := { kind := kCOMB, op := opSUM, fmt := fmtFP32, nchk := 1, ua := 0, ub := 1, uc := 2, nel := 1 }
def chunk1 : PChunk := { fmt := fmtFP32, n := 1, data := [0, 0, 0x80, 0x3F] }
def upP : State :=
  upC.setSched 0 (some { sched1 [stComb] [{ started := true }] with
    passes := [{ pass1 [stComb] [{ started := true }] with units := [(0, some chunk1), (1, some chunk1)] }] })
def piece1 : Piece := { sched := 0, pass := 0, step := 0, chunk := 0, pos := 0, len := 1 }

/-- Group 3 of chips 0 and 1. -/
def upY : State := upG.modGroup 3 fun g => { g with chips := [0, 1], listCrc := 0x77, peers := true }

/-- A CTRL flit with its CRC. -/
def crcd (f : BitVec 512) : BitVec 512 := f ||| pack 512 [(480, 32, (ctrlCrc f).toNat)]

/-- A packet's HEAD and TAIL with their CRCs, for four bytes of data. -/
def hd1 : BitVec 512 := pack 512 [(0, 32, 0xAB), (32, 16, 5), (48, 32, 7), (112, 12, 1), (124, 12, 0), (136, 4, fmtFP32)]
def data1 : List Byte := padTo [0, 0, 0x80, 0x3F] 64
def tl1 : BitVec 512 := 0x5477ec5bdd54c4ab000000000000000000000000
def landed (s : State) : State := s.modLport 1 fun l => { l with up := true, rst := false, vcu := { l.vcu with hd := some hd1, buf := data1, rxUsed := 1 } }

/-- A delivery control packet of group 3. -/
def dpk (kind : Nat) (more : List Byte) : Packet :=
  { head := pack 512 [(0, 32, 0xAB), (32, 16, 5), (48, 32, 7), (80, 32, 0xFFFFFFFE), (112, 12, 1)], data := padTo (leBytes 1 kind ++ more) 64, tail := 0 }
def ctl (s : State) (ks : List Packet) : State := s.modLport 1 fun l => { l with up := true, rst := false, ctlPkts := ks }

/-- Group 3 EARLY, handling a POISON. -/
def upW (w : PoisonWork) (me : Nat) : State := upG.modGroup 3 fun g => { g with chips := if me = 0 then [0, 1] else [1, 0], dmode := true, pwork := some w }
def work1 : PoisonWork := { since := 0, epoch := 6 }
/-- An EARLY pass whose DONE has been sent. -/
def upE : State :=
  (upY.modGroup 3 fun g => { g with dmode := true, chips := [1, 0], colls := [{ post with sched := some 0, carried := true, early := true }] }).setSched 0
    (some { sched1 [stNote] [{ started := true }] with passes := [{ pass1 [stNote] [{ started := true }] with doneSent := true }] })

/-- A return of slice 15 in progress. -/
def ret1 (shadow : Bool) (n : Nat) : UnitRet := { u := .slice 15, copyB := false, shadow := shadow, agree := n, notify := none }
def withRet (shadow : Bool) (n : Nat) : State :=
  let s := up.modSlice 15 fun x => { x with retired := true }
  { s with flt := { s.flt with returns := [ret1 shadow n] } }

/-- A firmware update whose verdict is awaited. -/
def upd1 : FwUpd := { image := [1], slotB := true, asked := some 0 }

/-- Group 3 with the masks of cell 5 and its block. -/
def upF : State := (upC.setMask (.block 0) 3 (some { mask := 32, epoch := 5 })).setMask (.cell 5) 3 (some { mask := 15, epoch := 5 })

/-- A down frame of the posting. -/
def fr3 : Frame := { fr1 with kind := 3, op := 0 }

/-- A chunk of the posting that cell 5 forms. -/
def out1 : OutChunk := { hdr := { fr1 with payload := [], nslot := 0 }, nel := 1 }

/-- Operations that wait at the objects. -/
def withOps (l : List SoOp) : State := { upO with sync := { upO.sync with ops := l } }

/-- A notice of object 9's release, for core 21. -/
def nt1 : Notice := { cell := 5, soid := 9, count := 0, gen := 1, st := .idle, psn := false, cores := [21] }

/-- Core 21 sleeps until object 9's generation reaches 1. -/
def waits9 : State := upO.modPort 21 fun p => { p with wait := some (wt .gen 9 1) }

/-- A SIGNAL of 2 for object 9, and a Cane token. -/
def sof : BitVec 512 := flit ckSoOp 1 0 [(128, 15, 9), (143, 2, 0), (145, 16, 2)]
def tk1 : BitVec 512 := flit ckToken 1 0 [(64, 6, 1), (128, 1, 0), (129, 2, 1), (131, 12, 1)]

/-- Cane channel 3, with every member there. -/
def allN : State := upN.modCchan 3 fun c => { c with legs := [(20, true), (21, true), (22, true), (23, true)] }

/-- A read of core 21 in order, and contexts that convert nothing. -/
def rq1 : RdReq := { seq := 0, addr := 0x100, gid := 3, cid := 7, chunk := 0 }
def ctx1 : BitVec 128 := 0x000000003F8000003F80000000000000

/-- An open transaction of mailbox 0. -/
def withTx0 (s : State) (x : Tx) : State := { s with gaf := { s.gaf with txs := [(0, some x)] } }

/-- A resident schedule of group 3 whose copy writes the unit that its load writes. -/
def twice : Sched := { sched0 with steps := [{ kind := kLOAD, fmt := fmtFP32, nchk := 1 }, { kind := kCOPY, fmt := fmtFP32, nchk := 1 }] }

/-- A handshake of chip 1 that matches group 3 of chips 0 and 1. -/
def hsf : BitVec 512 := flit ckHandshake 1 0 [(128, 16, 5), (144, 32, 0x77), (176, 4, 4)]
def gx : State := upG.modGroup 3 fun g => { g with chips := [0, 1], listCrc := 0x77 }

/-- What a command takes, where its witness names it. -/
def at0 (s : State) : Sched × Pass × Step × StepRun := (stepAt s 0 0 0).getD (sched0, pass1 [] [], stNote, {})
def tk (s : State) (k : Nat) : BitVec 512 × State := (takeCtrl s 1 k).getD (0, {})

/-- A slot mapped to object 9. -/
def slotS : State := upO.modSlot 4095 fun x => { x with soid := some 9, tid := 2 }

/-- A request of step 0. -/
def rqm (n : Nat) : MemReq := { op := n, nb := 2, gid := 3, len := 256 }
def runLoad : StepRun := { started := true, issued := [0], need := [(0, 1)] }
def stLoad : Step := { kind := kLOAD, nchk := 1 }
def trigS : State :=
  let s := upS [{ stNote with tv := true, trig := 9 }] [{}]
  { s with sync := { s.sync with trig := [(9, 1, false)] } }

/-- A store whose chunk is written, and one that has completed. -/
def wrote : StepRun := { started := true, issued := [0], written := [0] }
def over1 : StepRun := { started := true, completed := true }
/-- A pass that names SCALEPASS 5. -/
def upV : State := upC.setSched 0 (some { sched1 [stNote] [{}] with hdr := { gid := 3, spp := true, spcid0 := 5 } })

/-- The same HEAD for chip 3, with hops left. -/
def hd3 (hops : Nat) : BitVec 512 := hd1 ||| pack 512 [(124, 12, 3), (187, 6, hops)]

/-- An item that port 5 retains. -/
def kept : TxItem := { item := .ctrl 0, tid := 2, lpsn := some 0 }
/-- Group 3 of chips 0 and 1, with four chips on the X axis. -/
def upZ : State := { upY with boot := { upY.boot with nx := 4 } }
/-- The SCALEPASS that it names has completed. -/
def upV1 : State := upV.modGroup 3 fun g => { g with scales := [(5, 0, 9)] }

def td (s : State) (k : Nat) : Packet × State := (takeDelivery s 1 k).getD (dpk 0 [], {})
/-- Events, and a block whose syndrome registers hold one. -/
def ev1 : Event := { code := .hopCrc, cls := 1, skind := 1, sidx := 5 }
def ev3 : Event := { code := .lockstep, cls := 3, skind := 1, sidx := 5 }
def synd (e : Event) : State := { up with flt := { up.flt with synd := [e] } }
def tm2 : C2Timer := { code := .stall, gid := some 3, tid := none, start := 0, tesc := 2000 }
/-- Slice 15 is out of service. -/
def gone15 : State := up.modSlice 15 fun x => { x with retired := true }

/-- The record that grants slot 4095 to tenant 2, one that disables tenant 2, and their digests. -/
def rec7 : List Byte := leBytes 4 1 ++ leBytes 4 1 ++ leBytes 8 0 ++ [7, 0] ++ leBytes 2 4095 ++ leBytes 28 0x201
def rec1 : List Byte := leBytes 4 1 ++ leBytes 4 1 ++ leBytes 8 0 ++ [1, 2] ++ leBytes 2 0 ++ leBytes 28 (2 ^ 82)
def dig7 : Nat := 0x9e0f2623864a6db714b88889133bf2f78c2fa35fe2534bf46d0d1ed24c6338bb
def dig1 : Nat := 0x33bcb9fa23f7eaaa64784aa96e1a2c6bd2a58a3c128105714f21f183b0e3e65f
def prop7 : Proposal := { record := rec7, pseq := 1, digest := leBytes 32 dig7, expiry := 10 }
def prop1 : Proposal := { record := rec1, pseq := 1, digest := leBytes 32 dig1, expiry := 10 }
def offers (s : State) (q : Proposal) : State := { s with grp := { s.grp with prop := some q } }

/-- The smallest firmware image: a header, no body, and a signature of four bytes. -/
def img : List Byte := padTo ([1, 0, 3] ++ List.replicate 9 0 ++ [4, 0, 0, 0] ++ leBytes 32 0x55b852781b9995a44c939b64e441ae2724b96f99c8f4fb9a141cfc9842c4b0e3) 68

/-- Records of the log, and a block whose log holds one. -/
def rc : Record := { kind := 5, rsn := 1, payload := [1, 2] }
def rc8 : Record := { kind := 8, rsn := 0, payload := [1, 2] }
def lehr (f : Lehr → Lehr) (s : State) : State := { s with lehr := f s.lehr }
def logged (r : Record) : State :=
  lehr (fun l => { l with sectors := [(3, { erased := false, opened := true, recs := [r] })], head := some 3 }) up
def job (op : FlashOp) (n : Nat) (s : State) : State := lehr (fun l => { l with cur := some op, left := n }) s
def anc (a : Anchor) (s : State) : State := lehr (fun l => { l with anchors := [(0, some a)] }) s

/-- A block in stage n of its boot, and one on the ROM defaults. -/
def stage (n : Nat) : State := { up with boot := { up.boot with stage := n, level := .dark } }
def limp : State := { up with boot := { up.boot with lehrLimp := true, level := .limp } }

/-- The CRC of that HEAD, before a TAIL that begins with zeros. -/
theorem headCrc_hd1 (t : BitVec 512) (h : (flitBytes t).take 12 = List.replicate 12 0) : headCrc hd1 t = 0x5477ec5b := by
  have h1 : (flitBytes hd1).foldl crc32Byte 0xFFFFFFFF = 0xff0dfb79 := by decide +kernel
  unfold headCrc crc32c
  rw [h, List.foldl_append, h1]
  decide +kernel

/-! ## Each statement's hypotheses are met together -/

theorem test_w_BeatsAreVotedAndChecked :
  (∃ (d : LinkDir) (v _x : BitVec 20) (_data : List Byte) (_crc : BitVec 16) (s : State),
    d.link.ok = true ∧ s.boot.rst = none ∧ bit v 0 = false ∧ bit v 9 = false) ∧
  (∃ (d : LinkDir) (v : BitVec 20) (k : RetKind) (_data : List Byte) (_crc : BitVec 16) (s : State),
    d.link.ok = true ∧ s.boot.rst = none ∧ bit v 0 = false ∧ bit v 9 = true ∧ retKindOf (fld v 10 3) = some k) ∧
  (∃ (d : LinkDir) (v : BitVec 20) (data : List Byte) (s : State),
    d.link.ok = true ∧ s.boot.rst = none ∧ bit v 0 = true ∧ bit v 9 = false ∧ (s.link d).lost = false ∧
    (tabGet {} (s.link d).rx (beatKey (s.link d) v data)).dup = 0 ∧
    ((tabGet {} (s.link d).rx (beatKey (s.link d) v data)).discard = false ∨ bit v 3 = true)) ∧
  (∃ (d : LinkDir) (v : BitVec 20) (data : List Byte) (crc : BitVec 16) (s : State),
    d.link.ok = true ∧ s.boot.rst = none ∧ bit v 0 = true ∧ bit v 9 = false ∧ (s.link d).lost = false ∧ crc16 data ≠ crc ∧
    ((tabGet {} (s.link d).rx (failedKey (s.link d) v)).discard = false ∨ bit v 3 = true)) ∧
  (∃ (d : LinkDir) (v : BitVec 20) (data : List Byte) (s : State),
    d.link.ok = true ∧ s.boot.rst = none ∧ bit v 0 = true ∧ bit v 3 = false ∧ bit v 9 = false ∧ (s.link d).lost = false ∧
    (tabGet {} (s.link d).rx (beatKey (s.link d) v data)).discard = true) :=
    ⟨⟨d5, 0x40000, 0, [], 0, up,
      by decide +kernel⟩,
    ⟨d5, 0x202, .beat, [], 0, up,
      by decide +kernel⟩,
    ⟨d5, 1, [1], up,
      by decide +kernel⟩,
    ⟨d5, 1, [1], 0, up,
      by decide +kernel⟩,
    ⟨d5, 1, [1], up.modLink d5 fun l => { l with rx := [(0, { discard := true })] },
      by decide +kernel⟩⟩

theorem test_w_ReturnsOfATreeLink :
  (∃ (d : LinkDir) (ch : Nat) (ctx : Bool) (s : State),
    d.link.ok = true ∧ ch < 16 ∧ (RetKind.beat, chCtx ch ctx) ∈ (s.link d).retIn) ∧
  (∃ (d : LinkDir) (ch : Nat) (ctx : Bool) (s : State),
    d.link.ok = true ∧ ch < 16 ∧ (RetKind.nak, chCtx ch ctx) ∈ (s.link d).retIn ∧ (tabGet {} (s.link d).rx (chCtx ch ctx)).discard = true) ∧
  (∃ (d : LinkDir) (s : State),
    d.link.ok = true ∧ (RetKind.nak, 0) ∈ (s.link d).retIn ∧ (tabGet {} (s.link d).rx ctlKey).discard = true) ∧
  (∃ (l : LinkId) (ch : Nat) (ctx : Bool) (s : State),
    l.ok = true ∧ ch < 16 ∧ (RetKind.rewind, chCtx ch ctx) ∈ (s.link ⟨l, false⟩).retIn) ∧
  (∃ (l : LinkId) (ch : Nat) (ctx : Bool) (s : State),
    l.ok = true ∧ ch < 16 ∧ (RetKind.rewind, chCtx ch ctx) ∈ (s.link ⟨l, true⟩).retIn ∧
    childLink s (upTarget l ctx).1 (upTarget l ctx).2.1 (upTarget l ctx).2.2 = some (l, ctx)) ∧
  (∃ (l : LinkId) (ch : Nat) (ctx : Bool) (s : State),
    l.ok = true ∧ ch < 16 ∧ (RetKind.release, chCtx ch ctx) ∈ (s.link ⟨l, false⟩).retIn) ∧
  (∃ (l : LinkId) (ch : Nat) (ctx : Bool) (s : State),
    l.ok = true ∧ ch < 16 ∧ (RetKind.release, chCtx ch ctx) ∈ (s.link ⟨l, true⟩).retIn) ∧
  (∃ (d : LinkDir) (ch : Nat) (ctx : Bool) (y : UpChunk × List UpChunk) (s : State),
    d.link.ok = true ∧ ch < 16 ∧ (RetKind.held, chCtx ch ctx) ∈ (s.link d).retIn ∧
    markHeld (s.nchan (upSender d.link ctx).1 ch (upSender d.link ctx).2).up = some y ∧ y.1.gone = false) ∧
  (∃ (u : UpChunk) (_us : List UpChunk),
    u.heldUp = false) ∧
  (∃ (u : UpChunk) (_us : List UpChunk),
    u.heldUp = true) :=
    ⟨⟨d5, 1, false, up.modLink d5 fun l => { l with retIn := [(.beat, 2)], tx := [(2, { sent := List.replicate 9 bt })] },
      by decide +kernel⟩,
    ⟨d5, 1, false, up.modLink d5 fun l => { l with retIn := [(.nak, 2)], rx := [(2, { discard := true })], tx := [(2, { sent := [bt] })] },
      by decide +kernel⟩,
    ⟨d5, up.modLink d5 fun l => { l with retIn := [(.nak, 0)], rx := [(ctlKey, { discard := true })], tx := [(ctlKey, { sent := [bt] })] },
      by decide +kernel⟩,
    ⟨.cell 5, 15, false,
      (up.modLink d5 fun l => { l with retIn := [(.rewind, 30)] }).modNchan (.cell 5) 15 false fun c => { c with up := [{ frame := {} }] },
      by decide +kernel⟩,
    ⟨.cell 5, 15, false, up.modLink ⟨.cell 5, true⟩ fun l => { l with retIn := [(.rewind, 30)] },
      by decide +kernel⟩,
    ⟨.cell 5, 1, false,
      (up.modLink d5 fun l => { l with retIn := [(.release, 2)] }).modNchan (.cell 5) 1 false fun c => { c with up := [{ frame := {} }] },
      by decide +kernel⟩,
    ⟨.cell 5, 1, false, up.modLink ⟨.cell 5, true⟩ fun l => { l with retIn := [(.release, 2)] },
      by decide +kernel⟩,
    ⟨d5, 1, false, ({ frame := {} }, [{ frame := {}, heldUp := true }]),
      (up.modLink d5 fun l => { l with retIn := [(.held, 2)] }).modNchan (.cell 5) 1 false fun c => { c with up := [{ frame := {} }] },
      by decide +kernel⟩,
    ⟨{ frame := {} }, [],
      by decide +kernel⟩,
    ⟨{ frame := {}, heldUp := true }, [{ frame := {} }],
      by decide +kernel⟩⟩

theorem test_w_LinkFailuresAndRehoming :
  (∃ (d : LinkDir) (copy i : Nat) (s : State),
    d.link.ok = true ∧ copy < 3 ∧ i < 20 ∧ 4 ≤ tabGet 0 (s.link d).dis (copy * 20 + i)) ∧
  (∃ (d : LinkDir) (s : State),
    d.link.ok = true ∧ 64 ≤ (s.link d).liveAge ∧ (s.link d).lost = false ∧ ((∃ r, d.link = .region r) ∨ ∃ h, d.link = .half h)) ∧
  (∃ (c : Nat) (dn : Bool) (s : State),
    c < 1280 ∧ 64 ≤ (s.link ⟨.standby c, dn⟩).liveAge ∧ (s.link ⟨.standby c, dn⟩).lost = false ∧ switched s c = false) ∧
  (∃ (c : Nat) (s : State),
    c < 1280 ∧ 64 ≤ (s.link ⟨.cell c, true⟩).liveAge ∧ (s.link ⟨.cell c, true⟩).lost = false ∧ (s.rehome (blockOfCell c)).step < 2 ∧
    (s.link ⟨.standby c, false⟩).unusable = false ∧ (s.link ⟨.standby c, true⟩).homeAsk = none) ∧
  (∃ (b : Nat) (dn : Bool) (s : State),
    b < 64 ∧ 64 ≤ (s.link ⟨.block b, dn⟩).liveAge ∧ (s.link ⟨.block b, dn⟩).lost = false) ∧
  (∃ (c : Nat) (s : State),
    c < 1280 ∧ 64 ≤ (s.link ⟨.cell c, false⟩).liveAge ∧ (s.link ⟨.cell c, false⟩).lost = false) ∧
  (∃ (c : Nat) (dn : Bool) (f : LinkCtl) (r : List LinkCtl) (s : State),
    c < 1280 ∧ takeFirst (fun f => fld (ctlBlock f) 0 8 == 3) (s.link ⟨.standby c, dn⟩).ctlIn = some (f, r)) ∧
  (∃ (h : Nat) (dn : Bool) (f : LinkCtl) (r : List LinkCtl) (s : State),
    h < 64 ∧ takeFirst (fun f => fld (ctlBlock f) 0 8 == 3) (s.link ⟨.block h, dn⟩).ctlIn = some (f, r)) ∧
  (∃ (b : Nat) (s : State),
    b < 64 ∧ (s.rehome b).step < 2 ∧ (s.rehome (buddy b)).step < 2 ∧ canRehome s b = true) ∧
  (∃ (b : Nat) (s : State),
    (s.rehome b).step < 2 ∧ (s.rehome (buddy b)).step < 2 ∧ canRehome s b = false) ∧
  (∃ (h : Nat) (dn : Bool) (f : LinkCtl) (r : List LinkCtl) (s : State),
    h < 64 ∧ takeFirst (fun f => fld (ctlBlock f) 0 8 == 4) (s.link ⟨.block h, dn⟩).ctlIn = some (f, r)) ∧
  (∃ (c : Nat) (dn : Bool) (f : LinkCtl) (r : List LinkCtl) (s : State),
    c < 1280 ∧ takeFirst (fun f => fld (ctlBlock f) 0 8 == 4) (s.link ⟨.standby c, dn⟩).ctlIn = some (f, r) ∧ switched s c = false) :=
    ⟨⟨d5, 2, 19, up.modLink d5 fun l => { l with dis := [(59, 4)] },
      by decide +kernel⟩,
    ⟨⟨.region 7, false⟩, up.modLink ⟨.region 7, false⟩ fun l => { l with liveAge := 64 },
      (by decide +kernel), (by decide +kernel), (by decide +kernel), .inl ⟨7, rfl⟩⟩,
    ⟨1279, true, up.modLink ⟨.standby 1279, true⟩ fun l => { l with liveAge := 64 },
      by decide +kernel⟩,
    ⟨1279, up.modLink ⟨.cell 1279, true⟩ fun l => { l with liveAge := 64 },
      by decide +kernel⟩,
    ⟨63, true, up.modLink ⟨.block 63, true⟩ fun l => { l with liveAge := 64 },
      by decide +kernel⟩,
    ⟨1279, up.modLink ⟨.cell 1279, false⟩ fun l => { l with liveAge := 64 },
      by decide +kernel⟩,
    ⟨5, true, lc [3], [], up.modLink ⟨.standby 5, true⟩ fun l => { l with ctlIn := [lc [3]] },
      by decide +kernel⟩,
    ⟨63, true, lc [3], [], up.modLink ⟨.block 63, true⟩ fun l => { l with ctlIn := [lc [3]] },
      by decide +kernel⟩,
    ⟨63, up,
      by decide +kernel⟩,
    ⟨63, up.modLink ⟨.standby 1279, true⟩ fun l => { l with unusable := true },
      by decide +kernel⟩,
    ⟨62, true, lc [4], [], up.modLink ⟨.block 62, true⟩ fun l => { l with ctlIn := [lc [4]] },
      by decide +kernel⟩,
    ⟨5, true, lc [4], [], up.modLink ⟨.standby 5, true⟩ fun l => { l with ctlIn := [lc [4]] },
      by decide +kernel⟩⟩

theorem test_w_LaneChecksAndReports :
  (∃ (d : LinkDir) (s : State),
    d.link.ok = true ∧ (s.link d).chk = .idle ∧
    ((∃ k, 3 ≤ (tabGet {} (s.link d).rx k).naks) ∨ 8 ≤ ((s.link d).nakTimes.filter fun x => (s.link d).cyc < x + 1024).length)) ∧
  (∃ (d : LinkDir) (f : LinkCtl) (r : List LinkCtl) (k c : Nat) (s : State),
    d.link.ok = true ∧ takeFirst (fun f => fld (ctlBlock f) 0 8 == 1) (s.link d).ctlIn = some (f, r) ∧ bit (ctlBlock f) 8 = true ∧
    (s.link d).chk = .asked k c) ∧
  (∃ (d : LinkDir) (f : LinkCtl) (r : List LinkCtl) (s : State),
    d.link.ok = true ∧ takeFirst (fun f => fld (ctlBlock f) 0 8 == 1) (s.link d).ctlIn = some (f, r) ∧ bit (ctlBlock f) 8 = false) ∧
  (∃ (d : LinkDir) (k c : Nat) (s : State),
    d.link.ok = true ∧ (s.link d).chk = .asked k c ∧ c + 256 ≤ (s.link d).cyc) ∧
  (∃ (n why c : Nat) (s : State),
    n < 1280 ∧ (s.link ⟨.standby n, true⟩).homeAsk = some (why, c) ∧ c + 256 ≤ (s.link ⟨.standby n, true⟩).cyc) ∧
  (∃ (d : LinkDir) (_fails : List LaneFail) (k : Nat) (s : State),
    d.link.ok = true ∧ (s.link d).chk = .running k) ∧
  (∃ (d : LinkDir) (f : LinkCtl) (r : List LinkCtl) (m c : Nat) (o : Bool) (fails : List LaneFail) (s : State),
    d.link.ok = true ∧ takeFirst (fun f => fld (ctlBlock f) 0 8 == 2) (s.link d).ctlIn = some (f, r) ∧
    (s.link (revDir d)).chk = .counted m o fails c ∧ (s.link (revDir d)).width ≠ .eighth ∧ m ≠ 3) ∧
  (∃ (d : LinkDir) (f : LinkCtl) (r : List LinkCtl) (c : Nat) (o : Bool) (fails : List LaneFail) (s : State),
    d.link.ok = true ∧ takeFirst (fun f => fld (ctlBlock f) 0 8 == 2) (s.link d).ctlIn = some (f, r) ∧
    (s.link (revDir d)).chk = .counted 3 o fails c ∧ (s.link (revDir d)).width ≠ .eighth) ∧
  (∃ (d : LinkDir) (f : LinkCtl) (r : List LinkCtl) (m c : Nat) (o : Bool) (fails : List LaneFail) (s : State),
    d.link.ok = true ∧ takeFirst (fun f => fld (ctlBlock f) 0 8 == 2) (s.link d).ctlIn = some (f, r) ∧
    (s.link (revDir d)).chk = .counted m o fails c ∧ (s.link (revDir d)).width = .eighth) :=
    ⟨⟨d5, up.modLink d5 fun l => { l with rx := [(2, { naks := 3 })] },
      (by decide +kernel), (by decide +kernel), .inl ⟨2, by decide +kernel⟩⟩,
    ⟨d5, lc [1, 1], [], 128, 0, up.modLink d5 fun l => { l with ctlIn := [lc [1, 1]], chk := .asked 128 0 },
      by decide +kernel⟩,
    ⟨d5, lc [1], [], up.modLink d5 fun l => { l with ctlIn := [lc [1]] },
      by decide +kernel⟩,
    ⟨d5, 128, 0, up.modLink d5 fun l => { l with chk := .asked 128 0, cyc := 256 },
      by decide +kernel⟩,
    ⟨1279, 2, 0, up.modLink ⟨.standby 1279, true⟩ fun l => { l with homeAsk := some (2, 0), cyc := 256 },
      by decide +kernel⟩,
    ⟨d5, [.lane 3], 128, up.modLink d5 fun l => { l with chk := .running 128 },
      by decide +kernel⟩,
    ⟨d5, lc [2], [], 0, 0, false, [],
      (up.modLink d5 fun l => { l with ctlIn := [lc [2]] }).modLink (revDir d5) fun l => { l with chk := .counted 0 false [] 0, width := .full },
      by decide +kernel⟩,
    ⟨d5, lc [2], [], 0, true, [],
      (up.modLink d5 fun l => { l with ctlIn := [lc [2]] }).modLink (revDir d5) fun l => { l with chk := .counted 3 true [] 0, width := .full },
      by decide +kernel⟩,
    ⟨d5, lc [2], [], 0, 0, false, [],
      (up.modLink d5 fun l => { l with ctlIn := [lc [2]] }).modLink (revDir d5) fun l => { l with chk := .counted 0 false [] 0, width := .eighth },
      by decide +kernel⟩⟩

theorem test_w_GrantDrivesOneUnit :
  (∃ (d : LinkDir) (s : State),
    d.link.ok = true ∧ s.boot.rst = none ∧ (s.link d).lost = false ∧ silent s d = false ∧ (s.link (revDir d)).rets = [] ∧
    (s.link d).tx = [] ∧ (s.link d).prbs = false) ∧
  (∃ (d : LinkDir) (k : RetKind) (code key : Nat) (s : State),
    d.link.ok = true ∧ s.boot.rst = none ∧ (s.link d).lost = false ∧ silent s d = false ∧
    pickRet (s.link (revDir d)).rets = some (k, code, key)) ∧
  (∃ (d : LinkDir) (u : Beat) (r : List Beat) (s : State),
    d.link.ok = true ∧ s.boot.rst = none ∧ (s.link d).lost = false ∧ silent s d = false ∧ cellQuiet s d = false ∧ (s.link d).prbs = false ∧
    ((s.link d).midKey = ctlKey ∨ (tabGet {} (s.link d).tx (s.link d).midKey).sent.length % unitsPerBeat (s.link d).width = 0) ∧
    (tabGet {} (s.link d).tx ctlKey).ready = u :: r) ∧
  (∃ (d : LinkDir) (c : Nat) (ctx : Bool) (u : Beat) (r : List Beat) (s : State),
    d.link.ok = true ∧ s.boot.rst = none ∧ (s.link d).lost = false ∧ silent s d = false ∧ cellQuiet s d = false ∧ (s.link d).prbs = false ∧
    (tabGet {} (s.link d).tx (s.link d).midKey).sent.length % unitsPerBeat (s.link d).width = 0 ∧
    (tabGet {} (s.link d).tx ctlKey).ready = [] ∧ (s.link d).hold = false ∧ s.stopped = false ∧ (s.node (txNode d)).kac = false ∧
    grantChan s d (s.link d) ctx = some c ∧ (grantChan s d (s.link d) (!ctx) = none ∨ (s.link d).lastForeign = !ctx) ∧
    (tabGet {} (s.link d).tx (chCtx c ctx)).ready = u :: r) ∧
  (∃ (d : LinkDir) (s : State),
    d.link.ok = true ∧ s.boot.rst = none ∧ (s.link d).lost = false ∧ silent s d = false ∧ (s.link d).prbs = true) ∧
  (∃ (d : LinkDir) (s : State),
    d.link.ok = true ∧ s.boot.rst = none ∧ (s.link d).lost = false ∧ silent s d = true) :=
    ⟨⟨d5, up,
      by decide +kernel⟩,
    ⟨d5, .beat, 0, 2, up.modLink (revDir d5) fun l => { l with rets := [(2, { beat := 1 })] },
      by decide +kernel⟩,
    ⟨d5, bt, [], up.modLink d5 fun l => { l with midKey := ctlKey, tx := [(ctlKey, { ready := [bt] })] },
      by decide +kernel⟩,
    ⟨d5, 1, false, bt, [], up.modLink d5 fun l => { l with tx := [(2, { ready := [bt] })] },
      by decide +kernel⟩,
    ⟨d5, up.modLink d5 fun l => { l with prbs := true, prbsLeft := 3 },
      by decide +kernel⟩,
    ⟨⟨.cell 5, true⟩, up.modRehome 0 fun x => { x with step := 2 },
      by decide +kernel⟩⟩

theorem test_w_FrameIsJudged :
  (∃ (d : LinkDir) (_ctx : Bool) (w : List Byte × Nat) (r : List (List Byte × Nat)) (s : State),
    d.link.ok = true ∧ (tabGet {} (s.link d).rx ctlKey).whole = w :: r) ∧
  (∃ (l : LinkId) (ch : Nat) (ctx : Bool) (w : List Byte × Nat) (r : List (List Byte × Nat)) (s : State),
    l.ok = true ∧ ch < 16 ∧ (tabGet {} (s.link ⟨l, false⟩).rx (chCtx ch ctx)).whole = w :: r ∧
    frameCurrent s (upTarget l ctx).1 (upTarget l ctx).2.1 (parseFrame w.1) = true ∧ frameOk ⟨l, false⟩ ch (parseFrame w.1) w.1 w.2 = true ∧
    wanted s (upTarget l ctx).1 ch (upTarget l ctx).2.1 (parseFrame w.1) = true) ∧
  (∃ (l : LinkId) (ch : Nat) (ctx : Bool) (w : List Byte × Nat) (r : List (List Byte × Nat)) (k : ChunkKey) (s : State),
    l.ok = true ∧ ch < 16 ∧ (tabGet {} (s.link ⟨l, true⟩).rx (chCtx ch ctx)).whole = w :: r ∧
    frameCurrent s (downTarget l ctx).1 (downTarget l ctx).2 (parseFrame w.1) = true ∧ chunkKey s (parseFrame w.1) = some k ∧
    frameOk ⟨l, true⟩ ch (parseFrame w.1) w.1 w.2 = true ∧ (s.nchan (downTarget l ctx).1 ch (downTarget l ctx).2).downSeen.contains k = false) ∧
  (∃ (l : LinkId) (ch : Nat) (ctx : Bool) (w : List Byte × Nat) (r : List (List Byte × Nat)) (s : State),
    l.ok = true ∧ ch < 16 ∧ (tabGet {} (s.link ⟨l, false⟩).rx (chCtx ch ctx)).whole = w :: r ∧
    frameCurrent s (upTarget l ctx).1 (upTarget l ctx).2.1 (parseFrame w.1) = true ∧ frameOk ⟨l, false⟩ ch (parseFrame w.1) w.1 w.2 = false) ∧
  (∃ (l : LinkId) (ch : Nat) (ctx : Bool) (w : List Byte × Nat) (r : List (List Byte × Nat)) (s : State),
    l.ok = true ∧ ch < 16 ∧ (tabGet {} (s.link ⟨l, false⟩).rx (chCtx ch ctx)).whole = w :: r ∧
    nodeEpoch s (upTarget l ctx).1 (upTarget l ctx).2.1 (parseFrame w.1).gid ≠ some (parseFrame w.1).epoch) :=
    ⟨⟨d5, false, ([], 0), [], up.modLink d5 fun l => { l with rx := [(ctlKey, { whole := [([], 0)] })] },
      by decide +kernel⟩,
    ⟨.cell 5, 1, false, (frameBytes fr1, nb1), [], upF.modLink d5 fun l => { l with rx := [(2, { whole := [(frameBytes fr1, nb1)] })] },
      by decide +kernel⟩,
    ⟨.cell 5, 1, false, (frameBytes fr3, nb1), [], ⟨3, 5, 0, 0⟩,
      upF.modLink ⟨.cell 5, true⟩ fun l => { l with rx := [(2, { whole := [(frameBytes fr3, nb1)] })] },
      by decide +kernel⟩,
    ⟨.cell 5, 1, false, (frameBytes fr3, nb1), [], upF.modLink d5 fun l => { l with rx := [(2, { whole := [(frameBytes fr3, nb1)] })] },
      by decide +kernel⟩,
    ⟨.cell 5, 1, false, (frameBytes { fr1 with epoch := 4 }, nb1), [],
      upF.modLink d5 fun l => { l with rx := [(2, { whole := [(frameBytes { fr1 with epoch := 4 }, nb1)] })] },
      by decide +kernel⟩⟩

theorem test_w_CellsFormUpChunks :
  (∃ (cell ch : Nat) (o : OutChunk) (s : State),
    cell < 1280 ∧ ch < 16 ∧ s.stopped = false ∧ s.boot.brake = false ∧ (s.node (.cell cell)).kac = false ∧
    (s.nchan (.cell cell) ch false).out = none ∧ cellUpFree s cell ch = true ∧ cellNext s cell ch = some o) ∧
  (∃ (cell ch : Nat) (_ctx : Bool) (o : OutChunk) (k0 : Coll) (s : State),
    cell < 1280 ∧ ch < 16 ∧ (s.node (.cell cell)).kac = false ∧ (s.nchan (.cell cell) ch false).out = some o ∧
    collOf (s.group o.hdr.gid) o.hdr.cid = some k0 ∧
    ((cellFeeders s cell o).all fun k => (tabGet {} (s.nchan (.cell cell) ch false).slots (k % 4)).ready) = true) ∧
  (∃ (n : NodeId) (ch : Nat) (ctx : Bool) (o : OutChunk) (got : List (Nat × Frame)) (s : State),
    n.ok = true ∧ ch < 16 ∧ (∀ c, n ≠ .cell c) ∧ (s.node n).kac = false ∧ ((purgeSlots s n ch ctx).nchan n ch ctx).out = some o ∧
    o.src = none ∧ o.eof = true ∧ got.map (·.1) = memberSlots s n ctx o.hdr.gid ∧
    (∀ e ∈ got, ∃ fs, (tabGet {} ((purgeSlots s n ch ctx).nchan n ch ctx).slots e.1).frames = e.2 :: fs ∧ sameChunk e.2 o.hdr = true)) :=
    ⟨⟨5, 1, out1, upX,
      by decide +kernel⟩,
    ⟨5, 1, false, out1, post,
      upX.modNchan (.cell 5) 1 false fun c => { c with out := some out1, slots := [(1, { ready := true, ops := [.empty] })] },
      by decide +kernel⟩,
    ⟨.block 0, 1, false, { out1 with eof := true }, [(5, fr1)],
      upF.modNchan (.block 0) 1 false fun c => { c with out := some { out1 with eof := true }, slots := [(5, { frames := [fr1] })] },
      (by decide +kernel), (by decide +kernel), (fun _ h => nomatch h), (by decide +kernel), (by decide +kernel), (by decide +kernel),
      (by decide +kernel), (by decide +kernel), (by simp only [List.mem_singleton, forall_eq]; exact ⟨[], by decide +kernel⟩)⟩⟩

theorem test_w_DownChunkGoesToAFreeBuffer :
  (∃ (n : NodeId) (ch : Nat) (_ctx : Bool) (s : State),
    n.ok = true ∧ ch < 16 ∧ (∀ c, n ≠ .cell c) ∧ (s.node n).kac = false ∧ s.stopped = false) ∧
  (∃ (n : NodeId) (ch i : Nat) (ctx : Bool) (l : LinkId × Bool) (x : DownChunk) (pre r : List DownChunk) (s : State),
    childLink s n ctx i = some l ∧ (s.nchan n ch ctx).down = pre ++ x :: r ∧
    (∀ y ∈ pre, y.taken.contains i = true ∨ (downSlots s n ctx y.frame).contains i = false) ∧ x.taken.contains i = false ∧
    (downSlots s n ctx x.frame).contains i = true ∧ childFree s n ch ctx i (downTarget l.1 l.2) = true) ∧
  (∃ (c ch : Nat) (_ctx : Bool) (s : State),
    c < 1280 ∧ ch < 16 ∧ (s.node (.cell c)).kac = false ∧ s.stopped = false) ∧
  (∃ (k : Nat) (f : Frame) (c : Coll) (s : State),
    collOf (s.group f.gid) f.cid = some c ∧ c.coresLeft.contains (2 * k + 1) = false ∧
    ((s.port k).pull.opened.any fun x => x.gid == f.gid && x.cid == f.cid) = false) :=
    ⟨⟨.block 0, 1, false, upF,
      (by decide +kernel), (by decide +kernel), (fun _ h => nomatch h), (by decide +kernel), (by decide +kernel)⟩,
    ⟨.block 0, 1, 5, false, (.cell 5, false), { frame := { fr1 with kind := 3 }, since := 0 }, [], [],
      upF.modNchan (.block 0) 1 false fun c => { c with down := [{ frame := { fr1 with kind := 3 }, since := 0 }] },
      by decide +kernel⟩,
    ⟨1279, 15, false, upF,
      by decide +kernel⟩,
    ⟨21, fr1, { post with coresLeft := [42] }, upC.modGroup 3 fun g => { g with colls := [{ post with coresLeft := [42] }] },
      by decide +kernel⟩⟩

theorem test_w_StallsAndKnownAnswers :
  (∃ (p g : Nat) (vcb : Bool) (k : Packet) (s : State),
    p < 6 ∧ s.boot.brake = false ∧ stuckPacket s ((s.lport p).cls vcb) = some (g, k)) ∧
  (∃ (p : Nat) (_vcb : Bool) (s : State),
    p < 6 ∧ s.boot.brake = true) ∧
  (∃ (n : NodeId) (ch i : Nat) (ctx : Bool) (x : DownChunk) (s : State),
    n.ok = true ∧ ch < 16 ∧ i < 20 ∧ s.boot.brake = false ∧ waveHolds s n ctx i = false ∧
    ((s.nchan n ch ctx).down.find? fun y => (if n.lvl = 1 then !y.released.contains i else !y.taken.contains i) && (downSlots s n ctx y.frame).contains i) = some x ∧
    x.since + (s.group x.frame.gid).stall * 1024 * (tabGet 0 x.told i + 1) ≤ s.tb) ∧
  (∃ (n : NodeId) (ch : Nat) (_ctx _down : Bool) (s : State),
    n.ok = true ∧ ch < 16 ∧ (∀ b, n ≠ .block b) ∧ (s.node n).fenced = none ∧ (s.node n).nodeLost = false ∧ (s.node n).kac = false) ∧
  (∃ (b ch : Nat) (_ctx _down : Bool) (_s : State),
    b < 64 ∧ ch < 16) ∧
  (∃ (ch : Nat) (_ctx _down : Bool) (_s : State),
    ch < 16) ∧
  (∃ (n : NodeId) (s : State),
    n.ok = true ∧ (s.node n).kac = true) :=
    ⟨⟨5, 3, false, pk, { upC.modLport 5 fun l => { l with vcu := { l.vcu with parked := [(pk, 0, 1)] } } with tb := 1024000 },
      by decide +kernel⟩,
    ⟨5, false, { up with boot := { up.boot with brake := true } },
      by decide +kernel⟩,
    ⟨.block 0, 1, 5, false, { frame := { fr1 with kind := 3 }, since := 0 },
      { upF.modNchan (.block 0) 1 false fun c => { c with down := [{ frame := { fr1 with kind := 3 }, since := 0 }] } with tb := 1024000 },
      by decide +kernel⟩,
    ⟨.region 7, 15, false, false, up,
      (by decide +kernel), (by decide +kernel), (fun _ h => nomatch h), (by decide +kernel), (by decide +kernel), (by decide +kernel)⟩,
    ⟨63, 15, false, true, up,
      by decide +kernel⟩,
    ⟨15, false, true, up,
      by decide +kernel⟩,
    ⟨.region 7, up.modNode (.region 7) fun x => { x with kac := true },
      by decide +kernel⟩⟩

theorem test_w_OperationsOnSyncObjects :
  (∃ (i n : Nat) (l r : List SoOp) (s : State),
    i < 32768 ∧ takeOps i n s.sync.ops = (l, r) ∧ l ≠ [] ∧ (∀ op ∈ l, op.soid = i ∧ op.kind = .arrive ∧ soStatus s op = .ok)) ∧
  (∃ (i : Nat) (op : SoOp) (r : List SoOp) (s : State),
    i < 32768 ∧ takeOps i 1 s.sync.ops = ([op], r) ∧ op.soid = i ∧ op.kind = .signal ∧ soStatus s op = .ok) ∧
  (∃ (i : Nat) (op : SoOp) (r : List SoOp) (s : State),
    i < 32768 ∧ takeOps i 1 s.sync.ops = ([op], r) ∧ op.soid = i ∧ op.kind = .reset ∧ soStatus s op = .ok) ∧
  (∃ (i k : Nat) (op : SoOp) (r : List SoOp) (s : State),
    i < 32768 ∧ takeOps i 1 s.sync.ops = ([op], r) ∧ op.soid = i ∧ op.kind = .read ∧ soStatus s op = .ok ∧ op.caller = .core k) ∧
  (∃ (i : Nat) (op : SoOp) (r : List SoOp) (s : State),
    i < 32768 ∧ takeOps i 1 s.sync.ops = ([op], r) ∧ op.soid = i ∧ (soStatus s op ≠ .ok ∨ op.kind = .read)) :=
    ⟨⟨9, 1, [op9 .arrive 2], [], withOps [op9 .arrive 2],
      by decide +kernel⟩,
    ⟨9, op9 .signal 0, [], withOps [op9 .signal 0],
      by decide +kernel⟩,
    ⟨9, op9 .reset 5, [], withOps [op9 .reset 5],
      by decide +kernel⟩,
    ⟨9, 21, op9 .read 0, [], withOps [op9 .read 0],
      by decide +kernel⟩,
    ⟨9, op9 .arrive 0, [], withOps [op9 .arrive 0],
      by decide +kernel⟩⟩

theorem test_w_SleepersAreWoken :
  (∃ (cell : Nat) (n : Notice) (r : List Notice) (s : State),
    cell < 1280 ∧ takeFirst (fun n => n.cell == cell) s.sync.notices = some (n, r)) ∧
  (∃ (k : Nat) (w : Wait) (s : State),
    k < 5120 ∧ (s.port k).wait = some w ∧ w.remain = none ∧ w.deadline ≤ s.tb) ∧
  (∃ (k : Nat) (w : Wait) (s : State),
    k < 5120 ∧ (s.port k).wait = some w ∧ s.tb < w.deadline) ∧
  (∃ (k : Nat) (s : State),
    k < 5120 ∧ (s.port k).cgReq = true) :=
    ⟨⟨5, nt1, [], { waits9 with sync := { upO.sync with notices := [nt1] } },
      by decide +kernel⟩,
    ⟨21, wt .gen 9 1, { waits9 with tb := 100 },
      by decide +kernel⟩,
    ⟨21, wt .gen 9 1, { waits9 with tb := 99 },
      by decide +kernel⟩,
    ⟨21, upO.modPort 21 fun p => { p with cgReq := true, wake := true },
      by decide +kernel⟩⟩

theorem test_w_RemoteOperations :
  (∃ (p g : Nat) (f : BitVec 512) (r : List (BitVec 512)) (s : State),
    p < 6 ∧ s.stopped = false ∧ takeFirst (fun f => cKind f == ckSoOp) (s.lport p).inbox = some (f, r) ∧ findTag s (cTag f) = some g) ∧
  (∃ (p g : Nat) (f : BitVec 512) (r : List (BitVec 512)) (s : State),
    p < 6 ∧ takeFirst (fun f => cKind f == ckSoRefuse) (s.lport p).inbox = some (f, r) ∧ findTag s (cTag f) = some g) :=
    ⟨⟨5, 3, sof, [], upO.modLport 5 fun l => { l with up := true, rst := false, inbox := [sof] },
      by decide +kernel⟩,
    ⟨1, 3, flit ckSoRefuse 1 0 [(128, 15, 9), (145, 4, 1)], [], inbox upO [flit ckSoRefuse 1 0 [(128, 15, 9), (145, 4, 1)]],
      by decide +kernel⟩⟩

theorem test_w_CaneReleasesItsMembers :
  (∃ (cn g : Nat) (s : State),
    cn < 64 ∧ caneReady s cn = true ∧ (s.cchan cn).bound = some g ∧ (s.cchan cn).xchip = false ∧ bootBarrier s cn = false) ∧
  (∃ (cn : Nat) (s : State),
    cn < 64 ∧ caneReady s cn = true ∧ bootBarrier s cn = true) ∧
  (∃ (cn g : Nat) (s : State),
    cn < 64 ∧ caneReady s cn = true ∧ bootBarrier s cn = false ∧ (s.cchan cn).bound = some g ∧ (s.cchan cn).xchip = true ∧
    (s.cchan cn).stage = 0 ∧ remoteReady s = true) ∧
  (∃ (cn : Nat) (s : State),
    cn < 64 ∧ (s.stopped = true ∨ (s.cchan cn).lost = true ∨ caneArrived s cn = false)) ∧
  (∃ (cn cell : Nat) (lv : Bool) (ph : BitVec 32) (r : List (Nat × Nat × Bool × BitVec 32)) (s : State),
    cn < 64 ∧ cell < 1280 ∧ takeFirst (fun r => r.1 == cn && r.2.1 == cell) s.cane.rel = some ((cn, cell, lv, ph), r)) :=
    ⟨⟨3, 3, allN,
      by decide +kernel⟩,
    ⟨63,
      (let s := (let s := up.modCchan 63 fun c => { c with legs := [(0, true)], hostLeg := true }; { s with boot := { s.boot with absent := 2 ^ 5120 - 2 } }); { s with cane := { s.cane with bootBar := true } }),
      by decide +kernel⟩,
    ⟨3, 3, { allN.modCchan 3 fun c => { c with xchip := true } with boot := { allN.boot with level := .full } },
      by decide +kernel⟩,
    ⟨3, upN,
      by decide +kernel⟩,
    ⟨3, 5, true, 1, [],
      { upN.modPort 21 fun p => { p with wait := some (wt .cane 3 0) } with cane := { upN.cane with rel := [(3, 5, true, 1)] } },
      by decide +kernel⟩⟩

theorem test_w_CaneCopiesAndTokens :
  (∃ (lv n sl cn cp : Nat) (s : State),
    lv < 4 ∧ cn < 64 ∧ cp < 3 ∧ s.cane.flags.contains (lv, n, sl, cn, cp) = false) ∧
  (∃ (p g cn : Nat) (f : BitVec 512) (r : List (BitVec 512)) (s : State),
    p < 6 ∧ s.stopped = false ∧ takeFirst (fun f => cKind f == ckToken) (s.lport p).inbox = some (f, r) ∧ findTag s (cTag f) = some g ∧
    caneOfX s g = some cn ∧ fld f 131 12 ≠ s.self) ∧
  (∃ (cn _g : Nat) (_k : Token) (s : State),
    (s.cchan cn).stage = 0) ∧
  (∃ (cn _g : Nat) (_k : Token) (s : State) (d : Nat),
    (s.cchan cn).stage = 0 ∧ d ≠ cn) ∧
  (∃ (p g : Nat) (f : BitVec 512) (r : List (BitVec 512)) (s : State),
    p < 6 ∧ s.stopped = false ∧ takeFirst (fun f => cKind f == ckToken) (s.lport p).inbox = some (f, r) ∧ findTag s (cTag f) = some g ∧
    caneOfX s g = none) ∧
  (∃ (p : Nat) (f : BitVec 512) (r : List (BitVec 512)) (s : State),
    p < 6 ∧ s.stopped = false ∧ takeFirst (fun f => cKind f == ckToken) (s.lport p).inbox = some (f, r) ∧ findTag s (cTag f) = none) :=
    ⟨⟨1, 0, 2, 63, 2, upN,
      by decide +kernel⟩,
    ⟨1, 3, 3, tk1, [], inbox (upN.modCchan 3 fun c => { c with xchip := true }) [tk1],
      by decide +kernel⟩,
    ⟨3, 3, { parity := true, stage := 1, orig := 1 }, upN,
      by decide +kernel⟩,
    ⟨3, 3, { parity := true, stage := 1, orig := 1 }, upN, 4,
      by decide +kernel⟩,
    ⟨1, 3, tk1, [], inbox upN [tk1],
      by decide +kernel⟩,
    ⟨5, tk1, [], up.modLport 5 fun l => { l with up := true, rst := false, inbox := [tk1] },
      by decide +kernel⟩⟩

theorem test_w_MessagesLeaveAndAreCleared :
  (∃ (src : Nat) (r : List Nat) (s : State),
    s.host.msgen = true ∧ s.host.due = src :: r) ∧
  (∃ (s : State),
    s.host.msgen = false) ∧
  (∃ (n : Nat) (s : State),
    n < 4096 ∧ hostLive s = true) ∧
  (∃ (_w : BitVec 64) (s : State),
    hostLive s = true) :=
    ⟨⟨7, [], { up with host := { up.host with msgen := true, due := [7] } },
      by decide +kernel⟩,
    ⟨up,
      by decide +kernel⟩,
    ⟨4095, up.modSlot 4095 fun x => { x with ip := true, cnt := 1 },
      by decide +kernel⟩,
    ⟨0x8000000000000000, { up with host := { up.host with caneIp := BitVec.ofNat 64 (2 ^ 63) } },
      by decide +kernel⟩⟩

theorem test_w_ConversionsKeepValues :
  (∃ (f : FpFmt) (w : Nat),
    (f = fp32 ∨ f = fp16) ∧ w < 2 ^ (1 + f.t + f.eb)) ∧
  (∃ (n _s : Int),
    -(2 ^ 47) < n ∧ n < 2 ^ 47) :=
    ⟨⟨fp32, 0x7F800001,
      by decide +kernel⟩,
    ⟨2 ^ 47 - 1, -24,
      by decide +kernel⟩⟩

theorem test_w_ReservedAndReadOnlyOffsets :
  (∃ (k off : Nat) (_d : BitVec 64) (s : State),
    k < 5120 ∧ portLive s k = true ∧ off % 8 = 0 ∧ off < 1024 ∧ cpDefined off = false) ∧
  (∃ (k off : Nat) (_d : BitVec 64) (s : State),
    k < 5120 ∧ portLive s k = true ∧ off % 8 = 0 ∧ off < 1024 ∧ cpReadOnly off = true) :=
    ⟨⟨5119, 0x038, 1, up,
      by decide +kernel⟩,
    ⟨5119, 0x0D8, 1, up,
      by decide +kernel⟩⟩

theorem test_w_RegisterReadsAndWrites :
  (∃ (k : Nat) (_hi : Bool) (_d : BitVec 64) (s : State),
    k < 5120 ∧ portLive s k = true) :=
    ⟨5119, true, 5, up,
      by decide +kernel⟩

theorem test_w_TransfersArePosted :
  (∃ (k : Nat) (_hi : BitVec 64) (s : State),
    k < 5120 ∧ portLive s k = true) ∧
  (∃ (k : Nat) (hi : BitVec 64) (c : Coll) (s : State),
    k < 5120 ∧ portLive s k = true ∧ (s.port k).push.run = none ∧ (s.port k).push.que = none ∧ (s.port k).push.opened = [] ∧
    xferAlign s k false hi = false ∧ checkGroup s k (xferOf s k false hi).gid (xferOf s k false hi).cid = none ∧
    postingAt s k (xferOf s k false hi).gid (xferOf s k false hi).cid = some c ∧ checkPosted s k false (xferOf s k false hi) c = none) ∧
  (∃ (k : Nat) (hi : BitVec 64) (c : Coll) (s : State),
    k < 5120 ∧ portLive s k = true ∧ (s.port k).pull.run = none ∧ (s.port k).pull.que = none ∧ (s.port k).pull.opened = [] ∧
    xferAlign s k true hi = false ∧ checkGroup s k (xferOf s k true hi).gid (xferOf s k true hi).cid = none ∧
    postingAt s k (xferOf s k true hi).gid (xferOf s k true hi).cid = some c ∧ checkPosted s k true (xferOf s k true hi) c = none) :=
    ⟨⟨21, 0x1_0000_0100, (upC).modPort 21 fun p => { p with pushLo := 0x70003 },
      by decide +kernel⟩,
    ⟨21, 0x1_0000_0100, post, (upC).modPort 21 fun p => { p with pushLo := 0x70003, ctxPush := ctx1 },
      by decide +kernel⟩,
    ⟨21, 0x1_0000_0100, post, (upC).modPort 21 fun p => { p with pullLo := 0x70003, ctxPull := ctx1 },
      by decide +kernel⟩⟩

theorem test_w_CoreMemoryAndScalars :
  (∃ (k : Nat) (_data : BitVec 128) (q : RdReq) (r : List RdReq) (x : Xfer) (c : Coll) (s : State),
    k < 5120 ∧ (s.port k).rdReq = q :: r ∧ pushOf s k = some (x, c) ∧ x.seq = q.seq ∧ q.stale = false ∧
    x.buf.length + 16 < pushBeats x c * 16) ∧
  (∃ (k : Nat) (_data : BitVec 128) (q : RdReq) (r : List RdReq) (x : Xfer) (c : Coll) (s : State),
    k < 5120 ∧ (s.port k).rdReq = q :: r ∧ pushOf s k = some (x, c) ∧ x.seq = q.seq ∧ q.stale = false ∧
    pushBeats x c * 16 ≤ x.buf.length + 16) ∧
  (∃ (k : Nat) (_data : BitVec 128) (q : RdReq) (r : List RdReq) (s : State),
    k < 5120 ∧ (s.port k).rdReq = q :: r ∧ (s.port k).push.run = none) ∧
  (∃ (k : Nat) (_data : BitVec 128) (q : RdReq) (r : List RdReq) (s : State),
    k < 5120 ∧ (s.port k).rdReq = q :: r) ∧
  (∃ (k : Nat) (q : Nat × Nat × List Byte) (r : List (Nat × Nat × List Byte)) (s : State),
    k < 5120 ∧ (s.port k).wrOut = q :: r) ∧
  (∃ (k n j a : Nat) (b : List Byte) (sw : BitVec 64) (again : Bool) (rest : List (Nat × BitVec 64 × Nat × Bool)) (r : List (Nat × Nat × List Byte)) (x : Xfer) (s : State),
    k < 5120 ∧ (s.port k).wrOut = (x.seq, a, b) :: r ∧ (s.port k).pull.run = some x ∧ x.ackNeed = (n + 2, sw, j, again) :: rest ∧
    x.prog < x.nchunk) ∧
  (∃ (k j a : Nat) (b : List Byte) (sw : BitVec 64) (rest : List (Nat × BitVec 64 × Nat × Bool)) (r : List (Nat × Nat × List Byte)) (x : Xfer) (s : State),
    k < 5120 ∧ (s.port k).wrOut = (x.seq, a, b) :: r ∧ (s.port k).pull.run = some x ∧ x.ackNeed = (1, sw, j, false) :: rest ∧
    x.waiting = false) ∧
  (∃ (k seq a : Nat) (b : List Byte) (r : List (Nat × Nat × List Byte)) (x : Xfer) (s : State),
    k < 5120 ∧ (s.port k).wrOut = (seq, a, b) :: r ∧ (s.port k).pull.run = some x ∧ x.seq = seq) ∧
  (∃ (k : Nat) (_hi : BitVec 64) (s : State),
    k < 5120 ∧ portLive s k = true ∧ (s.port k).scal.isSome = true) ∧
  (∃ (k : Nat) (hi : BitVec 64) (s : State),
    k < 5120 ∧ portLive s k = true ∧ (s.port k).scal = none ∧ scalAlign s k hi = false ∧
    checkGroup s k (scalOf s k hi).gid (scalOf s k hi).cid = none ∧ postingAt s k (scalOf s k hi).gid (scalOf s k hi).cid = none) ∧
  (∃ (k : Nat) (hi : BitVec 64) (c : Coll) (s : State),
    k < 5120 ∧ portLive s k = true ∧ (s.port k).scal = none ∧ scalAlign s k hi = false ∧
    postingAt s k (scalOf s k hi).gid (scalOf s k hi).cid = some c ∧ checkScalar s k (scalOf s k hi) c = none) ∧
  (∃ (k : Nat) (x : Scal) (s : State),
    k < 5120 ∧ (s.port k).scal = some x ∧ x.waiting = true ∧ x.since + (s.group x.gid).stall * 1024 ≤ s.tb) ∧
  (∃ (k : Nat) (x : Xfer) (s : State),
    k < 5120 ∧ (s.port k).push.run = some x ∧ (s.port k).push.que = none ∧ x.waiting = true ∧ x.since + (s.group x.gid).stall * 1024 ≤ s.tb) ∧
  (∃ (k : Nat) (x : Xfer) (s : State),
    k < 5120 ∧ (s.port k).pull.run = some x ∧ (s.port k).pull.que = none ∧ x.waiting = true ∧ x.since + (s.group x.gid).stall * 1024 ≤ s.tb) :=
    ⟨⟨21, 5, rq1, [], push2, post2,
      ((upG).modGroup 3 fun g => { g with colls := [post2] }).modPort 21 fun p => { p with rdReq := [rq1], push := { p.push with run := some push2 } },
      by decide +kernel⟩,
    ⟨21, 5, rq1, [], push1, post, (upC).modPort 21 fun p => { p with rdReq := [rq1], push := { p.push with run := some push1 } },
      by decide +kernel⟩,
    ⟨21, 5, rq1, [], (upG).modPort 21 fun p => { p with rdReq := [rq1] },
      by decide +kernel⟩,
    ⟨21, 5, rq1, [], (upC).modPort 21 fun p => { p with rdReq := [rq1], push := { p.push with run := some push1 } },
      by decide +kernel⟩,
    ⟨21, (0, 0x100, [1]), [], (upG).modPort 21 fun p => { p with wrOut := [(0, 0x100, [1])], wrAcc := 1 },
      by decide +kernel⟩,
    ⟨21, 0, 0, 0x100, [1], 0, false, [], [], { push1 with ackNeed := [(2, 0, 0, false)] },
      (upC).modPort 21 fun p => { p with wrOut := [(0, 0x100, [1])], pull := { p.pull with run := some { push1 with ackNeed := [(2, 0, 0, false)] } } },
      by decide +kernel⟩,
    ⟨21, 0, 0x100, [1], 0, [], [], { push1 with ackNeed := [(1, 0, 0, false)] },
      (upC).modPort 21 fun p => { p with wrOut := [(0, 0x100, [1])], pull := { p.pull with run := some { push1 with ackNeed := [(1, 0, 0, false)] } } },
      by decide +kernel⟩,
    ⟨21, 0, 0x100, [1], [], push1, (upC).modPort 21 fun p => { p with wrOut := [(0, 0x100, [1])], pull := { p.pull with run := some push1 } },
      by decide +kernel⟩,
    ⟨21, 0, (upG).modPort 21 fun p => { p with scal := some scal1 },
      by decide +kernel⟩,
    ⟨21, 0, (upG).modPort 21 fun p => { p with scalLo := 0x7000300000000 },
      by decide +kernel⟩,
    ⟨21, 0, post, (upC).modPort 21 fun p => { p with scalLo := 0x700033F800000, ctxPush := ctx1, ctxPull := ctx1 },
      by decide +kernel⟩,
    ⟨21, scal1, { ((upG).modPort 21 fun p => { p with scal := some scal1 }) with tb := 1024000 },
      by decide +kernel⟩,
    ⟨21, { push1 with waiting := true },
      { ((upG).modPort 21 fun p => { p with push := { p.push with run := some { push1 with waiting := true } } }) with tb := 1024000 },
      by decide +kernel⟩,
    ⟨21, { push1 with waiting := true },
      { ((upG).modPort 21 fun p => { p with pull := { p.pull with run := some { push1 with waiting := true } } }) with tb := 1024000 },
      by decide +kernel⟩⟩

theorem test_w_SyncOperationsOfACore :
  (∃ (k : Nat) (_hi : BitVec 64) (s : State),
    k < 5120 ∧ portLive s k = true ∧ fld (s.port k).syncLo 16 2 = 0 ∧ mayOperate s k) ∧
  (∃ (k : Nat) (_hi : BitVec 64) (s : State),
    k < 5120 ∧ portLive s k = true ∧ fld (s.port k).syncLo 16 2 = 1 ∧ mayOperate s k) ∧
  (∃ (k : Nat) (_hi : BitVec 64) (s : State),
    k < 5120 ∧ portLive s k = true ∧ fld (s.port k).syncLo 16 2 = 2 ∧ mayOperate s k) ∧
  (∃ (k : Nat) (_hi : BitVec 64) (s : State),
    k < 5120 ∧ portLive s k = true ∧ fld (s.port k).syncLo 16 2 = 3 ∧ mayOperate s k) ∧
  (∃ (k : Nat) (hi : BitVec 64) (c : Instr × Nat) (s : State),
    c ∈ [(Instr.cpSyncArrive k hi, 0), (.cpSyncSignal k hi, 1), (.cpSyncReset k hi, 2), (.cpSyncRead k hi, 3)] ∧ k < 5120 ∧
    portLive s k = true ∧ fld (s.port k).syncLo 16 2 = c.2 ∧ ((s.port k).sync.isSome = true ∨ s.boot.level.code < 2)) ∧
  (∃ (k : Nat) (hi : BitVec 64) (c : Instr × Nat) (s : State),
    c ∈ [(Instr.cpSyncArrive k hi, 0), (.cpSyncSignal k hi, 1), (.cpSyncReset k hi, 2), (.cpSyncRead k hi, 3)] ∧ k < 5120 ∧
    portLive s k = true ∧ fld (s.port k).syncLo 16 2 = c.2 ∧ (s.port k).sync = none ∧ 2 ≤ s.boot.level.code ∧ (s.port k).tv = false) ∧
  (∃ (k : Nat) (h : SyncHold) (s : State),
    k < 5120 ∧ (s.port k).sync = some h ∧ h.sent = false ∧ h.rmt = false ∧ s.stopped = false ∧
    (h.ord % 2 = 1 → endedBefore (s.port k).push h.before = true) ∧ (2 ≤ h.ord → endedBefore (s.port k).pull h.before = true)) ∧
  (∃ (k : Nat) (h : SyncHold) (s : State),
    k < 5120 ∧ (s.port k).sync = some h ∧ h.sent = false ∧ h.rmt = true ∧ s.stopped = false ∧ ordHolds (s.port k) h = true ∧
    remoteStatus s (s.port k).tid h.gid h.chip h.kind h.opnd = .ok ∧ bit (s.group h.gid).cores k = true) ∧
  (∃ (k : Nat) (h : SyncHold) (s : State),
    k < 5120 ∧ (s.port k).sync = some h ∧ h.sent = false ∧ h.rmt = true ∧ s.stopped = false ∧ ordHolds (s.port k) h = true ∧
    remoteStatus s (s.port k).tid h.gid h.chip h.kind h.opnd ≠ .ok) ∧
  (∃ (k : Nat) (h : SyncHold) (s : State),
    k < 5120 ∧ (s.port k).sync = some h ∧ h.ord % 2 = 1 ∧ endedBefore (s.port k).push h.before = false) :=
    ⟨⟨21, 5, (upO).modPort 21 fun p => { p with syncLo := 0x00009 },
      (by decide +kernel), (by decide +kernel), (by decide +kernel), (by unfold mayOperate; decide +kernel)⟩,
    ⟨21, 5, (upO).modPort 21 fun p => { p with syncLo := 0x10009 },
      (by decide +kernel), (by decide +kernel), (by decide +kernel), (by unfold mayOperate; decide +kernel)⟩,
    ⟨21, 5, (upO).modPort 21 fun p => { p with syncLo := 0x20009 },
      (by decide +kernel), (by decide +kernel), (by decide +kernel), (by unfold mayOperate; decide +kernel)⟩,
    ⟨21, 5, (upO).modPort 21 fun p => { p with syncLo := 0x30009 },
      (by decide +kernel), (by decide +kernel), (by decide +kernel), (by unfold mayOperate; decide +kernel)⟩,
    ⟨21, 5, (.cpSyncRead 21 5, 3), (upO).modPort 21 fun p => { p with syncLo := 0x30009, sync := some hold9 },
      by decide +kernel⟩,
    ⟨21, 5, (.cpSyncArrive 21 5, 0), (upO).modPort 21 fun p => { p with syncLo := 0x00009, tv := false },
      by decide +kernel⟩,
    ⟨21, hold9, (upO).modPort 21 fun p => { p with sync := some hold9 },
      by decide +kernel⟩,
    ⟨21, { hold9 with rmt := true, gid := 3, chip := 1 },
      (upY).modPort 21 fun p => { p with sync := some { hold9 with rmt := true, gid := 3, chip := 1 } },
      by decide +kernel⟩,
    ⟨21, { hold9 with rmt := true, gid := 3, chip := 2 },
      (upY).modPort 21 fun p => { p with sync := some { hold9 with rmt := true, gid := 3, chip := 2 } },
      by decide +kernel⟩,
    ⟨21, { hold9 with before := 1 },
      (upO).modPort 21 fun p => { p with sync := some { hold9 with before := 1 }, push := { p.push with run := some push1 } },
      by decide +kernel⟩⟩

theorem test_w_CaneOperationsOfACore :
  (∃ (k : Nat) (w : BitVec 64) (s : State),
    k < 5120 ∧ portLive s k = true ∧ fld w 6 2 = 0 ∧ caneStatus s k (fld w 0 6) = .ok) ∧
  (∃ (k : Nat) (w : BitVec 64) (s : State),
    k < 5120 ∧ portLive s k = true ∧ fld w 6 2 = 0 ∧ caneStatus s k (fld w 0 6) ≠ .ok) ∧
  (∃ (k : Nat) (w : BitVec 64) (s : State),
    k < 5120 ∧ portLive s k = true ∧ fld w 6 2 = 1 ∧ caneStatus s k (fld w 0 6) = .ok ∧ (s.port k).wait = none) ∧
  (∃ (k : Nat) (w : BitVec 64) (s : State),
    k < 5120 ∧ portLive s k = true ∧ fld w 6 2 = 1 ∧ (caneStatus s k (fld w 0 6) ≠ .ok ∨ (s.port k).wait.isSome = true)) ∧
  (∃ (k : Nat) (w : BitVec 64) (s : State),
    k < 5120 ∧ portLive s k = true ∧ fld w 6 2 = 2 ∧ caneGranted s k (fld w 0 6) = true) ∧
  (∃ (k : Nat) (w : BitVec 64) (s : State),
    k < 5120 ∧ portLive s k = true ∧ fld w 6 2 = 2 ∧ caneGranted s k (fld w 0 6) = false) :=
    ⟨⟨21, 3, upN,
      by decide +kernel⟩,
    ⟨21, 4, upN,
      by decide +kernel⟩,
    ⟨21, 0x43, upN,
      by decide +kernel⟩,
    ⟨21, 0x7F, upN,
      by decide +kernel⟩,
    ⟨21, 0x83, upN,
      by decide +kernel⟩,
    ⟨21, 0x84, upN,
      by decide +kernel⟩⟩

theorem test_w_WaitsOfACore :
  (∃ (k : Nat) (_hi : BitVec 64) (s : State),
    k < 5120 ∧ portLive s k = true ∧ (s.port k).wait.isSome = true ∧ 2 ≤ s.boot.level.code ∧ fld (s.port k).waitLo 16 3 = 0) ∧
  (∃ (k : Nat) (_hi : BitVec 64) (s : State),
    k < 5120 ∧ portLive s k = true ∧ (s.port k).wait.isSome = true ∧ 2 ≤ s.boot.level.code ∧ fld (s.port k).waitLo 16 3 = 1) ∧
  (∃ (k : Nat) (hi : BitVec 64) (s : State),
    k < 5120 ∧ portLive s k = true ∧ fld (s.port k).waitLo 16 3 = 0 ∧ mayWait s k ∧ fld hi 0 32 < 65536) ∧
  (∃ (k : Nat) (_hi : BitVec 64) (s : State),
    k < 5120 ∧ portLive s k = true ∧ fld (s.port k).waitLo 16 3 = 1 ∧ mayWait s k) ∧
  (∃ (k : Nat) (_hi : BitVec 64) (s : State),
    k < 5120 ∧ portLive s k = true ∧ fld (s.port k).waitLo 16 3 = 2 ∧ (s.port k).wait = none ∧ (s.port k).tv = true ∧
    caneGranted s k (fld (s.port k).waitLo 0 6) = true ∧ caneMember s (fld (s.port k).waitLo 0 6) k = true ∧
    (s.cchan (fld (s.port k).waitLo 0 6)).lost = false ∧ hasArrived (s.cchan (fld (s.port k).waitLo 0 6)) k = true) ∧
  (∃ (k : Nat) (_hi : BitVec 64) (s : State),
    k < 5120 ∧ portLive s k = true ∧ fld (s.port k).waitLo 16 3 = 2 ∧ (s.port k).wait = none ∧ (s.port k).tv = true ∧
    caneGranted s k (fld (s.port k).waitLo 0 6) = true ∧ caneMember s (fld (s.port k).waitLo 0 6) k = true ∧
    (s.cchan (fld (s.port k).waitLo 0 6)).lost = false ∧ hasArrived (s.cchan (fld (s.port k).waitLo 0 6)) k = false) ∧
  (∃ (k : Nat) (_hi : BitVec 64) (s : State),
    k < 5120 ∧ portLive s k = true ∧ fld (s.port k).waitLo 16 3 = 3 ∧ (s.port k).wait = none) ∧
  (∃ (k : Nat) (_hi : BitVec 64) (s : State),
    k < 5120 ∧ portLive s k = true ∧ fld (s.port k).waitLo 16 3 = 4 ∧ (s.port k).wait = none) ∧
  (∃ (k : Nat) (_hi : BitVec 64) (s : State),
    k < 5120 ∧ portLive s k = true ∧ fld (s.port k).waitLo 16 3 = 5 ∧ (s.port k).wait = none) ∧
  (∃ (k : Nat) (_hi : BitVec 64) (s : State),
    k < 5120 ∧ portLive s k = true ∧ fld (s.port k).waitLo 16 3 = 6 ∧ (s.port k).wait = none) :=
    ⟨⟨21, 0, (upO).modPort 21 fun p => { p with waitLo := 0x00009, wait := some (wt .gen 9 1) },
      by decide +kernel⟩,
    ⟨21, 0, (upO).modPort 21 fun p => { p with waitLo := 0x10009, wait := some (wt .gen 9 1) },
      by decide +kernel⟩,
    ⟨21, 5, (upO).modPort 21 fun p => { p with waitLo := 0x00009 },
      (by decide +kernel), (by decide +kernel), (by decide +kernel), (by unfold mayWait; decide +kernel), (by decide +kernel)⟩,
    ⟨21, 5, (upO).modPort 21 fun p => { p with waitLo := 0x10009 },
      (by decide +kernel), (by decide +kernel), (by decide +kernel), (by unfold mayWait; decide +kernel)⟩,
    ⟨21, 5, (allN).modPort 21 fun p => { p with waitLo := 0x20003 },
      by decide +kernel⟩,
    ⟨21, 5, (upN).modPort 21 fun p => { p with waitLo := 0x20003 },
      by decide +kernel⟩,
    ⟨21, 5, (upC).modPort 21 fun p => { p with waitLo := 0x30000, push := { p.push with run := some push1 } },
      by decide +kernel⟩,
    ⟨21, 5, (upC).modPort 21 fun p => { p with waitLo := 0x40000, pull := { p.pull with run := some push1 } },
      by decide +kernel⟩,
    ⟨21, 5, (upG).modPort 21 fun p => { p with waitLo := 0x50000 },
      by decide +kernel⟩,
    ⟨21, 5, (upG).modPort 21 fun p => { p with waitLo := 0x60000 },
      by decide +kernel⟩⟩

theorem test_w_FencesPostingsAndCommits :
  (∃ (k : Nat) (s : State),
    k < 5120 ∧ portLive s k = true) ∧
  (∃ (cell g : Nat) (cid : BitVec 32) (r : List (Nat × Nat × BitVec 32)) (s : State),
    cell < 1280 ∧ takeFirst (fun e => e.1 == cell) s.mrv.postOut = some ((cell, g, cid), r) ∧
    (∀ q < 4, (∀ b, ∀ x ∈ ((s.port (4 * cell + q)).dir b).run.toList ++ ((s.port (4 * cell + q)).dir b).que.toList, x.waiting = false) ∧ ∀ x, (s.port (4 * cell + q)).scal = some x → x.waiting = false)) ∧
  (∃ (cell g q : Nat) (cid : BitVec 32) (r : List (Nat × Nat × BitVec 32)) (x : Xfer) (c : Coll) (s : State),
    cell < 1280 ∧ q < 4 ∧ takeFirst (fun e => e.1 == cell) s.mrv.postOut = some ((cell, g, cid), r) ∧ collOf (s.group g) cid = some c ∧
    dGid c.desc = g ∧ (∀ p < 4, p ≠ q → s.port (4 * cell + p) = {}) ∧ (s.port (4 * cell + q)).push.que = none ∧
    (s.port (4 * cell + q)).pull = {} ∧ (s.port (4 * cell + q)).scal = none ∧ (s.port (4 * cell + q)).push.run = some x ∧ x.waiting = true ∧
    x.gid = g ∧ x.cid = cid ∧ checkGroup s (4 * cell + q) g cid = none ∧ checkPosted s (4 * cell + q) false x c = none) ∧
  (∃ (cell g : Nat) (cid : BitVec 32) (r : List (Nat × Nat × BitVec 32)) (s : State),
    cell < 1280 ∧ takeFirst (fun e => e.1 == cell) s.mrv.commits = some ((cell, g, cid), r)) :=
    ⟨⟨21, upG,
      by decide +kernel⟩,
    ⟨5, 3, 7, [],
      (let s := (upG).modGroup 3 fun g => { g with colls := [{ post with cellsAt := [], cellsTo := [5] }] }; { s with mrv := { s.mrv with postOut := [(5, 3, 7)] } }),
      (by decide +kernel), (by decide +kernel),
      (by intro q h; match q, h with | 0, _ => exact ⟨by decide +kernel, fun _ h => nomatch h⟩ | 1, _ => exact ⟨by decide +kernel, fun _ h => nomatch h⟩ | 2, _ => exact ⟨by decide +kernel, fun _ h => nomatch h⟩ | 3, _ => exact ⟨by decide +kernel, fun _ h => nomatch h⟩)⟩,
    ⟨5, 3, 1, 7, [], { push1 with waiting := true, nchunk := 0 }, { post with cellsAt := [], cellsTo := [5] },
      (let s := ((upG).modGroup 3 fun g => { g with colls := [{ post with cellsAt := [], cellsTo := [5] }] }).modPort 21 fun p => { p with push := { p.push with run := some { push1 with waiting := true, nchunk := 0 } } }; { s with mrv := { s.mrv with postOut := [(5, 3, 7)] } }),
      by decide +kernel⟩,
    ⟨5, 3, 7, [],
      (let s := (upC).modPort 21 fun p => { p with pull := { p.pull with opened := [push1] } }; { s with mrv := { s.mrv with commits := [(5, 3, 7)] } }),
      by decide +kernel⟩⟩

theorem test_w_MailboxesAreServed :
  (∃ (mb off : Nat) (_be : BitVec 8) (_d : BitVec 64) (s : State),
    mb < 72 ∧ off < 256 ∧ hostLive s = true ∧ mbReached mb = true ∧ (s.mbox mb).full = false) ∧
  (∃ (mb off : Nat) (_be : BitVec 8) (_d : BitVec 64) (s : State),
    mb < 72 ∧ off < 256 ∧ hostLive s = true ∧ mbReached mb = true ∧ (s.mbox mb).full = true) ∧
  (∃ (mb : Nat) (s : State),
    s.gaf.serving = none ∧ s.gaf.restart = false ∧ s.boot.rst = none ∧ nextMb s = some mb ∧
    (let u := expireTxs s; let v : State := { u with gaf := { u.gaf with lastT := if 2 ≤ mb then mb else u.gaf.lastT } }; commonFail v mb = none)) ∧
  (∃ (mb : Nat) (e : St × Nat) (s : State),
    s.gaf.serving = none ∧ s.gaf.restart = false ∧ s.boot.rst = none ∧ nextMb s = some mb ∧
    commonFail { expireTxs s with gaf := { (expireTxs s).gaf with lastT := if 2 ≤ mb then mb else s.gaf.lastT } } mb = some e) ∧
  (∃ (mb : Nat) (s : State),
    serves s mb 0x0001) :=
    ⟨⟨4, 128, 0xFF, 5, up,
      by decide +kernel⟩,
    ⟨65, 248, 0xFF, 5, up.modMbox 65 fun m => { m with full := true },
      by decide +kernel⟩,
    ⟨4, (let s := mail (upT) 4 0x0001 0 []; { s with gaf := { s.gaf with serving := none } }),
      by decide +kernel⟩,
    ⟨4, (.version, 0), (let s := mail (upT) 4 0x0999 0 []; { s with gaf := { s.gaf with serving := none } }),
      by decide +kernel⟩,
    ⟨4, mail (upT) 4 0x0001 0 [],
      ⟨by decide +kernel, by decide +kernel⟩⟩⟩

theorem test_w_TransactionsApplyAllOrNothing :
  (∃ (mb : Nat) (s : State),
    serves s mb 0x0010 ∧ openTx s mb = none) ∧
  (∃ (mb : Nat) (x : Tx) (s : State),
    serves s mb 0x0010 ∧ openTx s mb = some x) ∧
  (∃ (mb : Nat) (x : Tx) (s : State),
    serves s mb 0x0011 ∧ openTx s mb = some x ∧
    (let u : State := { s with gaf := { s.gaf with serving := none } }; recheck u mb u 0 x.staged = none) ∧
    (let u : State := { s with gaf := { s.gaf with serving := none } }; noPause u x = true)) ∧
  (∃ (mb : Nat) (x : Tx) (s : State),
    serves s mb 0x0011 ∧ openTx s mb = some x ∧
    (let u : State := { s with gaf := { s.gaf with serving := none } }; recheck u mb u 0 x.staged = none) ∧
    (let u : State := { s with gaf := { s.gaf with serving := none } }; noPause u x = false)) ∧
  (∃ (mb : Nat) (x : Tx) (e : Nat × St) (s : State),
    serves s mb 0x0011 ∧ openTx s mb = some x ∧
    (let u : State := { s with gaf := { s.gaf with serving := none } }; recheck u mb u 0 x.staged = some e)) ∧
  (∃ (mb : Nat) (s : State),
    serves s mb 0x0012) ∧
  (∃ (mb : Nat) (x : Tx) (s : State),
    mb < 72 ∧ openTx s mb = some x ∧ x.committing = none ∧ x.deadline ≤ s.tb) ∧
  (∃ (mb a : Nat) (x : Tx) (s : State),
    mb < 72 ∧ heldCommit s mb = some (x, a) ∧ pausesHold s x = true ∧ s.tb < a + 100000 ∧ s.stopped = false ∧ s.gaf.restart = false ∧
    .commit mb ∈ s.gaf.parked) ∧
  (∃ (mb a : Nat) (x : Tx) (s : State),
    mb < 72 ∧ heldCommit s mb = some (x, a) ∧ a + 100000 ≤ s.tb ∧ .commit mb ∈ s.gaf.parked) :=
    ⟨⟨4, mail (up) 4 0x0010 0 [],
      ⟨by decide +kernel, by decide +kernel⟩, (by decide +kernel)⟩,
    ⟨4, tx1, mail (withTx up tx1) 4 0x0010 0 [],
      ⟨by decide +kernel, by decide +kernel⟩, (by decide +kernel)⟩,
    ⟨0, { tx1 with staged := [(.escSet 7, [])] }, mail (withTx0 up { tx1 with staged := [(.escSet 7, [])] }) 0 0x0011 9 [],
      ⟨by decide +kernel, by decide +kernel⟩, (by decide +kernel), (by decide +kernel), (by decide +kernel)⟩,
    ⟨0, { tx1 with staged := [(.channelWeight none 1, [])] },
      mail (withTx0 up { tx1 with staged := [(.channelWeight none 1, [])] }) 0 0x0011 9 [],
      ⟨by decide +kernel, by decide +kernel⟩, (by decide +kernel), (by decide +kernel), (by decide +kernel)⟩,
    ⟨4, { tx1 with staged := [(.escSet 7, [(9, 1)])] }, (0, .conflict),
      mail (withTx up { tx1 with staged := [(.escSet 7, [(9, 1)])] }) 4 0x0011 9 [],
      ⟨by decide +kernel, by decide +kernel⟩, (by decide +kernel), (by decide +kernel)⟩,
    ⟨4, mail (withTx up tx1) 4 0x0012 9 [],
      ⟨by decide +kernel, by decide +kernel⟩⟩,
    ⟨4, tx1, { withTx up tx1 with tb := 50 },
      by decide +kernel⟩,
    ⟨0, 0, { tx1 with committing := some 0, staged := [(.channelWeight none 1, [])] },
      (let s := withTx0 up { tx1 with committing := some 0, staged := [(.channelWeight none 1, [])] }; { s with gaf := { s.gaf with parked := [.commit 0] } }),
      by decide +kernel⟩,
    ⟨0, 0, { tx1 with committing := some 0, staged := [(.channelWeight none 1, [])] },
      { ((let s := withTx0 up { tx1 with committing := some 0, staged := [(.channelWeight none 1, [])] }; { s with gaf := { s.gaf with parked := [.commit 0] } })) with tb := 100000 },
      by decide +kernel⟩⟩

theorem test_w_GroupSettingsTakeEffect :
  (∃ (mb g : Nat) (mem : List Byte) (s : State),
    serves s mb 0x0102 ∧ cmdTxid (s.mbox mb).cmd = 0 ∧ fld (payOf s mb) 0 12 = g ∧ (s.group g).st = .disabled ∧
    listFail s (tidOf s mb) g (payOf s mb) mem = none) ∧
  (∃ (mb g : Nat) (s : State),
    serves s mb 0x0503 ∧ cmdTxid (s.mbox mb).cmd = 0 ∧ fld (payOf s mb) 0 12 = g ∧ (s.group g).st = .disabled ∧
    ((s.group g).report = false ∨ reportOk s (tidOf s mb) (pinOfN (payOf s mb)) (pinOfW (payOf s mb)) = true)) ∧
  (∃ (mb g : Nat) (s : State),
    serves s mb 0x0503 ∧ cmdTxid (s.mbox mb).cmd = 0 ∧ fld (payOf s mb) 0 12 = g ∧ (s.group g).st = .disabled ∧ (s.group g).report = true ∧
    reportOk s (tidOf s mb) (pinOfN (payOf s mb)) (pinOfW (payOf s mb)) = false) ∧
  (∃ (mb g : Nat) (s : State),
    serves s mb 0x0506 ∧ cmdTxid (s.mbox mb).cmd = 0 ∧ fld (payOf s mb) 0 12 = g ∧ (s.group g).st = .disabled ∧
    (pby (payOf s mb) 2 1 = 0 ∨ lowestApex s (s.group g) ≤ pby (payOf s mb) 2 1)) ∧
  (∃ (mb g : Nat) (s : State),
    serves s mb 0x0506 ∧ cmdTxid (s.mbox mb).cmd = 0 ∧ fld (payOf s mb) 0 12 = g ∧ (s.group g).st = .disabled ∧ pby (payOf s mb) 2 1 ≠ 0 ∧
    pby (payOf s mb) 2 1 < lowestApex s (s.group g)) ∧
  (∃ (mb g : Nat) (s : State),
    serves s mb 0x0507 ∧ cmdTxid (s.mbox mb).cmd = 0 ∧ fld (payOf s mb) 0 12 = g ∧ (s.group g).st = .disabled ∧
    (bit (payOf s mb) 16 = false ∨ earlyClash s g = false)) ∧
  (∃ (mb g : Nat) (s : State),
    serves s mb 0x0507 ∧ cmdTxid (s.mbox mb).cmd = 0 ∧ fld (payOf s mb) 0 12 = g ∧ (s.group g).st = .disabled ∧ bit (payOf s mb) 16 = true ∧
    earlyClash s g = true) ∧
  (∃ (mb g : Nat) (mem : List Byte) (c : Instr × Nat) (s : State),
    c ∈ [(Instr.groupUpdate mem, 0x0102), (.channelPin, 0x0503), (.hubPlace, 0x0506), (.deliveryMode, 0x0507)] ∧ serves s mb c.2 ∧
    cmdTxid (s.mbox mb).cmd = 0 ∧ fld (payOf s mb) 0 12 = g ∧ (s.group g).st ≠ .disabled ∧ (s.group g).st ≠ .free) :=
    ⟨⟨4, 3, lst, mail (upD) 4 0x0102 0 [(0, 12, 3)],
      ⟨by decide +kernel, by decide +kernel⟩, (by decide +kernel), (by decide +kernel), (by decide +kernel), (by decide +kernel)⟩,
    ⟨4, 3, mail (upD) 4 0x0503 0 [(0, 12, 3)],
      ⟨by decide +kernel, by decide +kernel⟩, (by decide +kernel), (by decide +kernel), (by decide +kernel), (by decide +kernel)⟩,
    ⟨4, 3, mail ((upD).modGroup 3 fun g => { g with report := true }) 4 0x0503 0 [(0, 12, 3), (16, 4, 13), (23, 1, 1)],
      ⟨by decide +kernel, by decide +kernel⟩, (by decide +kernel), (by decide +kernel), (by decide +kernel), (by decide +kernel),
      (by decide +kernel)⟩,
    ⟨4, 3, mail (upD) 4 0x0506 0 [(0, 12, 3)],
      ⟨by decide +kernel, by decide +kernel⟩, (by decide +kernel), (by decide +kernel), (by decide +kernel), (by decide +kernel)⟩,
    ⟨4, 3, mail ((upD).modGroup 3 fun g => { g with cores := 0x100000000F00000 }) 4 0x0506 0 [(0, 12, 3), (16, 8, 1)],
      ⟨by decide +kernel, by decide +kernel⟩, (by decide +kernel), (by decide +kernel), (by decide +kernel), (by decide +kernel),
      (by decide +kernel)⟩,
    ⟨4, 3, mail (upD) 4 0x0507 0 [(0, 12, 3)],
      ⟨by decide +kernel, by decide +kernel⟩, (by decide +kernel), (by decide +kernel), (by decide +kernel), (by decide +kernel)⟩,
    ⟨4, 3, mail (upD.setSched 0 (some twice)) 4 0x0507 0 [(0, 12, 3), (16, 1, 1)],
      ⟨by decide +kernel, by decide +kernel⟩, (by decide +kernel), (by decide +kernel), (by decide +kernel), (by decide +kernel),
      (by decide +kernel)⟩,
    ⟨4, 3, [], (.hubPlace, 0x0506), mail (upG) 4 0x0506 0 [(0, 12, 3)],
      (by decide +kernel), ⟨by decide +kernel, by decide +kernel⟩, (by decide +kernel), (by decide +kernel), (by decide +kernel),
      (by decide +kernel)⟩⟩

theorem test_w_BlockSettingsTakeEffect :
  (∃ (mb : Nat) (s : State),
    serves s mb 0x0504 ∧ cmdTxid (s.mbox mb).cmd = 0) ∧
  (∃ (mb : Nat) (s : State),
    serves s mb 0x0505 ∧ cmdTxid (s.mbox mb).cmd = 0) ∧
  (∃ (mb : Nat) (s : State),
    serves s mb 0x0602 ∧ cmdTxid (s.mbox mb).cmd = 0) ∧
  (∃ (mb : Nat) (s : State),
    serves s mb 0x0603 ∧ cmdTxid (s.mbox mb).cmd = 0 ∧ s.boot.level = .full) ∧
  (∃ (mb : Nat) (s : State),
    serves s mb 0x0603 ∧ cmdTxid (s.mbox mb).cmd = 0 ∧ s.boot.level ≠ .full) ∧
  (∃ (mb : Nat) (s : State),
    serves s mb 0x0604 ∧ cmdTxid (s.mbox mb).cmd = 0) ∧
  (∃ (mb : Nat) (s : State),
    serves s mb 0x0605 ∧ cmdTxid (s.mbox mb).cmd = 0) ∧
  (∃ (mb : Nat) (s : State),
    serves s mb 0x0601 ∧ cmdTxid (s.mbox mb).cmd = 0 ∧ namesOther s = false ∧
    (∀ n < 6, portUsed (payOf s mb) n = true → 1 ≤ rateOf (payOf s mb) n ∧ rateOf (payOf s mb) n ≤ rateMax (payOf s mb) n)) ∧
  (∃ (mb : Nat) (s : State),
    serves s mb 0x0601 ∧ cmdTxid (s.mbox mb).cmd = 0 ∧ namesOther s = true) ∧
  (∃ (mb n : Nat) (s : State),
    serves s mb 0x0601 ∧ cmdTxid (s.mbox mb).cmd = 0 ∧ namesOther s = false ∧ n < 6 ∧ portUsed (payOf s mb) n = true ∧
    (rateOf (payOf s mb) n = 0 ∨ rateMax (payOf s mb) n < rateOf (payOf s mb) n) ∧
    (∀ m < n, portUsed (payOf s mb) m = true → 1 ≤ rateOf (payOf s mb) m ∧ rateOf (payOf s mb) m ≤ rateMax (payOf s mb) m)) :=
    ⟨⟨4, mail (upT) 4 0x0504 0 [(0, 8, 1), (8, 8, 3)],
      ⟨by decide +kernel, by decide +kernel⟩, (by decide +kernel)⟩,
    ⟨4, mail (upT) 4 0x0505 0 [(0, 8, 3)],
      ⟨by decide +kernel, by decide +kernel⟩, (by decide +kernel)⟩,
    ⟨4, mail (upT) 4 0x0602 0 [],
      ⟨by decide +kernel, by decide +kernel⟩, (by decide +kernel)⟩,
    ⟨4, mail (upT) 4 0x0603 0 [(8, 1, 1)],
      ⟨by decide +kernel, by decide +kernel⟩, (by decide +kernel), (by decide +kernel)⟩,
    ⟨4, mail ({ upT with boot := { upT.boot with level := .cane } }) 4 0x0603 0 [(8, 1, 1)],
      ⟨by decide +kernel, by decide +kernel⟩, (by decide +kernel), (by decide +kernel)⟩,
    ⟨4, mail (upT) 4 0x0604 0 [(0, 32, 77)],
      ⟨by decide +kernel, by decide +kernel⟩, (by decide +kernel)⟩,
    ⟨4, mail (upT) 4 0x0605 0 [(0, 16, 90)],
      ⟨by decide +kernel, by decide +kernel⟩, (by decide +kernel)⟩,
    ⟨4, mail (upT) 4 0x0601 0 [],
      ⟨by decide +kernel, by decide +kernel⟩, (by decide +kernel), (by decide +kernel), (by decide +kernel)⟩,
    ⟨4, mail (upY) 4 0x0601 0 [],
      ⟨by decide +kernel, by decide +kernel⟩, (by decide +kernel), (by decide +kernel)⟩,
    ⟨4, 0, mail (upT) 4 0x0601 0 [(24, 8, 4)],
      ⟨by decide +kernel, by decide +kernel⟩, (by decide +kernel), (by decide +kernel), (by decide +kernel), (by decide +kernel),
      (by decide +kernel), (by decide +kernel)⟩⟩

theorem test_w_StagedCommandsWait :
  (∃ (mb : Nat) (mem : List Byte) (c : Instr × Nat) (x : Tx) (s : State),
    c ∈ [(Instr.groupUpdate mem, 0x0102), (.channelPin, 0x0503), (.channelWeight, 0x0504), (.vcbWeightSet, 0x0505), (.hubPlace, 0x0506), (.deliveryMode, 0x0507), (.chipPlace, 0x0601), (.linkClassSet, 0x0602), (.halfClock, 0x0603), (.escSet, 0x0604), (.powerCapSet, 0x0605)] ∧
    serves s mb c.2 ∧ openTx s mb = some x ∧ cmdTxid (s.mbox mb).cmd = x.txid ∧ x.txid ≠ 0) :=
    ⟨4, [], (.escSet, 0x0604), tx1, mail (withTx up tx1) 4 0x0604 9 [(0, 32, 77)],
      (by decide +kernel), ⟨by decide +kernel, by decide +kernel⟩, (by decide +kernel), (by decide +kernel), (by decide +kernel)⟩

theorem test_w_GroupLifecycle :
  (∃ (mb g : Nat) (mem : List Byte) (s : State),
    serves s mb 0x0101 ∧ (if bit (payOf s mb) 15 then freeGroup s = some g else fld (payOf s mb) 0 12 = g) ∧ (s.group g).st = .free ∧
    listFail s (tidOf s mb) g (payOf s mb) mem = none) ∧
  (∃ (mb g : Nat) (_mem : List Byte) (s : State),
    serves s mb 0x0101 ∧ bit (payOf s mb) 15 = false ∧ fld (payOf s mb) 0 12 = g ∧ (s.group g).st ≠ .free) ∧
  (∃ (mb g : Nat) (s : State),
    serves s mb 0x0103 ∧ fld (payOf s mb) 0 12 = g ∧ (s.group g).st = .disabled ∧ (s.group g).compiled = true) ∧
  (∃ (mb g : Nat) (s : State),
    serves s mb 0x0103 ∧ fld (payOf s mb) 0 12 = g ∧ (s.group g).st = .disabled ∧ (s.group g).compiled = true ∧ isXchip (s.group g) = false ∧
    (s.group g).colls = [] ∧ idleMarver s) ∧
  (∃ (mb g : Nat) (s : State),
    serves s mb 0x0103 ∧ fld (payOf s mb) 0 12 = g ∧ (s.group g).st = .disabled ∧ (s.group g).compiled = false) ∧
  (∃ (mb g : Nat) (s : State),
    serves s mb 0x0103 ∧ fld (payOf s mb) 0 12 = g ∧ (s.group g).st = .draining ∧ (s.group g).enq = false) ∧
  (∃ (g : Nat) (s : State),
    g < 4096 ∧ (s.group g).compiling = true ∧ (s.group g).st = .disabled ∧ s.stopped = false ∧ s.gaf.restart = false) ∧
  (∃ (mb g : Nat) (s : State),
    g < 4096 ∧ (s.group g).compiling = true ∧ (s.group g).st = .disabled ∧ s.stopped = false ∧ s.gaf.restart = false ∧
    isXchip (s.group g) = false ∧ (s.group g).colls = [] ∧ idleMarver s ∧ .enable mb g ∈ s.gaf.parked ∧
    (∀ m, .enable m g ∈ s.gaf.parked → m = mb)) ∧
  (∃ (mb g : Nat) (s : State),
    serves s mb 0x0104 ∧ fld (payOf s mb) 0 12 = g ∧ (s.group g).st = .enabled) ∧
  (∃ (mb g : Nat) (s : State),
    serves s mb 0x0104 ∧ fld (payOf s mb) 0 12 = g ∧ (s.group g).st = .enabled ∧ idleMarver s) ∧
  (∃ (mb g : Nat) (s : State),
    serves s mb 0x0105 ∧ fld (payOf s mb) 0 12 = g ∧ g < 4096 ∧ (s.group g).st = .disabled ∧ nbound s g = 0 ∧ schedsOf s g = []) ∧
  (∃ (mb g : Nat) (s : State),
    serves s mb 0x0105 ∧ fld (payOf s mb) 0 12 = g ∧ g < 4096 ∧ (s.group g).st = .disabled ∧ (nbound s g ≠ 0 ∨ schedsOf s g ≠ [])) :=
    ⟨⟨4, 4, lst, mail (upT) 4 0x0101 0 [(0, 12, 4)],
      ⟨by decide +kernel, by decide +kernel⟩, (by decide +kernel), (by decide +kernel), (by decide +kernel)⟩,
    ⟨4, 3, lst, mail (upD) 4 0x0101 0 [(0, 12, 3)],
      ⟨by decide +kernel, by decide +kernel⟩, (by decide +kernel), (by decide +kernel), (by decide +kernel)⟩,
    ⟨4, 3, mail (upD) 4 0x0103 0 [(0, 12, 3)],
      ⟨by decide +kernel, by decide +kernel⟩, (by decide +kernel), (by decide +kernel), (by decide +kernel)⟩,
    ⟨4, 3, mail (upD) 4 0x0103 0 [(0, 12, 3)],
      ⟨by decide +kernel, by decide +kernel⟩, (by decide +kernel), (by decide +kernel), (by decide +kernel), (by decide +kernel),
      (by decide +kernel), ⟨by decide +kernel, by decide +kernel⟩⟩,
    ⟨4, 3, mail ((upD).modGroup 3 fun g => { g with compiled := false }) 4 0x0103 0 [(0, 12, 3)],
      ⟨by decide +kernel, by decide +kernel⟩, (by decide +kernel), (by decide +kernel), (by decide +kernel)⟩,
    ⟨4, 3, mail ((upG).modGroup 3 fun g => { g with st := .draining }) 4 0x0103 0 [(0, 12, 3)],
      ⟨by decide +kernel, by decide +kernel⟩, (by decide +kernel), (by decide +kernel), (by decide +kernel)⟩,
    ⟨3,
      (let s := (upD).modGroup 3 fun g => { g with compiled := false, compiling := true }; { s with gaf := { s.gaf with parked := [.enable 4 3] } }),
      by decide +kernel⟩,
    ⟨4, 3,
      (let s := (upD).modGroup 3 fun g => { g with compiled := false, compiling := true }; { s with gaf := { s.gaf with parked := [.enable 4 3] } }),
      (by decide +kernel), (by decide +kernel), (by decide +kernel), (by decide +kernel), (by decide +kernel), (by decide +kernel),
      (by decide +kernel), ⟨by decide +kernel, by decide +kernel⟩, (by decide +kernel),
      (fun m h => by have h : Parked.enable m 3 ∈ [Parked.enable 4 3] := h; simpa using h)⟩,
    ⟨4, 3, mail (upG) 4 0x0104 0 [(0, 12, 3)],
      ⟨by decide +kernel, by decide +kernel⟩, (by decide +kernel), (by decide +kernel)⟩,
    ⟨4, 3, mail (upG) 4 0x0104 0 [(0, 12, 3)],
      ⟨by decide +kernel, by decide +kernel⟩, (by decide +kernel), (by decide +kernel), ⟨by decide +kernel, by decide +kernel⟩⟩,
    ⟨4, 3, mail (upD) 4 0x0105 0 [(0, 12, 3)],
      ⟨by decide +kernel, by decide +kernel⟩, (by decide +kernel), (by decide +kernel), (by decide +kernel), (by decide +kernel),
      (by decide +kernel)⟩,
    ⟨4, 3, mail (upD.setSched 0 (some sched0)) 4 0x0105 0 [(0, 12, 3)],
      ⟨by decide +kernel, by decide +kernel⟩, (by decide +kernel), (by decide +kernel), (by decide +kernel), (by decide +kernel)⟩⟩

theorem test_w_DrainsPeersAndQueries :
  (∃ (g : Nat) (s : State),
    g < 4096 ∧ (s.group g).st = .draining ∧ s.stopped = false ∧ drained s g = true ∧ (s.group g).enq = false) ∧
  (∃ (g : Nat) (s : State),
    g < 4096 ∧ (s.group g).st = .draining ∧ s.stopped = false ∧ drained s g = true ∧ (s.group g).enq = true) ∧
  (∃ (g : Nat) (s : State),
    g < 4096 ∧ (s.group g).st = .draining ∧ s.stopped = false ∧ drained s g = true ∧ (s.group g).enq = true ∧ isXchip (s.group g) = false ∧
    idleMarver s) ∧
  (∃ (g : Nat) (s : State),
    g < 4096 ∧ (s.group g).st = .draining ∧ s.stopped = false ∧ (s.group g).since + 8 * (s.group g).stall * 1024 ≤ s.tb) ∧
  (∃ (p g : Nat) (f : BitVec 512) (u s : State),
    p < 6 ∧ s.stopped = false ∧ takeCtrl s p ckHandshake = some (f, u) ∧ findTag s (cTag f) = some g ∧
    ((BitVec.ofNat 16 (fld f 128 16)) - (s.group g).epoch).toNat < 0x8000) ∧
  (∃ (p g : Nat) (f : BitVec 512) (u s : State),
    p < 6 ∧ s.stopped = false ∧ takeCtrl s p ckHandshake = some (f, u) ∧ findTag s (cTag f) = some g ∧ (s.group g).st = .enabled ∧
    isXchip (s.group g) = true ∧ (s.group g).colls = [] ∧ idleMarver s ∧ (∀ h ∈ (s.group g).hs, newerBy (s.group g) h = 0) ∧
    missingChips s g = [cSrc f] ∧ BitVec.ofNat 16 (fld f 128 16) = (s.group g).epoch ∧ BitVec.ofNat 32 (fld f 144 32) = (s.group g).listCrc ∧
    fld f 176 4 = (s.group g).clog) ∧
  (∃ (g : Nat) (s : State),
    g < 4096 ∧ ((s.group g).st = .enabled ∨ (s.group g).st = .draining) ∧ isXchip (s.group g) = true ∧ (s.group g).peers = false ∧
    s.stopped = false ∧ (s.group g).peerSince + (s.group g).stall * 1024 ≤ s.tb) ∧
  (∃ (mb : Nat) (s : State),
    serves s mb 0x0106) ∧
  (∃ (mb : Nat) (s : State),
    serves s mb 0x0107) :=
    ⟨⟨3, (upG).modGroup 3 fun g => { g with st := .draining },
      by decide +kernel⟩,
    ⟨3, (upG).modGroup 3 fun g => { g with st := .draining, enq := true },
      by decide +kernel⟩,
    ⟨3, (upG).modGroup 3 fun g => { g with st := .draining, enq := true },
      (by decide +kernel), (by decide +kernel), (by decide +kernel), (by decide +kernel), (by decide +kernel), (by decide +kernel),
      ⟨by decide +kernel, by decide +kernel⟩⟩,
    ⟨3, { ((upC).modGroup 3 fun g => { g with st := .draining }) with tb := 8192000 },
      by decide +kernel⟩,
    ⟨1, 3, hsf, inbox gx [], inbox gx [hsf],
      by decide +kernel⟩,
    ⟨1, 3, hsf, inbox gx [], inbox gx [hsf],
      (by decide +kernel), (by decide +kernel), (by decide +kernel), (by decide +kernel), (by decide +kernel), (by decide +kernel),
      (by decide +kernel), ⟨by decide +kernel, by decide +kernel⟩, (by decide +kernel), (by decide +kernel), (by decide +kernel),
      (by decide +kernel), (by decide +kernel)⟩,
    ⟨3, { (gx) with tb := 1024000 },
      by decide +kernel⟩,
    ⟨4, mail (upG) 4 0x0106 0 [(0, 12, 3)],
      ⟨by decide +kernel, by decide +kernel⟩⟩,
    ⟨4, mail (upG) 4 0x0107 0 [(0, 12, 3)],
      ⟨by decide +kernel, by decide +kernel⟩⟩⟩

theorem test_w_PostingsAndSchedules :
  (∃ (mb : Nat) (st : St) (d : Desc) (s : State),
    serves s mb 0x0201 ∧ d = BitVec.ofNat 1024 (fld (payOf s mb) 0 1024) ∧ postFail s (dGid d) d = some st) ∧
  (∃ (mb : Nat) (d : Desc) (s : State),
    serves s mb 0x0201 ∧ d = BitVec.ofNat 1024 (fld (payOf s mb) 0 1024) ∧ postFail s (dGid d) d = none ∧
    needsMarver (s.group (dGid d)) d = false) ∧
  (∃ (mb : Nat) (d : Desc) (s : State),
    serves s mb 0x0201 ∧ d = BitVec.ofNat 1024 (fld (payOf s mb) 0 1024) ∧ postFail s (dGid d) d = none ∧
    needsMarver (s.group (dGid d)) d = true) ∧
  (∃ (mb n : Nat) (mem : List Byte) (s : State),
    serves s mb 0x0501 ∧
    (if bit (payOf s mb) 15 then (freeNumbers s true) ≠ [] ∧ n = (freeNumbers s true).getD (Config.freeNat (s.freeCtr + 1) % (freeNumbers s true).length) 0 else fld (payOf s mb) 0 9 = n ∧ s.sched n = none) ∧
    (let h := readHdr (hdrBits mem); foreignGroup s (tidOf s mb) h.gid = false) ∧
    (let h := readHdr (hdrBits mem); keyHeld { s with gaf := { s.gaf with serving := none } } h.gid = false) ∧
    (let h := readHdr (hdrBits mem); (s.group h.gid).st ≠ .free) ∧
    (let ts := (List.range (fld (hdrBits mem) 12 7 + 1)).map fun i => readStep (descBits mem i); let tf := Config.freeNat s.freeCtr % 12; loadOk s mem (loadWfmt ts) tf ts = true) ∧
    (let h := readHdr (hdrBits mem); let ts := (List.range (fld (hdrBits mem) 12 7 + 1)).map fun i => readStep (descBits mem i); let tf := Config.freeNat s.freeCtr % 12; (s.group h.gid).dmode = true → rewritesInput (s.group h.gid) (loadWfmt ts) tf ts = false)) ∧
  (∃ (mb n : Nat) (mem : List Byte) (s : State),
    serves s mb 0x0501 ∧ bit (payOf s mb) 15 = false ∧ fld (payOf s mb) 0 9 = n ∧ s.sched n = none ∧
    (let h := readHdr (hdrBits mem); foreignGroup s (tidOf s mb) h.gid = false) ∧
    (let h := readHdr (hdrBits mem); keyHeld { s with gaf := { s.gaf with serving := none } } h.gid = false) ∧
    (let ts := (List.range (fld (hdrBits mem) 12 7 + 1)).map fun i => readStep (descBits mem i); loadOk s mem (loadWfmt ts) (Config.freeNat s.freeCtr % 12) ts = false)) ∧
  (∃ (mb n : Nat) (x : Sched) (s : State),
    serves s mb 0x0502 ∧ fld (payOf s mb) 0 9 = n ∧ s.sched n = some x ∧ x.passes = [] ∧ (∀ m k, .unload m k ∉ s.gaf.parked)) ∧
  (∃ (mb n : Nat) (x : Sched) (s : State),
    serves s mb 0x0502 ∧ fld (payOf s mb) 0 9 = n ∧ s.sched n = some x ∧ x.passes ≠ [] ∧ (∀ q ∈ x.passes, q.steps.any (·.started) = true) ∧
    (∀ m k, .unload m k ∉ s.gaf.parked)) ∧
  (∃ (mb n a : Nat) (x : Sched) (s : State),
    n < 512 ∧ s.sched n = some x ∧ x.unloading = some a ∧ a + 100000 ≤ s.tb ∧ .unload mb n ∈ s.gaf.parked ∧
    (∀ m, .unload m n ∈ s.gaf.parked → m = mb)) :=
    ⟨⟨4, .conflict, post.desc, mail (upC) 4 0x0201 0 [(0, 1024, post.desc.toNat)],
      ⟨by decide +kernel, by decide +kernel⟩, (by decide +kernel), (by decide +kernel)⟩,
    ⟨4, post.desc, mail (upG) 4 0x0201 0 [(0, 1024, post.desc.toNat)],
      ⟨by decide +kernel, by decide +kernel⟩, (by decide +kernel), (by decide +kernel), (by decide +kernel)⟩,
    ⟨4, dStand3, mail (upG) 4 0x0201 0 [(0, 1024, dStand3.toNat)],
      ⟨by decide +kernel, by decide +kernel⟩, (by decide +kernel), (by decide +kernel), (by decide +kernel)⟩,
    ⟨4, 0, schedMem, mail (upG) 4 0x0501 0 [],
      ⟨by decide +kernel, by decide +kernel⟩, (by decide +kernel), (by decide +kernel), (by decide +kernel), (by decide +kernel),
      (by decide +kernel), (by decide +kernel)⟩,
    ⟨4, 0, padTo (leBytes 256 3) 288, mail (upG) 4 0x0501 0 [],
      ⟨by decide +kernel, by decide +kernel⟩, (by decide +kernel), (by decide +kernel), (by decide +kernel), (by decide +kernel),
      (by decide +kernel), (by decide +kernel)⟩,
    ⟨4, 0, sched0, mail (upG.setSched 0 (some sched0)) 4 0x0502 0 [],
      ⟨by decide +kernel, by decide +kernel⟩, (by decide +kernel), (by decide +kernel), (by decide +kernel), (fun _ _ h => nomatch h)⟩,
    ⟨4, 0, sched1 [stNote] [{ started := true }], mail (upS [stNote] [{ started := true }]) 4 0x0502 0 [],
      ⟨by decide +kernel, by decide +kernel⟩, (by decide +kernel), (by decide +kernel), (by decide +kernel), (by decide +kernel),
      (fun _ _ h => nomatch h)⟩,
    ⟨4, 0, 0, { sched0 with unloading := some 0 },
      { ((let s := upG.setSched 0 (some { sched0 with unloading := some 0 }); { s with gaf := { s.gaf with parked := [.unload 4 0] } })) with tb := 100000 },
      (by decide +kernel), (by decide +kernel), (by decide +kernel), (by decide +kernel), (by decide +kernel),
      (fun m h => by have h : Parked.unload m 0 ∈ [Parked.unload 4 0] := h; simpa using h)⟩⟩

theorem test_w_ItemsAndTasks :
  (∃ (mb i : Nat) (s : State),
    serves s mb 0x0301 ∧ (taskOf s (tidOf s mb) (fld (payOf s mb) 64 16)).isSome = true ∧
    (bit (payOf s mb) 95 = true → (s.group (fld (payOf s mb) 80 12)).st ≠ .free) ∧
    (let p := payOf s mb; let fits (j : Nat) : Prop := if bit p 16 then (s.obj j).al = true ∧ (s.obj j).st = .abandoned ∧ (s.obj j).tid = tidOf s mb else (s.obj j).al = false; fits i) ∧
    (let p := payOf s mb; let r := if bit p 17 then (0x4000 + 256 * fld p 24 8, 256) else (0, 0x4000); let fits (j : Nat) : Prop := if bit p 16 then (s.obj j).al = true ∧ (s.obj j).st = .abandoned ∧ (s.obj j).tid = tidOf s mb else (s.obj j).al = false; if bit p 15 then r.1 ≤ i ∧ i < r.1 + r.2 ∧ ∀ j, r.1 ≤ j → j < i → ¬ fits j else fld p 0 15 = i)) ∧
  (∃ (mb i : Nat) (s : State),
    serves s mb 0x0301 ∧ (taskOf s (tidOf s mb) (fld (payOf s mb) 64 16)).isSome = true ∧ bit (payOf s mb) 95 = false ∧
    bit (payOf s mb) 16 = false ∧ bit (payOf s mb) 15 = false ∧ fld (payOf s mb) 0 15 = i ∧ (s.obj i).al = true) ∧
  (∃ (mb i : Nat) (s : State),
    serves s mb 0x0302 ∧ fld (payOf s mb) 0 15 = i ∧ (s.obj i).al = true ∧ (s.obj i).st ≠ .frozen ∧ nwait s i = 0) ∧
  (∃ (mb i : Nat) (s : State),
    serves s mb 0x0302 ∧ fld (payOf s mb) 0 15 = i ∧ (s.obj i).al = true ∧ ((s.obj i).st = .frozen ∨ nwait s i ≠ 0)) ∧
  (∃ (mb i : Nat) (s : State),
    serves s mb 0x0303 ∧ fld (payOf s mb) 0 15 = i ∧ ((s.obj i).al = true ∨ mb = 0)) ∧
  (∃ (mb cn g : Nat) (s : State),
    serves s mb 0x0310 ∧ fld (payOf s mb) 0 8 = cn ∧ fld (payOf s mb) 16 12 = g ∧ (s.cchan cn).lost = false ∧ (s.cchan cn).bound = none ∧
    (s.group g).st = .disabled ∧ (isXchip (s.group g) = true → isProduct (s.group g).chips = true ∧ caneOfX s g = none)) ∧
  (∃ (mb cn g : Nat) (s : State),
    serves s mb 0x0310 ∧ fld (payOf s mb) 0 8 = cn ∧ fld (payOf s mb) 16 12 = g ∧ (s.cchan cn).lost = false ∧
    ((s.cchan cn).bound.isSome = true ∨ (s.group g).st ≠ .disabled)) ∧
  (∃ (mb cn g : Nat) (s : State),
    serves s mb 0x0311 ∧ fld (payOf s mb) 0 8 = cn ∧ (s.cchan cn).bound = some g ∧ (s.group g).st = .disabled) ∧
  (∃ (mb n i : Nat) (s : State),
    serves s mb 0x0320 ∧ fld (payOf s mb) 0 16 = n ∧ fld (payOf s mb) 16 15 = i ∧ n < 4096 ∧ (s.obj i).al = true ∧ (s.slot n).soid = none) ∧
  (∃ (mb n : Nat) (s : State),
    serves s mb 0x0321 ∧ fld (payOf s mb) 0 16 = n ∧ n < 4096 ∧ (s.slot n).soid.isSome = true ∧ (s.slot n).busy = false) ∧
  (∃ (mb n : Nat) (s : State),
    serves s mb 0x0321 ∧ fld (payOf s mb) 0 16 = n ∧ n < 4096 ∧ (s.slot n).soid.isSome = true ∧ (s.slot n).busy = true) ∧
  (∃ (mb : Nat) (mem : List Byte) (s : State),
    serves s mb 0x0401 ∧ (taskOf s (tidOf s mb) (fld (payOf s mb) 0 16)).isSome = false ∧
    (let cores := taskMask mem (payOf s mb); (∀ k, k < 5120 → bit cores k = true → (s.port k).tv = false) ∧ inCells (s.tenant (tidOf s mb)) cores = true ∧ namesAbsent s cores = false) ∧
    s.grp.tasks.length < 4096) ∧
  (∃ (mb : Nat) (x : Task) (s : State),
    serves s mb 0x0402 ∧ taskOf s (tidOf s mb) (fld (payOf s mb) 0 16) = some x ∧ x.suspended = false) ∧
  (∃ (mb : Nat) (x : Task) (s : State),
    serves s mb 0x0403 ∧ taskOf s (tidOf s mb) (fld (payOf s mb) 0 16) = some x ∧ x.suspended = true) ∧
  (∃ (mb : Nat) (x : Task) (s : State),
    serves s mb 0x0404 ∧ taskOf s (tidOf s mb) (fld (payOf s mb) 0 16) = some x) ∧
  (∃ (mb : Nat) (x : Task) (s : State),
    serves s mb 0x0405 ∧ taskOf s (tidOf s mb) (fld (payOf s mb) 0 16) = some x ∧ residue s x = []) ∧
  (∃ (mb : Nat) (x : Task) (s : State),
    serves s mb 0x0405 ∧ taskOf s (tidOf s mb) (fld (payOf s mb) 0 16) = some x ∧ residue s x ≠ []) :=
    ⟨⟨4, 10, mail (upK) 4 0x0301 0 [(0, 15, 10), (32, 32, 2), (64, 16, 4)],
      ⟨by decide +kernel, by decide +kernel⟩, (by decide +kernel), (by decide +kernel), (by decide +kernel), (by decide +kernel)⟩,
    ⟨4, 9, mail (upK) 4 0x0301 0 [(0, 15, 9), (32, 32, 2), (64, 16, 4)],
      ⟨by decide +kernel, by decide +kernel⟩, (by decide +kernel), (by decide +kernel), (by decide +kernel), (by decide +kernel),
      (by decide +kernel), (by decide +kernel)⟩,
    ⟨4, 9, mail (upO) 4 0x0302 0 [(0, 15, 9)],
      ⟨by decide +kernel, by decide +kernel⟩, (by decide +kernel), (by decide +kernel), (by decide +kernel), (by decide +kernel)⟩,
    ⟨4, 9, mail (waits9) 4 0x0302 0 [(0, 15, 9)],
      ⟨by decide +kernel, by decide +kernel⟩, (by decide +kernel), (by decide +kernel), (by decide +kernel)⟩,
    ⟨4, 9, mail (upO) 4 0x0303 0 [(0, 15, 9)],
      ⟨by decide +kernel, by decide +kernel⟩, (by decide +kernel), (by decide +kernel)⟩,
    ⟨4, 3, 3, mail (upD) 4 0x0310 0 [(0, 8, 3), (16, 12, 3)],
      ⟨by decide +kernel, by decide +kernel⟩, (by decide +kernel), (by decide +kernel), (by decide +kernel), (by decide +kernel),
      (by decide +kernel), (by decide +kernel)⟩,
    ⟨4, 3, 3, mail (upG) 4 0x0310 0 [(0, 8, 3), (16, 12, 3)],
      ⟨by decide +kernel, by decide +kernel⟩, (by decide +kernel), (by decide +kernel), (by decide +kernel), (by decide +kernel)⟩,
    ⟨4, 3, 3, mail (upD.modCchan 3 fun c => { c with bound := some 3 }) 4 0x0311 0 [(0, 8, 3)],
      ⟨by decide +kernel, by decide +kernel⟩, (by decide +kernel), (by decide +kernel), (by decide +kernel)⟩,
    ⟨4, 4095, 9, mail (upO) 4 0x0320 0 [(0, 16, 4095), (16, 15, 9)],
      ⟨by decide +kernel, by decide +kernel⟩, (by decide +kernel), (by decide +kernel), (by decide +kernel), (by decide +kernel),
      (by decide +kernel)⟩,
    ⟨4, 4095, mail (upO.modSlot 4095 fun x => { x with soid := some 9 }) 4 0x0321 0 [(0, 16, 4095)],
      ⟨by decide +kernel, by decide +kernel⟩, (by decide +kernel), (by decide +kernel), (by decide +kernel), (by decide +kernel)⟩,
    ⟨4, 4095, mail (upO.modSlot 4095 fun x => { x with soid := some 9, busy := true }) 4 0x0321 0 [(0, 16, 4095)],
      ⟨by decide +kernel, by decide +kernel⟩, (by decide +kernel), (by decide +kernel), (by decide +kernel), (by decide +kernel)⟩,
    ⟨4, padTo [0, 0, 0x20] 640, mail (upT) 4 0x0401 0 [(0, 16, 4), (64, 48, 0x1000)],
      ⟨by decide +kernel, by decide +kernel⟩, (by decide +kernel), ⟨fun _ _ _ => rfl, by decide +kernel, by decide +kernel⟩, (by decide +kernel)⟩,
    ⟨4, task4, mail (upK) 4 0x0402 0 [(0, 16, 4)],
      ⟨by decide +kernel, by decide +kernel⟩, (by decide +kernel), (by decide +kernel)⟩,
    ⟨4, { task4 with suspended := true },
      mail ({ upK with grp := { upK.grp with tasks := [{ task4 with suspended := true }] } }) 4 0x0403 0 [(0, 16, 4)],
      ⟨by decide +kernel, by decide +kernel⟩, (by decide +kernel), (by decide +kernel)⟩,
    ⟨4, task4, mail (upK) 4 0x0404 0 [(0, 16, 4)],
      ⟨by decide +kernel, by decide +kernel⟩, (by decide +kernel)⟩,
    ⟨4, task4, mail ({ upT with grp := { upT.grp with tasks := [task4] } }) 4 0x0405 0 [(0, 16, 4)],
      ⟨by decide +kernel, by decide +kernel⟩, (by decide +kernel), (by decide +kernel)⟩,
    ⟨4, task4, mail (upK) 4 0x0405 0 [(0, 16, 4)],
      ⟨by decide +kernel, by decide +kernel⟩, (by decide +kernel), (by decide +kernel)⟩⟩

theorem test_w_HostWindowAccesses :
  (∃ (off : Nat) (be : BitVec 8) (_d : BitVec 64) (s : State),
    hostLive s = true ∧ off % 8 = 0 ∧ off < 0x20000 ∧ inCmdArea off = false ∧ beWhole be = true ∧ hostDefined off = true ∧
    (0x1000 ≤ off → off < 0xA000 → mbReached ((off - 0x1000) / 0x200) = true) ∧ hostReadOnly off = false ∧ hostAction true off be = false) ∧
  (∃ (_d : BitVec 64) (s : State),
    hostLive s = true) ∧
  (∃ (off : Nat) (be : BitVec 8) (_d : BitVec 64) (s : State),
    hostLive s = true ∧ off % 8 = 0 ∧ off < 0x20000 ∧ inCmdArea off = false ∧ beWhole be = false) ∧
  (∃ (off : Nat) (be : BitVec 8) (_d : BitVec 64) (s : State),
    hostLive s = true ∧ off % 8 = 0 ∧ off < 0x20000 ∧ inCmdArea off = false ∧ beWhole be = true ∧ hostDefined off = false) ∧
  (∃ (off : Nat) (be : BitVec 8) (_d : BitVec 64) (s : State),
    hostLive s = true ∧ off % 8 = 0 ∧ 0x1000 ≤ off ∧ off < 0xA000 ∧ inCmdArea off = false ∧ beWhole be = true ∧
    mbReached ((off - 0x1000) / 0x200) = false) ∧
  (∃ (off : Nat) (be : BitVec 8) (_d : BitVec 64) (s : State),
    hostLive s = true ∧ off % 8 = 0 ∧ off < 0x20000 ∧ inCmdArea off = false ∧ beWhole be = true ∧ hostReadOnly off = true ∧
    (0x1000 ≤ off → off < 0xA000 → mbReached ((off - 0x1000) / 0x200) = true)) ∧
  (∃ (off : Nat) (_be : BitVec 8) (_d : BitVec 64) (s : State),
    hostLive s = true ∧ off % 8 = 0 ∧ off < 0x20000 ∧ hostDefined off = true ∧ off ≠ 0x110) ∧
  (∃ (off : Nat) (_be : BitVec 8) (_d : BitVec 64) (s : State),
    hostLive s = true ∧ off % 8 = 0 ∧ off < 0x20000 ∧ hostDefined off = false) ∧
  (∃ (s : State),
    hostLive s = true ∧ s.tb < 2 ^ 64) ∧
  (∃ (x : BitVec 32) (s : State),
    hostLive s = true ∧ s.host.tbLatch = some x) ∧
  (∃ (s : State),
    hostLive s = true ∧ s.host.tbLatch = none) :=
    ⟨⟨0x130, 0xFF, 5, up,
      by decide +kernel⟩,
    ⟨0, up,
      by decide +kernel⟩,
    ⟨0x100, 0x03, 5, up,
      by decide +kernel⟩,
    ⟨0x0F8, 0xFF, 5, up,
      by decide +kernel⟩,
    ⟨0x9F00, 0xFF, 5, up,
      by decide +kernel⟩,
    ⟨0x000, 0xFF, 5, up,
      by decide +kernel⟩,
    ⟨0x130, 0xFF, 5, up,
      by decide +kernel⟩,
    ⟨0x0F8, 0xFF, 5, up,
      by decide +kernel⟩,
    ⟨{ (up) with tb := 2 ^ 64 - 1 },
      by decide +kernel⟩,
    ⟨5, { up with host := { up.host with tbLatch := some 5 } },
      by decide +kernel⟩,
    ⟨{ (up) with tb := 2 ^ 64 - 1 },
      by decide +kernel⟩⟩

theorem test_w_SlotsAndTheHostLeg :
  (∃ (n : Nat) (w : BitVec 64) (s : State),
    n < 4096 ∧ slotMay s n .arrive w) ∧
  (∃ (n : Nat) (w : BitVec 64) (s : State),
    n < 4096 ∧ slotMay s n .signal w) ∧
  (∃ (n : Nat) (w : BitVec 64) (s : State),
    n < 4096 ∧ slotMay s n .reset w) ∧
  (∃ (n : Nat) (w : BitVec 64) (s : State),
    n < 4096 ∧ slotMay s n .read w) ∧
  (∃ (n : Nat) (w : BitVec 64) (c : Instr × SoOpKind) (s : State),
    c ∈ [(Instr.slotArrive n w, SoOpKind.arrive), (.slotSignal n w, .signal), (.slotReset n w, .reset), (.slotRead n w, .read)] ∧ n < 4096 ∧
    hostLive s = true ∧ fld w 0 2 = soOpCode c.2 ∧ (s.slot n).soid = none) ∧
  (∃ (n : Nat) (w : BitVec 64) (c : Instr × SoOpKind) (s : State),
    c ∈ [(Instr.slotArrive n w, SoOpKind.arrive), (.slotSignal n w, .signal), (.slotReset n w, .reset), (.slotRead n w, .read)] ∧ n < 4096 ∧
    hostLive s = true ∧ fld w 0 2 = soOpCode c.2 ∧ (s.slot n).soid.isSome = true ∧ ((s.slot n).busy = true ∨ s.boot.level.code < 2)) ∧
  (∃ (n : Nat) (w : BitVec 64) (s : State),
    n < 4096 ∧ hostLive s = true ∧ fld w 0 2 = 0 ∧ (s.slot n).soid.isSome = true ∧ (s.slot n).busy = false ∧ 2 ≤ s.boot.level.code ∧
    (fld w 32 32 = 0 ∨ 65535 < fld w 32 32)) ∧
  (∃ (n i : Nat) (st : St) (s : State),
    n < 4096 ∧ (s.slot n).soid = some i ∧ (s.slot n).busy = true ∧ (s.slot n).next = some st ∧ (s.slot n).unmap = false) ∧
  (∃ (n i : Nat) (st : St) (s : State),
    n < 4096 ∧ (s.slot n).soid = some i ∧ (s.slot n).busy = true ∧ (s.slot n).next = some st ∧ (s.slot n).unmap = true) ∧
  (∃ (w : BitVec 64) (s : State),
    hostLive s = true ∧ hostCaneStatus s (fld w 0 6) = .ok) ∧
  (∃ (w : BitVec 64) (s : State),
    hostLive s = true ∧ hostCaneStatus s (fld w 0 6) ≠ .ok) :=
    ⟨⟨4095, 0x100000000, slotS,
      (by decide +kernel), (by unfold slotMay; decide +kernel)⟩,
    ⟨4095, 1, slotS,
      (by decide +kernel), (by unfold slotMay; decide +kernel)⟩,
    ⟨4095, 2, slotS,
      (by decide +kernel), (by unfold slotMay; decide +kernel)⟩,
    ⟨4095, 3, slotS,
      (by decide +kernel), (by unfold slotMay; decide +kernel)⟩,
    ⟨4095, 3, (.slotRead 4095 3, .read), up,
      by decide +kernel⟩,
    ⟨4095, 3, (.slotRead 4095 3, .read), slotS.modSlot 4095 fun x => { x with busy := true },
      by decide +kernel⟩,
    ⟨4095, 0x1000000000000, slotS,
      by decide +kernel⟩,
    ⟨4095, 9, .ok, slotS.modSlot 4095 fun x => { x with busy := true, next := some .ok },
      by decide +kernel⟩,
    ⟨4095, 9, .ok, slotS.modSlot 4095 fun x => { x with busy := true, next := some .ok, unmap := true },
      by decide +kernel⟩,
    ⟨3, upN.modCchan 3 fun c => { c with hostm := true },
      by decide +kernel⟩,
    ⟨3, upN,
      by decide +kernel⟩⟩

theorem test_w_MemoryResponsesReachTheirStep :
  (∃ (port tag : Nat) (_data : BitVec 1024) (r : MemReq) (s : State),
    port < 16 ∧ tag < 256 ∧ tagOf s port tag = some r ∧ r.op = 0) ∧
  (∃ (port tag : Nat) (_data : BitVec 1024) (r : MemReq) (s : State),
    port < 16 ∧ tag < 256 ∧ tagOf s port tag = some r ∧ r.op = 0 ∧ r.abandoned = false) ∧
  (∃ (port tag : Nat) (_data : BitVec 1024) (r : MemReq) (s : State),
    port < 16 ∧ tag < 256 ∧ tagOf s port tag = some r ∧ r.op = 0 ∧ r.abandoned = true ∧ (s.mport port).queue = []) ∧
  (∃ (port tag : Nat) (r : MemReq) (x : Sched) (q : Pass) (st : Step) (y : StepRun) (s : State),
    port < 16 ∧ tag < 256 ∧ tagOf s port tag = some r ∧ r.op = 1 ∧ r.abandoned = false ∧ r.step ≠ finStep ∧
    stepAt s r.sched r.pass r.step = some (x, q, st, y) ∧ needOf y r.chunk = some 1 ∧ st.kind ≠ kCOUNTX) ∧
  (∃ (port tag n : Nat) (r : MemReq) (x : Sched) (q : Pass) (st : Step) (y : StepRun) (s : State),
    port < 16 ∧ tag < 256 ∧ tagOf s port tag = some r ∧ r.op = 1 ∧ r.abandoned = false ∧ r.step ≠ finStep ∧
    stepAt s r.sched r.pass r.step = some (x, q, st, y) ∧ needOf y r.chunk = some (n + 2)) ∧
  (∃ (port tag : Nat) (r : MemReq) (s : State),
    port < 16 ∧ tag < 256 ∧ tagOf s port tag = some r ∧ r.op = 1 ∧ r.abandoned = false ∧ (s.mport port).queue = []) ∧
  (∃ (port tag : Nat) (r : MemReq) (x : Sched) (q : Pass) (st : Step) (y : StepRun) (s : State),
    port < 16 ∧ tag < 256 ∧ tagOf s port tag = some r ∧ r.op = 2 ∧ r.abandoned = false ∧ r.step ≠ finStep ∧
    stepAt s r.sched r.pass r.step = some (x, q, st, y) ∧ st.kind = kNOTE ∧ y.waits = 1) ∧
  (∃ (port tag : Nat) (r : MemReq) (s : State),
    port < 16 ∧ tag < 256 ∧ tagOf s port tag = some r ∧ r.abandoned = false ∧ r.step = finStep ∧ r.op = 1) ∧
  (∃ (port tag : Nat) (r : MemReq) (s : State),
    port < 16 ∧ tag < 256 ∧ tagOf s port tag = some r ∧ r.abandoned = false ∧ r.step = finStep ∧ r.op = 2) :=
    ⟨⟨15, 255, 5, rqm 0, withReq up (rqm 0),
      by decide +kernel⟩,
    ⟨15, 255, 5, rqm 0, withReq (upS [stLoad] [runLoad]) (rqm 0),
      by decide +kernel⟩,
    ⟨15, 255, 5, { rqm 0 with abandoned := true }, withReq up { rqm 0 with abandoned := true },
      by decide +kernel⟩,
    ⟨15, 255, rqm 1, (at0 (withReq (upS [stStore] [runStore]) (rqm 1))).1, (at0 (withReq (upS [stStore] [runStore]) (rqm 1))).2.1,
      (at0 (withReq (upS [stStore] [runStore]) (rqm 1))).2.2.1, (at0 (withReq (upS [stStore] [runStore]) (rqm 1))).2.2.2,
      withReq (upS [stStore] [runStore]) (rqm 1),
      by decide +kernel⟩,
    ⟨15, 255, 0, rqm 1, (at0 (withReq (upS [stStore] [{ runStore with need := [(0, 2)] }]) (rqm 1))).1,
      (at0 (withReq (upS [stStore] [{ runStore with need := [(0, 2)] }]) (rqm 1))).2.1,
      (at0 (withReq (upS [stStore] [{ runStore with need := [(0, 2)] }]) (rqm 1))).2.2.1,
      (at0 (withReq (upS [stStore] [{ runStore with need := [(0, 2)] }]) (rqm 1))).2.2.2,
      withReq (upS [stStore] [{ runStore with need := [(0, 2)] }]) (rqm 1),
      by decide +kernel⟩,
    ⟨15, 255, rqm 1, withReq (upS [stStore] [runStore]) (rqm 1),
      by decide +kernel⟩,
    ⟨15, 255, rqm 2, (at0 (withReq (upS [stNote] [runNote]) (rqm 2))).1, (at0 (withReq (upS [stNote] [runNote]) (rqm 2))).2.1,
      (at0 (withReq (upS [stNote] [runNote]) (rqm 2))).2.2.1, (at0 (withReq (upS [stNote] [runNote]) (rqm 2))).2.2.2,
      withReq (upS [stNote] [runNote]) (rqm 2),
      by decide +kernel⟩,
    ⟨15, 255, { rqm 1 with step := finStep }, withReq (upS [stNote] [over1]) { rqm 1 with step := finStep },
      by decide +kernel⟩,
    ⟨15, 255, { rqm 2 with step := finStep }, withReq (upS [stNote] [over1]) { rqm 2 with step := finStep },
      by decide +kernel⟩⟩

theorem test_w_TriggersStepsAndPasses :
  (∃ (soid k n i : Nat) (lost : Bool) (rest : List (Nat × Nat × Bool)) (x : Sched) (st : Step) (s : State),
    s.sync.trig = (soid, k, lost) :: rest ∧ tabWf none s.mrv.scheds = true ∧ s.sched n = some x ∧ x.steps[i]? = some st ∧ st.tv = true ∧
    st.trig = soid ∧ takesNotice s x i = true ∧ i < x.pend.length) ∧
  (∃ (soid k : Nat) (lost : Bool) (rest : List (Nat × Nat × Bool)) (s : State),
    s.sync.trig = (soid, k, lost) :: rest) ∧
  (∃ (n p i : Nat) (x : Sched) (q : Pass) (st : Step) (y : StepRun) (s : State),
    n < 512 ∧ 0 < i ∧ i < 128 ∧ s.stopped = false ∧ canStart s n p i = true ∧ stepAt s n p i = some (x, q, st, y)) ∧
  (∃ (n p : Nat) (x : Sched) (q : Pass) (st : Step) (y : StepRun) (s : State),
    n < 512 ∧ s.stopped = false ∧ canStart s n p 0 = true ∧ stepAt s n p 0 = some (x, q, st, y) ∧ x.hdr.spp = false) ∧
  (∃ (n p : Nat) (x : Sched) (q : Pass) (st : Step) (y : StepRun) (s : State) (v : Int),
    n < 512 ∧ s.stopped = false ∧ canStart s n p 0 = true ∧ stepAt s n p 0 = some (x, q, st, y) ∧ x.hdr.spp = true ∧
    scaleFor (s.group x.hdr.gid) (passSpcid x p) = some v) ∧
  (∃ (n p : Nat) (x : Sched) (q : Pass) (st : Step) (y : StepRun) (s : State),
    n < 512 ∧ s.stopped = false ∧ canStart s n p 0 = true ∧ stepAt s n p 0 = some (x, q, st, y) ∧ x.hdr.spp = true ∧
    scaleFor (s.group x.hdr.gid) (passSpcid x p) = none) ∧
  (∃ (n p i : Nat) (s : State),
    n < 512 ∧ i < 128 ∧ (s.stopped = true ∨ canStart s n p i = false)) ∧
  (∃ (n : Nat) (x : Sched) (q : Pass) (s : State),
    n < 512 ∧ (admitAll s).stopped = false ∧ (admitAll s).sched n = some x ∧ (x.passes.find? fun z => canStart (admitAll s) n z.p 0) = some q) ∧
  (∃ (n : Nat) (x : Sched) (s : State),
    n < 512 ∧ s.sched n = some x) ∧
  (∃ (n p i : Nat) (x : Sched) (q : Pass) (st : Step) (y : StepRun) (s : State),
    n < 512 ∧ i < 128 ∧ s.stopped = false ∧ stepAt (workSched s n) n p i = some (x, q, st, y) ∧ passLive (workSched s n) x q = true ∧
    stepFinished st y = true ∧ (isEarly ((workSched s n).group x.hdr.gid) = false ∨ i + 1 ≠ q.desc.length)) ∧
  (∃ (n p i : Nat) (x : Sched) (q : Pass) (st : Step) (y : StepRun) (s : State),
    n < 512 ∧ i < 128 ∧ s.stopped = false ∧ stepAt (workSched s n) n p i = some (x, q, st, y) ∧ passLive (workSched s n) x q = true ∧
    stepFinished st y = true ∧ isEarly ((workSched s n).group x.hdr.gid) = true ∧ i + 1 = q.desc.length ∧ q.committed = false) ∧
  (∃ (n p : Nat) (x : Sched) (q : Pass) (s : State),
    n < 512 ∧ s.stopped = false ∧ s.sched n = some x ∧ s.pass n p = some q ∧ passOver s x q = true) :=
    ⟨⟨9, 1, 0, 0, false, [], (at0 (trigS)).1, (at0 (trigS)).2.2.1, trigS,
      by decide +kernel⟩,
    ⟨9, 1, true, [], { upO with sync := { upO.sync with trig := [(9, 1, true)] } },
      by decide +kernel⟩,
    ⟨0, 0, 1, (at0 (upS [stNote, stNote] [{ started := true }, {}])).1, (at0 (upS [stNote, stNote] [{ started := true }, {}])).2.1, stNote,
      {}, upS [stNote, stNote] [{ started := true }, {}],
      by decide +kernel⟩,
    ⟨0, 0, (at0 (upS [stNote] [{}])).1, (at0 (upS [stNote] [{}])).2.1, (at0 (upS [stNote] [{}])).2.2.1, (at0 (upS [stNote] [{}])).2.2.2,
      upS [stNote] [{}],
      by decide +kernel⟩,
    ⟨0, 0, (at0 upV1).1, (at0 upV1).2.1, (at0 upV1).2.2.1, (at0 upV1).2.2.2, upV1, 9,
      by decide +kernel⟩,
    ⟨0, 0, (at0 (upV.modGroup 3 fun g => { g with scaleGone := [5] })).1, (at0 (upV.modGroup 3 fun g => { g with scaleGone := [5] })).2.1,
      (at0 (upV.modGroup 3 fun g => { g with scaleGone := [5] })).2.2.1, (at0 (upV.modGroup 3 fun g => { g with scaleGone := [5] })).2.2.2,
      upV.modGroup 3 fun g => { g with scaleGone := [5] },
      by decide +kernel⟩,
    ⟨0, 0, 0, upS [stNote] [{ started := true }],
      by decide +kernel⟩,
    ⟨0, ((admitAll (upS [stNote] [{}])).sched 0).getD sched0, ((admitAll (upS [stNote] [{}])).pass 0 0).getD (pass1 [] []), upS [stNote] [{}],
      by decide +kernel⟩,
    ⟨0, sched1 [stNote] [{}], { (upS [stNote] [{}]) with tb := 100000 },
      by decide +kernel⟩,
    ⟨0, 0, 0, (at0 (workSched (upS [stStore] [wrote]) 0)).1, (at0 (workSched (upS [stStore] [wrote]) 0)).2.1,
      (at0 (workSched (upS [stStore] [wrote]) 0)).2.2.1, (at0 (workSched (upS [stStore] [wrote]) 0)).2.2.2, upS [stStore] [wrote],
      by decide +kernel⟩,
    ⟨0, 0, 0, (at0 (workSched ((upS [stStore] [wrote]).modGroup 3 fun g => { g with chips := [0, 1], dmode := true }) 0)).1,
      (at0 (workSched ((upS [stStore] [wrote]).modGroup 3 fun g => { g with chips := [0, 1], dmode := true }) 0)).2.1,
      (at0 (workSched ((upS [stStore] [wrote]).modGroup 3 fun g => { g with chips := [0, 1], dmode := true }) 0)).2.2.1,
      (at0 (workSched ((upS [stStore] [wrote]).modGroup 3 fun g => { g with chips := [0, 1], dmode := true }) 0)).2.2.2,
      (upS [stStore] [wrote]).modGroup 3 fun g => { g with chips := [0, 1], dmode := true },
      by decide +kernel⟩,
    ⟨0, 0, (at0 (upS [stStore] [over1])).1, (at0 (upS [stStore] [over1])).2.1, upS [stStore] [over1],
      by decide +kernel⟩⟩

theorem test_w_SlicesTakePieces :
  (∃ (i : Nat) (c : Piece) (s : State),
    i < 16 ∧ s.stopped = false ∧ s.boot.brake = false ∧ freeSlice s i = true ∧ (s.sliceOf i).powered = true ∧ redoPiece s i = none ∧
    (robin s).findSome? (schedPiece s) = some c) ∧
  (∃ (i : Nat) (c : Piece) (k : Nat) (r : List (Piece × Nat)) (s : State),
    i < 16 ∧ s.stopped = false ∧ s.boot.brake = false ∧ freeSlice s i = true ∧ (s.sliceOf i).powered = true ∧
    redoPiece s i = some ((c, k), r)) ∧
  (∃ (i : Nat) (s : State),
    i < 16 ∧ s.stopped = false ∧ s.boot.brake = false ∧ freeSlice s i = true ∧
    (∀ k < 16, freeSlice s k = true → (s.sliceOf k).powered = false ∧ i ≤ k) ∧ pieceWaits s i = true) ∧
  (∃ (i : Nat) (s : State),
    i < 16 ∧ (s.stopped = true ∨ s.boot.brake = true ∨ freeSlice s i = false)) ∧
  (∃ (i : Nat) (c : Piece) (x : Sched) (q : Pass) (st : Step) (y : StepRun) (s : State),
    i < 16 ∧ (s.sliceOf i).piece = some c ∧ stepAt s c.sched c.pass c.step = some (x, q, st, y)) ∧
  (∃ (i : Nat) (c : Piece) (s : State),
    i < 16 ∧ (s.sliceOf i).piece = some c) ∧
  (∃ (i : Nat) (s : State),
    i < 16 ∧ freeSlice s i = true ∧ (s.sliceOf i).lastTake + 10000 ≤ s.tb) ∧
  (∃ (i : Nat) (s : State),
    i < 16 ∧ (freeSlice s i = false ∨ s.tb < (s.sliceOf i).lastTake + 10000)) ∧
  (∃ (i : Nat) (s : State),
    i < 16 ∧ (s.sliceOf i).asked = true) :=
    ⟨⟨15, piece1, upP,
      by decide +kernel⟩,
    ⟨15, piece1, 3, [], { upP with mrv := { upP.mrv with redo := [(piece1, 3)] } },
      by decide +kernel⟩,
    ⟨0, { upP with mrv := { upP.mrv with slices := (List.range 16).map fun k => (k, { powered := false }) } },
      by decide +kernel⟩,
    ⟨15, (upP).modSlice 15 fun x => { x with retired := true },
      by decide +kernel⟩,
    ⟨15, piece1, (at0 ((upP).modSlice 15 fun x => { x with piece := some piece1 })).1,
      (at0 ((upP).modSlice 15 fun x => { x with piece := some piece1 })).2.1,
      (at0 ((upP).modSlice 15 fun x => { x with piece := some piece1 })).2.2.1,
      (at0 ((upP).modSlice 15 fun x => { x with piece := some piece1 })).2.2.2, (upP).modSlice 15 fun x => { x with piece := some piece1 },
      by decide +kernel⟩,
    ⟨15, piece1, (upP).modSlice 15 fun x => { x with piece := some piece1 },
      by decide +kernel⟩,
    ⟨15, { (up) with tb := 10000 },
      by decide +kernel⟩,
    ⟨15, { (up) with tb := 9999 },
      by decide +kernel⟩,
    ⟨15, (up).modSlice 15 fun x => { x with asked := true, powered := false },
      by decide +kernel⟩⟩

theorem test_w_LinkPortsUpAndDown :
  (∃ (p : Nat) (s : State),
    p < 6 ∧ (s.lport p).up = false ∧ (s.lport p).rst = false) ∧
  (∃ (p : Nat) (s : State),
    p < 6 ∧ (s.lport p).up = true) ∧
  (∃ (p : Nat) (vcb : Bool) (h _flit : BitVec 512) (s : State),
    p < 6 ∧ (s.lport p).up = true ∧ ((s.lport p).cls vcb).hd = some h) :=
    ⟨⟨5, up.modLport 5 fun l => { l with rst := false },
      by decide +kernel⟩,
    ⟨5, (up).modLport 5 fun l => { l with up := true, rst := false },
      by decide +kernel⟩,
    ⟨1, false, hd1, 9, landed up,
      by decide +kernel⟩⟩

theorem test_w_PacketsAndControlFlitsAreJudged :
  (∃ (p : Nat) (vcb : Bool) (h tail : BitVec 512) (s : State),
    p < 6 ∧ (s.lport p).up = true ∧ ((s.lport p).cls vcb).hd = some h ∧ crcOk h tail ((s.lport p).cls vcb).buf = true ∧
    hLpsn h = ((s.lport p).cls vcb).nextRx ∧ (((s.lport p).cls vcb).nakWait = false ∨ hRply h = true)) ∧
  (∃ (_p g _units : Nat) (vcb : Bool) (h tail : BitVec 512) (data : List Byte) (_early : List (Nat × Nat × Nat × Nat)) (s : State),
    shapeOk h tail data = true ∧ hDst h = s.self ∧ tagCheck s (hTag h) (hSrc h) = some g ∧ isDelivery vcb h = false ∧
    packetWanted s g h = true ∧ (vcb = true → hDmode h = (s.group g).dmode)) ∧
  (∃ (_p g _units : Nat) (h tail : BitVec 512) (data : List Byte) (_early : List (Nat × Nat × Nat × Nat)) (s : State),
    shapeOk h tail data = true ∧ hDst h = s.self ∧ tagCheck s (hTag h) (hSrc h) = some g ∧ packetWanted s g h = true ∧
    hDmode h ≠ (s.group g).dmode) ∧
  (∃ (_p _units : Nat) (_vcb : Bool) (h tail : BitVec 512) (data : List Byte) (_early : List (Nat × Nat × Nat × Nat)) (s : State),
    shapeOk h tail data = true ∧ hDst h = s.self ∧ tagCheck s (hTag h) (hSrc h) = none) ∧
  (∃ (_p _units : Nat) (_vcb : Bool) (h tail : BitVec 512) (data : List Byte) (_early : List (Nat × Nat × Nat × Nat)) (s : State),
    shapeOk h tail data = true ∧ hDst h ≠ s.self ∧ hHops h ≤ 1) ∧
  (∃ (_p _units : Nat) (vcb : Bool) (h tail : BitVec 512) (data : List Byte) (_early : List (Nat × Nat × Nat × Nat)) (s : State) (o : Nat),
    shapeOk h tail data = true ∧ hDst h ≠ s.self ∧ 1 < hHops h ∧ s.routePort (hDst h) vcb (hCseq h).toNat = some o) ∧
  (∃ (_p _units : Nat) (_vcb : Bool) (h tail : BitVec 512) (data : List Byte) (_early : List (Nat × Nat × Nat × Nat)) (s : State) (g : Nat),
    shapeOk h tail data = false ∧ findTag s (hTag h) = some g) ∧
  (∃ (p : Nat) (vcb : Bool) (h tail : BitVec 512) (s : State),
    p < 6 ∧ (s.lport p).up = true ∧ ((s.lport p).cls vcb).hd = some h ∧ crcOk h tail ((s.lport p).cls vcb).buf = false ∧
    ((s.lport p).cls vcb).early = []) ∧
  (∃ (p g : Nat) (h tail : BitVec 512) (s : State),
    p < 6 ∧ (s.lport p).up = true ∧ (s.lport p).vcb.hd = some h ∧ crcOk h tail (s.lport p).vcb.buf = false ∧ (s.lport p).vcb.early ≠ [] ∧
    findTag s (hTag h) = some g ∧ packetWanted s g h = true) ∧
  (∃ (p : Nat) (vcb : Bool) (f : BitVec 512) (s : State),
    p < 6 ∧ (s.lport p).up = true ∧ fld f 480 32 = (ctrlCrc f).toNat ∧
    cKind f ∈ [ckToken, ckSoOp, ckSoRefuse, ckHandshake, ckPoison, ckAbort] ∧ (cKind f = ckToken ∨ cDst f = s.self) ∧
    (tagCheck s (cTag f) (cSrc f)).isSome = true ∧ cLpsn f = ((s.lport p).cls vcb).nextRx) ∧
  (∃ (p : Nat) (_vcb : Bool) (f : BitVec 512) (s : State),
    p < 6 ∧ (s.lport p).up = true ∧ fld f 480 32 = (ctrlCrc f).toNat ∧ cKind f ∈ [ckAck, ckNak, ckCredit]) ∧
  (∃ (p : Nat) (vcb : Bool) (f : BitVec 512) (s : State),
    p < 6 ∧ (s.lport p).up = true ∧ fld f 480 32 = (ctrlCrc f).toNat ∧
    cKind f ∈ [ckToken, ckSoOp, ckSoRefuse, ckHandshake, ckPoison, ckAbort] ∧ ((s.lport p).cls vcb).nakWait = false ∧
    32768 < (((s.lport p).cls vcb).nextRx - cLpsn f).toNat) ∧
  (∃ (p : Nat) (_vcb : Bool) (f : BitVec 512) (s : State),
    p < 6 ∧ (s.lport p).up = true ∧ fld f 480 32 ≠ (ctrlCrc f).toNat) :=
    ⟨⟨1, false, hd1, tl1, landed upY,
      (by decide +kernel), (by decide +kernel), (by decide +kernel), (by unfold crcOk; rw [headCrc_hd1 _ (by decide +kernel)]; decide +kernel),
      (by decide +kernel), (by decide +kernel)⟩,
    ⟨1, 3, 1, false, hd1, tl1, data1, [], upY,
      by decide +kernel⟩,
    ⟨1, 3, 1, hd1, tl1, data1, [], upY.modGroup 3 fun g => { g with dmode := true },
      by decide +kernel⟩,
    ⟨1, 1, false, hd1, tl1, data1, [], upG,
      by decide +kernel⟩,
    ⟨1, 1, false, hd3 1, tl1, data1, [], upY,
      by decide +kernel⟩,
    ⟨1, 1, false, hd3 2, tl1, data1, [], upZ, (upZ.routePort 3 false 0).getD 0,
      by decide +kernel⟩,
    ⟨1, 1, false, hd1, tl1, [], [], upY, 3,
      by decide +kernel⟩,
    ⟨1, false, hd1, 0, landed upY,
      (by decide +kernel), (by decide +kernel), (by decide +kernel), (by unfold crcOk; rw [headCrc_hd1 _ (by decide +kernel)]; decide +kernel),
      (by decide +kernel)⟩,
    ⟨1, 3, hd1, 0,
      upY.modLport 1 fun l => { l with up := true, rst := false, vcb := { l.vcb with hd := some hd1, buf := data1, early := [(0, 0, 0, 0)] } },
      (by decide +kernel), (by decide +kernel), (by decide +kernel), (by unfold crcOk; rw [headCrc_hd1 _ (by decide +kernel)]; decide +kernel),
      (by decide +kernel), (by decide +kernel), (by decide +kernel)⟩,
    ⟨5, false, crcd (flit ckSoOp 1 0 []), (upY).modLport 5 fun l => { l with up := true, rst := false },
      by decide +kernel⟩,
    ⟨5, false, crcd (flit ckAck 1 0 []), (up).modLport 5 fun l => { l with up := true, rst := false },
      by decide +kernel⟩,
    ⟨5, false, crcd (flit ckSoOp 1 0 [(72, 16, 32767)]), (upY).modLport 5 fun l => { l with up := true, rst := false },
      by decide +kernel⟩,
    ⟨5, false, flit ckSoOp 1 0 [], (upY).modLport 5 fun l => { l with up := true, rst := false },
      by decide +kernel⟩⟩

theorem test_w_AcknowledgementsAndCredits :
  (∃ (p : Nat) (f : BitVec 512) (u s : State),
    p < 6 ∧ takeCtrl s p ckAck = some (f, u)) ∧
  (∃ (p : Nat) (f : BitVec 512) (u s : State),
    p < 6 ∧ takeCtrl s p ckNak = some (f, u)) ∧
  (∃ (p : Nat) (f : BitVec 512) (u s : State),
    p < 6 ∧ takeCtrl s p ckCredit = some (f, u)) ∧
  (∃ (p : Nat) (vcb : Bool) (x : TxItem) (k : BitVec 16) (a r : List TxItem) (s : State),
    p < 6 ∧ ((s.lport p).cls vcb).retain = a ++ x :: r ∧ (∀ y ∈ a, s.tb < y.tsent + 10000) ∧ x.lpsn = some k ∧
    ((s.lport p).cls vcb).curN ≠ some k ∧ ((s.lport p).cls vcb).again.contains k = false ∧ x.tsent + 10000 ≤ s.tb) ∧
  (∃ (p : Nat) (vcb : Bool) (s : State),
    p < 6 ∧ (∀ x ∈ ((s.lport p).cls vcb).retain, s.tb < x.tsent + 10000)) ∧
  (∃ (p : Nat) (vcb : Bool) (s : State),
    p < 6 ∧ 0 < ((s.lport p).cls vcb).rxUsed ∧ ((s.lport p).cls vcb).credAt + 10000 ≤ s.tb) ∧
  (∃ (p : Nat) (vcb : Bool) (s : State),
    p < 6 ∧ (((s.lport p).cls vcb).rxUsed = 0 ∨ s.tb < ((s.lport p).cls vcb).credAt + 10000)) :=
    ⟨⟨1, (tk (inbox up [flit ckAck 1 0 []]) ckAck).1, (tk (inbox up [flit ckAck 1 0 []]) ckAck).2, inbox up [flit ckAck 1 0 []],
      by decide +kernel⟩,
    ⟨1, (tk (inbox up [flit ckNak 1 0 []]) ckNak).1, (tk (inbox up [flit ckNak 1 0 []]) ckNak).2, inbox up [flit ckNak 1 0 []],
      by decide +kernel⟩,
    ⟨1, (tk (inbox up [flit ckCredit 1 0 []]) ckCredit).1, (tk (inbox up [flit ckCredit 1 0 []]) ckCredit).2, inbox up [flit ckCredit 1 0 []],
      by decide +kernel⟩,
    ⟨5, false, kept, 0, [], [],
      { ((up).modLport 5 fun l => { l with up := true, rst := false, vcu := { l.vcu with retain := [kept] } }) with tb := 10000 },
      by decide +kernel⟩,
    ⟨5, true, up,
      by decide +kernel⟩,
    ⟨5, true, { ((up).modLport 5 fun l => { l with up := true, rst := false, vcb := { l.vcb with rxUsed := 1 } }) with tb := 10000 },
      by decide +kernel⟩,
    ⟨5, true, { ((up).modLport 5 fun l => { l with up := true, rst := false, vcb := { l.vcb with rxUsed := 1 } }) with tb := 9999 },
      by decide +kernel⟩⟩

theorem test_w_EarlyDelivery :
  (∃ (p g : Nat) (k : Packet) (u s : State),
    p < 6 ∧ s.stopped = false ∧ takeDelivery s p dkDone = some (k, u) ∧ deliveryGroup u k = some g) ∧
  (∃ (p g n : Nat) (q : Pass) (k : Packet) (u s : State),
    p < 6 ∧ s.stopped = false ∧ takeDelivery s p dkCommit = some (k, u) ∧ deliveryGroup u k = some g ∧
    passOf u g (hCid k.head) = some (n, q) ∧ q.committed = false ∧ q.doneSent = true) ∧
  (∃ (p g : Nat) (f : BitVec 512) (u s : State),
    p < 6 ∧ s.stopped = false ∧ takeCtrl s p ckPoison = some (f, u) ∧ findTag u (cTag f) = some g ∧ abortable (s.group g) = true ∧
    (s.group g).epoch.toNat = fld f 128 16 ∧ ncore (s.group g) ≠ 0) ∧
  (∃ (p g : Nat) (f : BitVec 512) (u s : State),
    p < 6 ∧ s.stopped = false ∧ takeCtrl s p ckPoison = some (f, u) ∧ findTag u (cTag f) = some g ∧ abortable (s.group g) = true ∧
    (s.group g).epoch.toNat = fld f 128 16 ∧ ncore (s.group g) = 0) ∧
  (∃ (p g : Nat) (f : BitVec 512) (u s : State),
    p < 6 ∧ s.stopped = false ∧ takeCtrl s p ckPoison = some (f, u) ∧ findTag u (cTag f) = some g ∧ abortable (s.group g) = true ∧
    (s.group g).epoch = BitVec.ofNat 16 (fld f 128 16) + 1) ∧
  (∃ (g : Nat) (w : PoisonWork) (s : State),
    g < 4096 ∧ s.stopped = false ∧ (s.group g).pwork = some w ∧ w.quiesced = false ∧ dieHoldsUp s g = false ∧ member0 (s.group g) ≠ s.self ∧
    tabWf none s.fab.masks = true) ∧
  (∃ (p g : Nat) (w : PoisonWork) (k : Packet) (u s : State),
    p < 6 ∧ s.stopped = false ∧ takeDelivery s p dkBumped = some (k, u) ∧ deliveryGroup u k = some g ∧ (s.group g).pwork = some w ∧
    (w.quiesced = false ∨ ∃ c ∈ (s.group g).chips, c ≠ s.self ∧ c ≠ hSrc k.head ∧ c ∉ w.got)) ∧
  (∃ (p g : Nat) (w : PoisonWork) (k : Packet) (u s : State),
    p < 6 ∧ s.stopped = false ∧ takeDelivery s p dkBumped = some (k, u) ∧ deliveryGroup u k = some g ∧ (s.group g).pwork = some w ∧
    w.quiesced = true ∧ member0 (s.group g) = s.self ∧ (∀ c ∈ (s.group g).chips, c = s.self ∨ c = hSrc k.head ∨ c ∈ w.got)) ∧
  (∃ (p g : Nat) (w : PoisonWork) (k : Packet) (u s : State),
    p < 6 ∧ s.stopped = false ∧ takeDelivery s p dkGo = some (k, u) ∧ deliveryGroup u k = some g ∧ (s.group g).pwork = some w ∧
    w.epoch.toNat = leAt k.data 4 2) ∧
  (∃ (p g : Nat) (w : PoisonWork) (k : Packet) (u s : State),
    p < 6 ∧ s.stopped = false ∧ takeDelivery s p dkGo = some (k, u) ∧ deliveryGroup u k = some g ∧ (s.group g).pwork = some w ∧
    w.epoch.toNat = leAt k.data 4 2 ∧ idleMarver s ∧ (s.group g).colls = []) ∧
  (∃ (g : Nat) (w : PoisonWork) (s : State),
    g < 4096 ∧ (s.group g).pwork = some w ∧ w.since + 8 * (s.group g).stall * 1024 ≤ s.tb) ∧
  (∃ (g : Nat) (w : PoisonWork) (s : State),
    g < 4096 ∧ (s.group g).pwork = some w ∧ s.tb < w.since + 8 * (s.group g).stall * 1024) :=
    ⟨⟨1, 3, (td (ctl upY [dpk dkDone []]) dkDone).1, (td (ctl upY [dpk dkDone []]) dkDone).2, ctl upY [dpk dkDone []],
      by decide +kernel⟩,
    ⟨1, 3, 0, { pass1 [stNote] [{ started := true }] with doneSent := true }, (td (ctl upE [dpk dkCommit []]) dkCommit).1,
      (td (ctl upE [dpk dkCommit []]) dkCommit).2, ctl upE [dpk dkCommit []],
      by decide +kernel⟩,
    ⟨1, 3, (tk (inbox (upY.modGroup 3 fun g => { g with dmode := true }) [flit ckPoison 1 0 [(128, 16, 5)]]) ckPoison).1,
      (tk (inbox (upY.modGroup 3 fun g => { g with dmode := true }) [flit ckPoison 1 0 [(128, 16, 5)]]) ckPoison).2,
      inbox (upY.modGroup 3 fun g => { g with dmode := true }) [flit ckPoison 1 0 [(128, 16, 5)]],
      by decide +kernel⟩,
    ⟨1, 3, (tk (inbox (upY.modGroup 3 fun g => { g with dmode := true, cores := 0 }) [flit ckPoison 1 0 [(128, 16, 5)]]) ckPoison).1,
      (tk (inbox (upY.modGroup 3 fun g => { g with dmode := true, cores := 0 }) [flit ckPoison 1 0 [(128, 16, 5)]]) ckPoison).2,
      inbox (upY.modGroup 3 fun g => { g with dmode := true, cores := 0 }) [flit ckPoison 1 0 [(128, 16, 5)]],
      by decide +kernel⟩,
    ⟨1, 3, (tk (inbox (upY.modGroup 3 fun g => { g with dmode := true }) [flit ckPoison 1 0 [(128, 16, 4)]]) ckPoison).1,
      (tk (inbox (upY.modGroup 3 fun g => { g with dmode := true }) [flit ckPoison 1 0 [(128, 16, 4)]]) ckPoison).2,
      inbox (upY.modGroup 3 fun g => { g with dmode := true }) [flit ckPoison 1 0 [(128, 16, 4)]],
      by decide +kernel⟩,
    ⟨3, work1, upW work1 1,
      by decide +kernel⟩,
    ⟨1, 3, work1, (td (ctl (upW work1 0) [dpk dkBumped [0, 0, 0, 6]]) dkBumped).1,
      (td (ctl (upW work1 0) [dpk dkBumped [0, 0, 0, 6]]) dkBumped).2, ctl (upW work1 0) [dpk dkBumped [0, 0, 0, 6]],
      by decide +kernel⟩,
    ⟨1, 3, { work1 with quiesced := true }, (td (ctl (upW { work1 with quiesced := true } 0) [dpk dkBumped [0, 0, 0, 6]]) dkBumped).1,
      (td (ctl (upW { work1 with quiesced := true } 0) [dpk dkBumped [0, 0, 0, 6]]) dkBumped).2,
      ctl (upW { work1 with quiesced := true } 0) [dpk dkBumped [0, 0, 0, 6]],
      by decide +kernel⟩,
    ⟨1, 3, work1, (td (ctl (upW work1 1) [dpk dkGo [0, 0, 0, 6]]) dkGo).1, (td (ctl (upW work1 1) [dpk dkGo [0, 0, 0, 6]]) dkGo).2,
      ctl (upW work1 1) [dpk dkGo [0, 0, 0, 6]],
      by decide +kernel⟩,
    ⟨1, 3, work1, (td (ctl (upW work1 1) [dpk dkGo [0, 0, 0, 6]]) dkGo).1, (td (ctl (upW work1 1) [dpk dkGo [0, 0, 0, 6]]) dkGo).2,
      ctl (upW work1 1) [dpk dkGo [0, 0, 0, 6]],
      (by decide +kernel), (by decide +kernel), (by decide +kernel), (by decide +kernel), (by decide +kernel), (by decide +kernel),
      ⟨by decide +kernel, by decide +kernel⟩, (by decide +kernel)⟩,
    ⟨3, work1, { (upW work1 1) with tb := 8192000 },
      by decide +kernel⟩,
    ⟨3, work1, { (upW work1 1) with tb := 8191999 },
      by decide +kernel⟩⟩

theorem test_w_FaultsAreReported :
  (∃ (e : Event) (s : State),
    s.flt.synd = [e] ∧ isPolled s e = false ∧ e.cls ≤ 1 ∧ s.flt.frozen = false ∧ s.flt.fcount = none ∧
    (∀ x r, s.flt.ring = x :: r → mergesInto s e x = false)) ∧
  (∃ (e : Event) (s : State),
    s.flt.synd = [e] ∧ isPolled s e = false ∧ e.cls ≤ 1 ∧ s.flt.frozen = true) ∧
  (∃ (e : Event) (s : State),
    s.flt.synd = [e] ∧ isPolled s e = false ∧ s.flt.frozen = false ∧ 3 ≤ e.cls ∧ s.flt.fcount = none) ∧
  (∃ (e : Event) (k : Nat) (s : State),
    s.flt.synd = [e] ∧ isPolled s e = false ∧ s.flt.frozen = false ∧ s.flt.fcount = some k ∧
    (∀ x r, s.flt.ring = x :: r → mergesInto s e x = false)) ∧
  (∃ (e : Event) (s : State),
    s.flt.synd = [e] ∧ isPolled s e = false) ∧
  (∃ (k i : Nat) (s : State),
    (k, i) ∉ s.flt.polled) ∧
  (∃ (k i : Nat) (s : State),
    (k, i) ∈ s.flt.polled) :=
    ⟨⟨ev1, synd ev1,
      (by decide +kernel), (by decide +kernel), (by decide +kernel), (by decide +kernel), (by decide +kernel), (fun _ _ h => nomatch h)⟩,
    ⟨ev1, (let s := synd ev1; { s with flt := { s.flt with frozen := true } }),
      by decide +kernel⟩,
    ⟨ev3, synd ev3,
      by decide +kernel⟩,
    ⟨ev1, 1, (let s := synd ev1; { s with flt := { s.flt with fcount := some 1 } }),
      (by decide +kernel), (by decide +kernel), (by decide +kernel), (by decide +kernel), (fun _ _ h => nomatch h)⟩,
    ⟨ev3, synd ev3,
      by decide +kernel⟩,
    ⟨1, 5, up,
      by decide +kernel⟩,
    ⟨1, 5, (let s := synd ev1; { s with flt := { s.flt with polled := [(1, 5)] } }),
      by decide +kernel⟩⟩

theorem test_w_EscalationAndAborts :
  (∃ (n : Nat) (b : Bool) (_s : State),
    n < 75 ∧ (n ≠ 0 ∨ b = false)) ∧
  (∃ (i : Nat) (x : C2Timer) (s : State),
    (s.flt.timers.find? fun y => timerOf i y && decide (y.start + 1000 * y.tesc ≤ s.tb)) = some x) ∧
  (∃ (i : Nat) (s : State),
    (∀ y ∈ s.flt.timers, timerOf i y = true → s.tb < y.start + 1000 * y.tesc)) ∧
  (∃ (a b : Nat) (s : State),
    s.flt.c3timer = some (a, b) ∧ a + 1000 * b ≤ s.tb) ∧
  (∃ (s : State),
    (∀ a b, s.flt.c3timer = some (a, b) → s.tb < a + 1000 * b)) ∧
  (∃ (p g : Nat) (f : BitVec 512) (u s : State),
    p < 6 ∧ takeCtrl s p ckAbort = some (f, u) ∧ findTag s (cTag f) = some g ∧ (s.group g).epoch.toNat = fld f 128 16 ∧
    abortable (s.group g) = true) ∧
  (∃ (p g : Nat) (f : BitVec 512) (u s : State),
    p < 6 ∧ takeCtrl s p ckAbort = some (f, u) ∧ findTag s (cTag f) = some g ∧
    ((s.group g).epoch.toNat ≠ fld f 128 16 ∨ abortable (s.group g) = false)) ∧
  (∃ (p : Nat) (s : State),
    p < 6 ∧ takeCtrl s p ckAbort = none) ∧
  (∃ (g : Nat) (s : State),
    g < 4096 ∧ s.flt.bstop = false ∧ (s.group g).st = .aborted ∧ cleanupOver s g = true) ∧
  (∃ (g : Nat) (s : State),
    g < 4096 ∧ (s.flt.bstop = true ∨ (s.group g).st ≠ .aborted ∨ cleanupOver s g = false)) :=
    ⟨⟨74, true, up,
      by decide +kernel⟩,
    ⟨3, tm2, { ({ upC with flt := { upC.flt with timers := [tm2] } }) with tb := 2000000 },
      by decide +kernel⟩,
    ⟨3, { ({ upC with flt := { upC.flt with timers := [tm2] } }) with tb := 1999999 },
      by decide +kernel⟩,
    ⟨0, 2000, { ({ up with flt := { up.flt with c3timer := some (0, 2000) } }) with tb := 2000000 },
      by decide +kernel⟩,
    ⟨{ ({ up with flt := { up.flt with c3timer := some (0, 2000) } }) with tb := 1999999 },
      (fun _ _ h => by cases h; decide +kernel)⟩,
    ⟨1, 3, (tk (inbox upY [flit ckAbort 1 0 [(128, 16, 5)]]) ckAbort).1, (tk (inbox upY [flit ckAbort 1 0 [(128, 16, 5)]]) ckAbort).2,
      inbox upY [flit ckAbort 1 0 [(128, 16, 5)]],
      by decide +kernel⟩,
    ⟨1, 3, (tk (inbox upY [flit ckAbort 1 0 [(128, 16, 4)]]) ckAbort).1, (tk (inbox upY [flit ckAbort 1 0 [(128, 16, 4)]]) ckAbort).2,
      inbox upY [flit ckAbort 1 0 [(128, 16, 4)]],
      by decide +kernel⟩,
    ⟨5, up,
      by decide +kernel⟩,
    ⟨3, (upG).modGroup 3 fun g => { g with st := .aborted, cleanup := true },
      by decide +kernel⟩,
    ⟨3, upG,
      by decide +kernel⟩⟩

theorem test_w_ErrorsInArraysAndRestart :
  (∃ (site : EccSite) (s : State),
    (Instr.eccError site true).ok = true ∧ s.boot.rst = none) ∧
  (∃ (site : EccSite) (one : Bool) (s : State),
    (Instr.eccError site one).ok = true ∧ s.boot.rst ≠ none) ∧
  (∃ (n : NodeId) (ch : Nat) (_ctx _down : Bool) (s : State),
    n.ok = true ∧ ch < 16 ∧ s.boot.rst = none) ∧
  (∃ (n _p _u : Nat) (s : State),
    n < 512 ∧ s.boot.rst = none) ∧
  (∃ (p : Nat) (_vcb _receive : Bool) (s : State),
    p < 6 ∧ s.boot.rst = none) ∧
  (∃ (g : Nat) (s : State),
    g < 4096 ∧ s.boot.rst = none ∧ (s.group g).st ≠ .free) ∧
  (∃ (i g : Nat) (s : State),
    i < 32768 ∧ s.boot.rst = none ∧ (s.obj i).al = true ∧ (s.obj i).gid = some g) ∧
  (∃ (i : Nat) (s : State),
    i < 32768 ∧ s.boot.rst = none ∧ (s.obj i).al = true ∧ (s.obj i).gid = none) ∧
  (∃ (cn g : Nat) (s : State),
    cn < 64 ∧ s.boot.rst = none ∧ (s.cchan cn).bound = some g) ∧
  (∃ (n : Nat) (x : Sched) (s : State),
    n < 512 ∧ s.boot.rst = none ∧ s.sched n = some x) ∧
  (∃ (n : Nat) (s : State),
    n < 4096 ∧ s.boot.rst = none ∧ (s.slot n).soid ≠ none) ∧
  (∃ (site : EccSite) (s : State),
    site.ok = true ∧ s.boot.rst = none ∧
    ((∃ g, site = .group g ∧ (s.group g).st = .free) ∨ (∃ i, site = .object i ∧ (s.obj i).al = false) ∨ (∃ cn, site = .channel cn ∧ (s.cchan cn).bound = none) ∨ (∃ n, site = .sched n ∧ s.sched n = none) ∨ (∃ n, site = .slot n ∧ (s.slot n).soid = none) ∨ ∃ a, site = .free a)) ∧
  (∃ (_a : Nat) (s : State),
    s.boot.rst = none) ∧
  (∃ (k : Int) (_s : State),
    1447 ≤ k ∧ k ≤ 1479) ∧
  (∃ (k : Int) (_s : State),
    (k < 1447 ∨ 1479 < k)) ∧
  (∃ (s : State),
    s.gaf.restart = true) ∧
  (∃ (s : State),
    s.gaf.restart = true ∧ (∀ mb, Parked.commit mb ∉ s.gaf.parked)) ∧
  (∃ (s : State),
    s.gaf.restart = false) :=
    ⟨⟨.group 3, upG,
      by decide +kernel⟩,
    ⟨.group 3, true, {},
      by decide +kernel⟩,
    ⟨.block 63, 15, true, false, up,
      by decide +kernel⟩,
    ⟨511, 0, 0, up,
      by decide +kernel⟩,
    ⟨5, true, false, (up).modLport 5 fun l => { l with up := true, rst := false },
      by decide +kernel⟩,
    ⟨3, upG,
      by decide +kernel⟩,
    ⟨9, 3, upO.modObj 9 fun o => { o with gid := some 3 },
      by decide +kernel⟩,
    ⟨9, upO,
      by decide +kernel⟩,
    ⟨3, 3, upN,
      by decide +kernel⟩,
    ⟨0, sched0, upG.setSched 0 (some sched0),
      by decide +kernel⟩,
    ⟨4095, slotS,
      by decide +kernel⟩,
    ⟨.slot 4095, upO,
      (by decide +kernel), (by decide +kernel), .inr (.inr (.inr (.inr (.inl ⟨4095, rfl, by decide +kernel⟩))))⟩,
    ⟨3, up,
      by decide +kernel⟩,
    ⟨1479, up,
      by decide +kernel⟩,
    ⟨1480, up,
      by decide +kernel⟩,
    ⟨(let s := withTx up { tx1 with committing := some 0 }; { s with gaf := { s.gaf with restart := true, parked := [.commit 4] } }),
      by decide +kernel⟩,
    ⟨{ up with gaf := { up.gaf with restart := true } },
      (by decide +kernel), (fun _ h => nomatch h)⟩,
    ⟨up,
      by decide +kernel⟩⟩

theorem test_w_UnitsReturnToService :
  (∃ (mb : Nat) (u : UnitId) (c : Bool) (s : State),
    serves s mb 0x0608 ∧ unitNamed (payOf s mb) = some (u, c) ∧ outOfService s u c = true ∧ returnOf s u = none) ∧
  (∃ (mb : Nat) (s : State),
    serves s mb 0x0608 ∧ unitNamed (payOf s mb) = none) ∧
  (∃ (mb : Nat) (u : UnitId) (c : Bool) (s : State),
    serves s mb 0x0608 ∧ unitNamed (payOf s mb) = some (u, c) ∧ outOfService s u c = false) ∧
  (∃ (mb : Nat) (u : UnitId) (c : Bool) (s : State),
    serves s mb 0x0608 ∧ unitNamed (payOf s mb) = some (u, c) ∧ outOfService s u c = true ∧ returnOf s u ≠ none) ∧
  (∃ (mb : Nat) (u : UnitId) (c : Bool) (r : UnitRet) (s : State),
    serves s mb 0x0609 ∧ unitNamed (payOf s mb) = some (u, c) ∧ returnOf s u = some r ∧ r.copyB = c) ∧
  (∃ (mb : Nat) (u : UnitId) (c : Bool) (s : State),
    serves s mb 0x0609 ∧ unitNamed (payOf s mb) = some (u, c) ∧ (∀ r, returnOf s u = some r → r.copyB ≠ c)) ∧
  (∃ (u : UnitId) (r : UnitRet) (s : State),
    u.ok = true ∧ returnOf s u = some r ∧ r.shadow = false) ∧
  (∃ (u : UnitId) (r : UnitRet) (s : State),
    u.ok = true ∧ returnOf s u = some r ∧ r.shadow = false ∧ r.notify = none) ∧
  (∃ (u : UnitId) (r : UnitRet) (s : State),
    u.ok = true ∧ returnOf s u = some r ∧ r.shadow = true ∧ r.agree < 4095) ∧
  (∃ (u : UnitId) (r : UnitRet) (s : State),
    u.ok = true ∧ returnOf s u = some r ∧ r.shadow = true ∧ 4095 ≤ r.agree) ∧
  (∃ (u : UnitId) (r : UnitRet) (s : State),
    u.ok = true ∧ returnOf s u = some r ∧ r.shadow = true ∧ 4095 ≤ r.agree ∧ r.notify = none) ∧
  (∃ (u : UnitId) (r : UnitRet) (s : State),
    u.ok = true ∧ returnOf s u = some r ∧ r.shadow = true) ∧
  (∃ (u : UnitId) (r : UnitRet) (s : State),
    u.ok = true ∧ returnOf s u = some r ∧ r.shadow = true ∧ r.notify = none) ∧
  (∃ (u : UnitId) (_b : Bool) (r : UnitRet) (s : State),
    u.ok = true ∧ returnOf s u = some r ∧ r.shadow = true ∧ 256 ≤ r.agree) ∧
  (∃ (u : UnitId) (_b : Bool) (r : UnitRet) (s : State),
    u.ok = true ∧ returnOf s u = some r ∧ r.shadow = true ∧ r.agree < 256) ∧
  (∃ (u : UnitId) (_a _b _c : Bool) (s : State),
    u.ok = true ∧ returnOf s u = none) :=
    ⟨⟨4, .slice 15, false, mail (gone15) 4 0x0608 0 [(0, 8, 6), (8, 8, 255), (16, 16, 15)],
      ⟨by decide +kernel, by decide +kernel⟩, (by decide +kernel), (by decide +kernel), (by decide +kernel)⟩,
    ⟨4, mail (up) 4 0x0608 0 [(0, 8, 99)],
      ⟨by decide +kernel, by decide +kernel⟩, (by decide +kernel)⟩,
    ⟨4, .slice 15, false, mail (up) 4 0x0608 0 [(0, 8, 6), (8, 8, 255), (16, 16, 15)],
      ⟨by decide +kernel, by decide +kernel⟩, (by decide +kernel), (by decide +kernel)⟩,
    ⟨4, .slice 15, false, mail (withRet false 0) 4 0x0608 0 [(0, 8, 6), (8, 8, 255), (16, 16, 15)],
      ⟨by decide +kernel, by decide +kernel⟩, (by decide +kernel), (by decide +kernel), (by decide +kernel)⟩,
    ⟨4, .slice 15, false, ret1 false 0, mail (withRet false 0) 4 0x0609 0 [(0, 8, 6), (8, 8, 255), (16, 16, 15)],
      ⟨by decide +kernel, by decide +kernel⟩, (by decide +kernel), (by decide +kernel), (by decide +kernel)⟩,
    ⟨4, .slice 15, false, mail (gone15) 4 0x0609 0 [(0, 8, 6), (8, 8, 255), (16, 16, 15)],
      ⟨by decide +kernel, by decide +kernel⟩, (by decide +kernel), (fun _ h => nomatch h)⟩,
    ⟨.slice 15, ret1 false 0, withRet false 0,
      by decide +kernel⟩,
    ⟨.slice 15, ret1 false 0, withRet false 0,
      by decide +kernel⟩,
    ⟨.slice 15, ret1 true 4094, withRet true 4094,
      by decide +kernel⟩,
    ⟨.slice 15, ret1 true 4095, withRet true 4095,
      by decide +kernel⟩,
    ⟨.slice 15, ret1 true 4095, withRet true 4095,
      by decide +kernel⟩,
    ⟨.slice 15, ret1 true 9, withRet true 9,
      by decide +kernel⟩,
    ⟨.slice 15, ret1 true 9, withRet true 9,
      by decide +kernel⟩,
    ⟨.slice 15, true, ret1 true 256, withRet true 256,
      by decide +kernel⟩,
    ⟨.slice 15, true, ret1 true 255, withRet true 255,
      by decide +kernel⟩,
    ⟨.slice 15, true, false, true, gone15,
      by decide +kernel⟩⟩

theorem test_w_TheFlashPortWorks :
  (∃ (i : Nat) (r : Record) (a : List Record) (s : State),
    s.boot.rst = none ∧ s.boot.powered = true ∧ s.boot.svcStep ≠ 1 ∧ s.lehr.cur = some (.write i r .fresh) ∧ s.lehr.left ≤ 1 ∧
    s.lehr.ops = [] ∧ s.lehr.held = [] ∧ s.lehr.head = some i ∧ (sectorOf s.lehr i).erased = false ∧
    (sectorOf s.lehr i).recs = a ++ [{ r with torn := true }]) ∧
  (∃ (op : FlashOp) (s : State),
    s.boot.rst = none ∧ s.boot.powered = true ∧ s.boot.svcStep ≠ 1 ∧ s.lehr.cur = some op ∧ 1 < s.lehr.left ∧ s.lehr.ops = [] ∧
    s.lehr.held = []) ∧
  (∃ (op : FlashOp) (r : Record) (h : Nat) (s : State),
    s.boot.rst = none ∧ s.boot.powered = true ∧ s.boot.svcStep ≠ 1 ∧ s.lehr.cur = some op ∧ 1 < s.lehr.left ∧ 1 < opClass op ∧
    s.lehr.ops = [.record r] ∧ s.lehr.held = [] ∧ isFaultKind r.kind = true ∧ logLive s = true ∧ headFits s.lehr (recFrames r) = some h) ∧
  (∃ (i : Nat) (r : Record) (res : FlashEnd) (s : State),
    s.boot.rst = none ∧ s.boot.powered = true ∧ s.boot.svcStep ≠ 1 ∧ res ≠ .ok ∧ s.lehr.cur = some (.write i r .fresh) ∧
    s.lehr.retired.contains i = false ∧ s.flt.synd = []) ∧
  (∃ (op : FlashOp) (res : FlashEnd) (s : State),
    s.boot.rst = none ∧ s.boot.powered = true ∧ s.boot.svcStep ≠ 1 ∧ s.lehr.cur = some op ∧ (res ≠ .ok ∨ s.lehr.left ≤ 1)) ∧
  (∃ (_res : FlashEnd) (s : State),
    s.lehr.cur = none) ∧
  (∃ (k : ConfKind) (d : Nat) (s : State),
    tabGet none s.lehr.due (confNum k) = some d ∧ asked s.lehr (confNum k) = false ∧ s.lehr.noConf = false ∧ s.boot.lehrLimp = false) ∧
  (∃ (k : ConfKind) (s : State),
    (tabGet none s.lehr.due (confNum k) = none ∨ s.lehr.noConf = true)) ∧
  (∃ (s : State),
    s.boot.powered = true ∧ s.lehr.hourStart + hourNs ≤ s.tb) ∧
  (∃ (s : State),
    (s.boot.powered = false ∨ s.tb < s.lehr.hourStart + hourNs)) ∧
  (∃ (rsn bits : Nat) (x : Nat × Record) (s : State),
    logLive s = true ∧ s.lehr.cur = none ∧ s.boot.rst = none ∧ s.boot.powered = true ∧
    ((logRecs s.lehr).find? fun y => y.2.rsn == rsn && y.2.kind != 0 && liveRec s.lehr y) = some x ∧ scrubNext s.lehr = some x.1 ∧ bits = 0) ∧
  (∃ (rsn bits : Nat) (x : Nat × Record) (s : State),
    logLive s = true ∧ s.lehr.cur = none ∧ s.boot.rst = none ∧ s.boot.powered = true ∧
    ((logRecs s.lehr).find? fun y => y.2.rsn == rsn && y.2.kind != 0 && liveRec s.lehr y) = some x ∧ scrubNext s.lehr = some x.1 ∧ 0 < bits ∧
    bits < 3) ∧
  (∃ (rsn bits : Nat) (x : Nat × Record) (s : State),
    logLive s = true ∧ s.lehr.cur = none ∧ s.boot.rst = none ∧ s.boot.powered = true ∧
    ((logRecs s.lehr).find? fun y => y.2.rsn == rsn && y.2.kind != 0 && liveRec s.lehr y) = some x ∧ scrubNext s.lehr = some x.1 ∧ 3 ≤ bits ∧
    bits ≤ 8) ∧
  (∃ (rsn bits : Nat) (x : Nat × Record) (s : State),
    logLive s = true ∧ s.lehr.cur = none ∧ s.boot.rst = none ∧ s.boot.powered = true ∧
    ((logRecs s.lehr).find? fun y => y.2.rsn == rsn && y.2.kind != 0 && liveRec s.lehr y) = some x ∧ scrubNext s.lehr = some x.1 ∧ 8 < bits) ∧
  (∃ (i bits : Nat) (a : Anchor) (s : State),
    logLive s = true ∧ s.lehr.cur = none ∧ s.boot.rst = none ∧ s.boot.powered = true ∧ tabGet none s.lehr.anchors i = some a ∧
    scrubNext s.lehr = some (65536 * i) ∧ bits = 0) ∧
  (∃ (i bits : Nat) (a : Anchor) (s : State),
    logLive s = true ∧ s.lehr.cur = none ∧ s.boot.rst = none ∧ s.boot.powered = true ∧ tabGet none s.lehr.anchors i = some a ∧
    scrubNext s.lehr = some (65536 * i) ∧ 0 < bits ∧ bits < 3) ∧
  (∃ (i bits : Nat) (a : Anchor) (s : State),
    logLive s = true ∧ s.lehr.cur = none ∧ s.boot.rst = none ∧ s.boot.powered = true ∧ tabGet none s.lehr.anchors i = some a ∧
    scrubNext s.lehr = some (65536 * i) ∧ 3 ≤ bits ∧ bits ≤ 8) ∧
  (∃ (i bits : Nat) (a : Anchor) (s : State),
    logLive s = true ∧ s.lehr.cur = none ∧ s.boot.rst = none ∧ s.boot.powered = true ∧ tabGet none s.lehr.anchors i = some a ∧
    scrubNext s.lehr = some (65536 * i) ∧ 8 < bits) ∧
  (∃ (i bits : Nat) (r : Record) (q : List Record) (s : State),
    logLive s = true ∧ s.lehr.cur = none ∧ s.boot.rst = none ∧ s.boot.powered = true ∧ (sectorOf s.lehr i).recs = r :: q ∧
    scrubNext s.lehr = some (sectorBase i) ∧ bits = 0) ∧
  (∃ (i bits : Nat) (r : Record) (q : List Record) (s : State),
    logLive s = true ∧ s.lehr.cur = none ∧ s.boot.rst = none ∧ s.boot.powered = true ∧ (sectorOf s.lehr i).recs = r :: q ∧
    scrubNext s.lehr = some (sectorBase i) ∧ 0 < bits ∧ bits ≤ 8) ∧
  (∃ (i bits : Nat) (r : Record) (q : List Record) (s : State),
    logLive s = true ∧ s.lehr.cur = none ∧ s.boot.rst = none ∧ s.boot.powered = true ∧ (sectorOf s.lehr i).recs = r :: q ∧
    scrubNext s.lehr = some (sectorBase i) ∧ 8 < bits) ∧
  (∃ (i bits : Nat) (s : State),
    logLive s = true ∧ s.lehr.cur = none ∧ s.boot.rst = none ∧ s.boot.powered = true ∧ scrubNext s.lehr = none ∧
    slotValid s (i == 1) = true ∧ (0 < bits ∨ imageDigestOk (slotBytes s.lehr (i == 1)) = false)) ∧
  (∃ (_item : ScrubItem) (_bits : Nat) (s : State),
    (logLive s = false ∨ s.lehr.cur ≠ none ∨ s.boot.rst ≠ none ∨ s.boot.powered = false)) ∧
  (∃ (s : State),
    s.lehr.lastScrub + 24 ≤ s.lehr.hours ∧ logLive s = true) ∧
  (∃ (s : State),
    (s.lehr.hours < s.lehr.lastScrub + 24 ∨ logLive s = false)) ∧
  (∃ (mb : Nat) (s : State),
    serves s mb 0x060A ∧ pby (payOf s mb) 0 1 = 0) ∧
  (∃ (mb : Nat) (s : State),
    serves s mb 0x060A ∧ pby (payOf s mb) 0 1 ≠ 0 ∧ s.boot.lehrLimp = true) ∧
  (∃ (mb : Nat) (s : State),
    serves s mb 0x060A ∧ pby (payOf s mb) 0 1 ≠ 0 ∧ s.boot.lehrLimp = false ∧ (∀ o ∈ s.lehr.ops ++ s.lehr.cur.toList, ∀ m, o ≠ .readFault m)) ∧
  (∃ (mb : Nat) (_res : FlashEnd) (s : State),
    serves s mb 0x060A ∧ s.boot.rst = none ∧ s.boot.powered = true ∧ s.boot.svcStep ≠ 1 ∧ s.lehr.cur = some (.readFault mb) ∧ s.lehr.left ≤ 1) :=
    ⟨⟨3, rc, [], job (.write 3 rc .fresh) 1 (logged { rc with torn := true }),
      by decide +kernel⟩,
    ⟨.write 3 rc .fresh, job (.write 3 rc .fresh) 2 (logged { rc with torn := true }),
      by decide +kernel⟩,
    ⟨.write 3 rc .fresh, rc8, 3, lehr (fun l => { l with ops := [.record rc8] }) (job (.write 3 rc .fresh) 2 (logged { rc with torn := true })),
      by decide +kernel⟩,
    ⟨3, rc, .failed, job (.write 3 rc .fresh) 2 (logged { rc with torn := true }),
      by decide +kernel⟩,
    ⟨.write 3 rc .fresh, .failed, job (.write 3 rc .fresh) 2 (logged { rc with torn := true }),
      by decide +kernel⟩,
    ⟨.ok, up,
      by decide +kernel⟩,
    ⟨.slices, 0, { up with lehr := { up.lehr with due := [(4, some 0)] } },
      by decide +kernel⟩,
    ⟨.slices, up,
      by decide +kernel⟩,
    ⟨{ (up) with tb := hourNs },
      by decide +kernel⟩,
    ⟨{ (up) with tb := hourNs - 1 },
      by decide +kernel⟩,
    ⟨1, 0, (sectorBase 3, rc), logged rc,
      by decide +kernel⟩,
    ⟨1, 2, (sectorBase 3, rc), logged rc,
      by decide +kernel⟩,
    ⟨1, 8, (sectorBase 3, rc), logged rc,
      by decide +kernel⟩,
    ⟨1, 9, (sectorBase 3, rc), logged rc,
      by decide +kernel⟩,
    ⟨0, 0, { rsn := 1 }, anc { rsn := 1 } up,
      by decide +kernel⟩,
    ⟨0, 2, { rsn := 1 }, anc { rsn := 1 } up,
      by decide +kernel⟩,
    ⟨0, 8, { rsn := 1 }, anc { rsn := 1 } up,
      by decide +kernel⟩,
    ⟨0, 9, { rsn := 1 }, anc { rsn := 1 } up,
      by decide +kernel⟩,
    ⟨3, 0, { rc with kind := 0 }, [], logged { rc with kind := 0 },
      by decide +kernel⟩,
    ⟨3, 8, { rc with kind := 0 }, [], logged { rc with kind := 0 },
      by decide +kernel⟩,
    ⟨3, 9, { rc with kind := 0 }, [], logged { rc with kind := 0 },
      by decide +kernel⟩,
    ⟨1, 1, anc { val := 3 } up,
      by decide +kernel⟩,
    ⟨.image 1, 1, {},
      by decide +kernel⟩,
    ⟨{ up with lehr := { up.lehr with hours := 24 } },
      by decide +kernel⟩,
    ⟨{ up with lehr := { up.lehr with hours := 23 } },
      by decide +kernel⟩,
    ⟨4, mail (up) 4 0x060A 0 [],
      ⟨by decide +kernel, by decide +kernel⟩, (by decide +kernel)⟩,
    ⟨4, mail (limp) 4 0x060A 0 [(0, 8, 1)],
      ⟨by decide +kernel, by decide +kernel⟩, (by decide +kernel), (by decide +kernel)⟩,
    ⟨4, mail (up) 4 0x060A 0 [(0, 8, 1)],
      ⟨by decide +kernel, by decide +kernel⟩, (by decide +kernel), (by decide +kernel), (fun _ h => nomatch h)⟩,
    ⟨4, .ok, mail (job (.readFault 4) 1 up) 4 0x060A 0 [(0, 8, 1)],
      ⟨by decide +kernel, by decide +kernel⟩, (by decide +kernel), (by decide +kernel), (by decide +kernel), (by decide +kernel),
      (by decide +kernel)⟩⟩

theorem test_w_FirmwareSecurityAndTenants :
  (∃ (mb : Nat) (_mem : List Byte) (s : State),
    serves s mb 0x060D ∧ s.boot.lehrLimp = false) ∧
  (∃ (mb : Nat) (_mem : List Byte) (s : State),
    serves s mb 0x060D ∧ s.boot.lehrLimp = true ∧
    (pby (payOf s mb) 8 4 % 65536 ≠ 0 ∨ pby (payOf s mb) 12 4 % 65536 ≠ 0 ∨ pby (payOf s mb) 12 4 = 0 ∨ 2 ^ s.lehr.dlog < pby (payOf s mb) 8 4 + pby (payOf s mb) 12 4)) ∧
  (∃ (mb : Nat) (_mem : List Byte) (s : State),
    serves s mb 0x060D ∧ s.boot.lehrLimp = true ∧ pby (payOf s mb) 8 4 % 65536 = 0 ∧ pby (payOf s mb) 12 4 % 65536 = 0 ∧
    65536 ≤ pby (payOf s mb) 12 4 ∧ pby (payOf s mb) 8 4 + pby (payOf s mb) 12 4 ≤ 2 ^ s.lehr.dlog) ∧
  (∃ (mb : Nat) (mem : List Byte) (st : St) (s : State),
    serves s mb 0x060B ∧ (let n := pby (payOf s mb) 16 4; imageFail s (padTo mem (min n 1048576)) n (bit (payOf s mb) 0) = some st)) ∧
  (∃ (mb : Nat) (mem : List Byte) (s : State),
    serves s mb 0x060B ∧ (let n := pby (payOf s mb) 16 4; let m := padTo mem (min n 1048576); imageFail s m n (bit (payOf s mb) 0) = none)) ∧
  (∃ (mb : Nat) (b : Bool) (s : State),
    serves s mb 0x060C ∧ (pby (payOf s mb) 0 1 == 1) = b ∧ slotValid s b = true) ∧
  (∃ (mb : Nat) (s : State),
    serves s mb 0x060C ∧ slotValid s (pby (payOf s mb) 0 1 == 1) = false) ∧
  (∃ (w : BitVec 32) (u : FwUpd) (a : Nat) (s : State),
    s.boot.rst = none ∧ s.gaf.upd = some u ∧ u.asked = some a ∧ bit w 0 = true ∧ bit w 1 = false) ∧
  (∃ (w : BitVec 32) (u : FwUpd) (a : Nat) (s : State),
    s.boot.rst = none ∧ s.gaf.upd = some u ∧ u.asked = some a ∧ (bit w 0 = false ∨ bit w 1 = true)) ∧
  (∃ (w : BitVec 32) (m : List (BitVec 32)) (s : State),
    s.boot.rst = none ∧ s.gaf.upd = none ∧ booting s 2 = true ∧ s.boot.verdict = none ∧ (false, m) ∈ s.gaf.secOut ∧ bit w 0 = true ∧
    bit w 1 = false) ∧
  (∃ (w : BitVec 32) (m : List (BitVec 32)) (s : State),
    s.boot.rst = none ∧ s.gaf.upd = none ∧ booting s 2 = true ∧ s.boot.verdict = none ∧ (false, m) ∈ s.gaf.secOut ∧
    (bit w 0 = false ∨ bit w 1 = true)) ∧
  (∃ (mb a : Nat) (u : FwUpd) (s : State),
    s.gaf.upd = some u ∧ u.asked = some a ∧ a + 100000000 ≤ s.tb ∧
    ((s.gaf.parked.filter fun p => match p with | .fwUpdate _ => true | _ => false) = [.fwUpdate mb])) ∧
  (∃ (s : State),
    (∀ u a, s.gaf.upd = some u → u.asked = some a → s.tb < a + 100000000)) ∧
  (∃ (ws : List (BitVec 32)) (s : State),
    (Instr.secMb1Transfer ws).ok = true ∧ s.boot.rst = none ∧ ws.length = 64 ∧ (s.mbox 1).full = false) ∧
  (∃ (ws : List (BitVec 32)) (s : State),
    (Instr.secMb1Transfer ws).ok = true ∧ s.boot.rst = none ∧ (ws.length ≠ 64 ∨ (s.mbox 1).full = true)) ∧
  (∃ (y : Bool × List (BitVec 32)) (r : List (Bool × List (BitVec 32))) (s : State),
    takeFirst (fun x => x.1) s.gaf.secOut = some (y, r)) ∧
  (∃ (s : State),
    (∀ x ∈ s.gaf.secOut, x.1 = false)) ∧
  (∃ (mb i : Nat) (s : State),
    serves s mb 0x0606 ∧ pby (payOf s mb) 0 1 = i) :=
    ⟨⟨4, [], mail (up) 4 0x060D 0 [],
      ⟨by decide +kernel, by decide +kernel⟩, (by decide +kernel)⟩,
    ⟨4, [], mail (limp) 4 0x060D 0 [],
      ⟨by decide +kernel, by decide +kernel⟩, (by decide +kernel), (by decide +kernel)⟩,
    ⟨4, [], mail (limp) 4 0x060D 0 [(96, 32, 65536)],
      ⟨by decide +kernel, by decide +kernel⟩, (by decide +kernel), (by decide +kernel), (by decide +kernel), (by decide +kernel),
      (by decide +kernel)⟩,
    ⟨4, [], .range, mail (up) 4 0x060B 0 [],
      ⟨by decide +kernel, by decide +kernel⟩, (by decide +kernel)⟩,
    ⟨4, img, mail (up) 4 0x060B 0 [(128, 32, 68)],
      ⟨by decide +kernel, by decide +kernel⟩, (by decide +kernel)⟩,
    ⟨4, true, mail (anc { val := 3 } up) 4 0x060C 0 [(0, 8, 1)],
      ⟨by decide +kernel, by decide +kernel⟩, (by decide +kernel), (by decide +kernel)⟩,
    ⟨4, mail (up) 4 0x060C 0 [(0, 8, 1)],
      ⟨by decide +kernel, by decide +kernel⟩, (by decide +kernel)⟩,
    ⟨1, upd1, 0, { up with gaf := { up.gaf with upd := some upd1, parked := [.fwUpdate 4] } },
      by decide +kernel⟩,
    ⟨3, upd1, 0, { up with gaf := { up.gaf with upd := some upd1, parked := [.fwUpdate 4] } },
      by decide +kernel⟩,
    ⟨1, [], (let s := stage 2; { s with gaf := { s.gaf with secOut := [(false, [])] } }),
      by decide +kernel⟩,
    ⟨3, [], (let s := stage 2; { s with gaf := { s.gaf with secOut := [(false, [])] } }),
      by decide +kernel⟩,
    ⟨4, 0, upd1, { ({ up with gaf := { up.gaf with upd := some upd1, parked := [.fwUpdate 4] } }) with tb := 100000000 },
      by decide +kernel⟩,
    ⟨{ ({ up with gaf := { up.gaf with upd := some upd1, parked := [.fwUpdate 4] } }) with tb := 99999999 },
      (fun _ _ h h2 => by cases h; cases h2; decide +kernel)⟩,
    ⟨List.replicate 64 0x01, up,
      by decide +kernel⟩,
    ⟨List.replicate 32 0x01, up,
      by decide +kernel⟩,
    ⟨(true, [1, 2]), [], { up with gaf := { up.gaf with secOut := [(true, [1, 2])] } },
      by decide +kernel⟩,
    ⟨{ up with gaf := { up.gaf with secOut := [(false, [1, 2])] } },
      by decide +kernel⟩,
    ⟨4, 2, mail (upD) 4 0x0606 0 [(0, 8, 2)],
      ⟨by decide +kernel, by decide +kernel⟩, (by decide +kernel)⟩⟩

theorem test_w_ProtectionChangesTakeTwoParties :
  (∃ (mb : Nat) (mem : List Byte) (s : State),
    serves s mb 0x0701 ∧ s.grp.prop = none ∧ (let n := pby (payOf s mb) 8 4; n ≤ 8208) ∧
    (let n := pby (payOf s mb) 8 4; let r := padTo mem (min n 8208); sha256 r = leBytes 32 (pby (payOf s mb) 16 32)) ∧
    (let n := pby (payOf s mb) 8 4; let r := padTo mem (min n 8208); recCanon r = true) ∧
    (let n := pby (payOf s mb) 8 4; let r := padTo mem (min n 8208); recPseq r = s.grp.pseq + 1) ∧
    (let n := pby (payOf s mb) 8 4; let r := padTo mem (min n 8208); let u : State := { s with gaf := { s.gaf with serving := none } }; changeFail u r = none)) ∧
  (∃ (mb : Nat) (mem : List Byte) (s : State) (st : St),
    serves s mb 0x0701 ∧ s.grp.prop = none ∧ (let n := pby (payOf s mb) 8 4; n ≤ 8208) ∧
    (let n := pby (payOf s mb) 8 4; let r := padTo mem (min n 8208); sha256 r = leBytes 32 (pby (payOf s mb) 16 32)) ∧
    (let n := pby (payOf s mb) 8 4; let r := padTo mem (min n 8208); recCanon r = true) ∧
    (let n := pby (payOf s mb) 8 4; let r := padTo mem (min n 8208); recPseq r = s.grp.pseq + 1) ∧
    (let n := pby (payOf s mb) 8 4; let r := padTo mem (min n 8208); let u : State := { s with gaf := { s.gaf with serving := none } }; changeFail u r = some st)) ∧
  (∃ (mb : Nat) (mem : List Byte) (s : State),
    serves s mb 0x0701 ∧ s.grp.prop = none ∧
    (let n := pby (payOf s mb) 8 4; let r := padTo mem (min n 8208); 8208 < n ∨ sha256 r ≠ leBytes 32 (pby (payOf s mb) 16 32) ∨ recCanon r = false ∨ recPseq r ≠ s.grp.pseq + 1)) ∧
  (∃ (mb : Nat) (mem : List Byte) (q : Proposal) (s : State),
    serves s mb 0x0701 ∧ s.grp.prop = some q ∧ s.tb < q.expiry ∧ (let n := pby (payOf s mb) 8 4; n ≤ 8208) ∧
    (let n := pby (payOf s mb) 8 4; let r := padTo mem (min n 8208); sha256 r = leBytes 32 (pby (payOf s mb) 16 32)) ∧
    (let n := pby (payOf s mb) 8 4; let r := padTo mem (min n 8208); recCanon r = true) ∧
    (let n := pby (payOf s mb) 8 4; let r := padTo mem (min n 8208); recPseq r = s.grp.pseq + 1) ∧
    (let n := pby (payOf s mb) 8 4; let r := padTo mem (min n 8208); let u : State := { s with gaf := { s.gaf with serving := none } }; changeFail u r = none)) ∧
  (∃ (mb : Nat) (q : Proposal) (s : State),
    serves s mb 0x0702 ∧ s.grp.prop = some q ∧ s.tb < q.expiry ∧ BitVec.ofNat 32 (pby (payOf s mb) 0 4) = q.pseq ∧
    leBytes 32 (pby (payOf s mb) 16 32) = q.digest ∧
    (let u : State := { s with gaf := { s.gaf with serving := none } }; changeFail u q.record = none)) ∧
  (∃ (mb : Nat) (q : Proposal) (s : State) (st : St),
    serves s mb 0x0702 ∧ s.grp.prop = some q ∧ s.tb < q.expiry ∧ BitVec.ofNat 32 (pby (payOf s mb) 0 4) = q.pseq ∧
    leBytes 32 (pby (payOf s mb) 16 32) = q.digest ∧
    (let u : State := { s with gaf := { s.gaf with serving := none } }; changeFail u q.record = some st)) ∧
  (∃ (mb : Nat) (q : Proposal) (s : State),
    serves s mb 0x0702 ∧ s.grp.prop = some q ∧ s.tb < q.expiry ∧
    (BitVec.ofNat 32 (pby (payOf s mb) 0 4) ≠ q.pseq ∨ leBytes 32 (pby (payOf s mb) 16 32) ≠ q.digest)) ∧
  (∃ (mb : Nat) (s : State),
    serves s mb 0x0702 ∧ s.grp.prop = none) ∧
  (∃ (mb : Nat) (q : Proposal) (s : State),
    serves s mb 0x0702 ∧ s.grp.prop = some q ∧ q.expiry ≤ s.tb) ∧
  (∃ (mb : Nat) (q : Proposal) (s : State),
    serves s mb 0x0703 ∧ s.grp.prop = some q ∧ s.tb < q.expiry) ∧
  (∃ (mb : Nat) (s : State),
    serves s mb 0x0703 ∧ s.grp.prop = none) ∧
  (∃ (q : Proposal) (s : State),
    s.grp.prop = some q ∧ q.expiry ≤ s.tb) ∧
  (∃ (s : State),
    (∀ q, s.grp.prop = some q → s.tb < q.expiry)) :=
    ⟨⟨0, rec7, mail (up) 0 0x0701 0 [(64, 32, 48), (128, 256, dig7)],
      ⟨by decide +kernel, by decide +kernel⟩, (by decide +kernel), (by decide +kernel), (by decide +kernel), (by decide +kernel),
      (by decide +kernel), (by decide +kernel)⟩,
    ⟨0, rec1, mail upD 0 0x0701 0 [(64, 32, 48), (128, 256, dig1)], .conflict,
      ⟨by decide +kernel, by decide +kernel⟩, (by decide +kernel), (by decide +kernel), (by decide +kernel), (by decide +kernel),
      (by decide +kernel), (by decide +kernel)⟩,
    ⟨0, [], mail (up) 0 0x0701 0 [],
      ⟨by decide +kernel, by decide +kernel⟩, (by decide +kernel), (by decide +kernel)⟩,
    ⟨0, rec7, prop7, mail (offers up prop7) 0 0x0701 0 [(64, 32, 48), (128, 256, dig7)],
      ⟨by decide +kernel, by decide +kernel⟩, (by decide +kernel), (by decide +kernel), (by decide +kernel), (by decide +kernel),
      (by decide +kernel), (by decide +kernel), (by decide +kernel)⟩,
    ⟨1, prop7, mail (offers up prop7) 1 0x0702 0 [(0, 32, 1), (128, 256, dig7)],
      ⟨by decide +kernel, by decide +kernel⟩, (by decide +kernel), (by decide +kernel), (by decide +kernel), (by decide +kernel),
      (by decide +kernel)⟩,
    ⟨1, prop1, mail (offers upD prop1) 1 0x0702 0 [(0, 32, 1), (128, 256, dig1)], .conflict,
      ⟨by decide +kernel, by decide +kernel⟩, (by decide +kernel), (by decide +kernel), (by decide +kernel), (by decide +kernel),
      (by decide +kernel)⟩,
    ⟨1, prop7, mail (offers up prop7) 1 0x0702 0 [],
      ⟨by decide +kernel, by decide +kernel⟩, (by decide +kernel), (by decide +kernel), (by decide +kernel)⟩,
    ⟨1, mail (up) 1 0x0702 0 [],
      ⟨by decide +kernel, by decide +kernel⟩, (by decide +kernel)⟩,
    ⟨1, prop7, mail ({ (offers up prop7) with tb := 10 }) 1 0x0702 0 [],
      ⟨by decide +kernel, by decide +kernel⟩, (by decide +kernel), (by decide +kernel)⟩,
    ⟨4, prop7, mail (offers up prop7) 4 0x0703 0 [],
      ⟨by decide +kernel, by decide +kernel⟩, (by decide +kernel), (by decide +kernel)⟩,
    ⟨4, mail (up) 4 0x0703 0 [],
      ⟨by decide +kernel, by decide +kernel⟩, (by decide +kernel)⟩,
    ⟨prop7, { (offers up prop7) with tb := 10 },
      by decide +kernel⟩,
    ⟨{ (offers up prop7) with tb := 9 },
      (fun _ h => by cases h; decide +kernel)⟩⟩

theorem test_w_ResetsClearAndKeep :
  (∃ (s : State),
    s.boot.rst ≠ some .cold) ∧
  (∃ (s : State),
    s.boot.rst = some .cold) ∧
  (∃ (s : State),
    s.boot.rst ≠ some .cold ∧ s.boot.rst ≠ some .blk) ∧
  (∃ (s : State),
    s.boot.rst = some .cold ∧ s.boot.powered = true) ∧
  (∃ (_b : Bool) (s : State),
    (s.boot.rst ≠ some .cold ∨ s.boot.powered = false)) ∧
  (∃ (s : State),
    s.boot.rst = some .blk ∧ s.boot.testMode = false) ∧
  (∃ (s : State),
    s.boot.rst = some .blk ∧ s.boot.testMode = true) ∧
  (∃ (s : State),
    s.boot.powered = true) ∧
  (∃ (s : State),
    s.boot.powered = false) ∧
  (∃ (mb : Nat) (op : FlashOp) (s : State),
    serves s mb 0x0607 ∧ s.lehr.cur = some op) ∧
  (∃ (mb : Nat) (s : State),
    serves s mb 0x0607 ∧ s.lehr.cur = none ∧ s.lehr.ops.filter svcKeeps = [] ∧ (s.lehr.held.filter fun h => svcKeeps h.1) = []) ∧
  (∃ (s : State),
    s.boot.svcStep = 4 ∧ (memOut s = false ∨ s.boot.svcSince + 100000 ≤ s.tb) ∧ s.boot.testMode = false) ∧
  (∃ (s : State),
    s.boot.svcStep = 4 ∧ memOut s = true ∧ s.tb < s.boot.svcSince + 100000) ∧
  (∃ (s : State),
    s.boot.svcStep ≠ 4) :=
    ⟨⟨upC,
      by decide +kernel⟩,
    ⟨{},
      by decide +kernel⟩,
    ⟨upC,
      by decide +kernel⟩,
    ⟨{},
      by decide +kernel⟩,
    ⟨true, up,
      by decide +kernel⟩,
    ⟨{ up with boot := { up.boot with rst := some .blk, level := .dark, stage := 0 } },
      by decide +kernel⟩,
    ⟨{ up with boot := { up.boot with rst := some .blk, level := .dark, stage := 0, testMode := true } },
      by decide +kernel⟩,
    ⟨upC,
      by decide +kernel⟩,
    ⟨{ up with boot := { up.boot with powered := false, rst := some .cold } },
      by decide +kernel⟩,
    ⟨4, .write 3 rc .fresh, mail (job (.write 3 rc .fresh) 2 (logged { rc with torn := true })) 4 0x0607 0 [],
      ⟨by decide +kernel, by decide +kernel⟩, (by decide +kernel)⟩,
    ⟨4, mail (upC) 4 0x0607 0 [],
      ⟨by decide +kernel, by decide +kernel⟩, (by decide +kernel), (by decide +kernel), (by decide +kernel)⟩,
    ⟨{ up with boot := { up.boot with svcStep := 4, rst := some .svc } },
      by decide +kernel⟩,
    ⟨withReq ({ up with boot := { up.boot with svcStep := 4, rst := some .svc } }) (rqm 0),
      by decide +kernel⟩,
    ⟨up,
      by decide +kernel⟩⟩

theorem test_w_TheBootRuns :
  (∃ (a : Anchor) (s : State),
    booting s 1 = true ∧ s.lehr.sfdp = true ∧ 25 ≤ s.lehr.dlog ∧ s.lehr.dlog ≤ 28 ∧ anchorOf s = some a) ∧
  (∃ (a : Anchor) (s : State),
    booting s 1 = true ∧ s.lehr.sfdp = true ∧ 25 ≤ s.lehr.dlog ∧ s.lehr.dlog ≤ 28 ∧ anchorOf s = some a ∧ s.flt.bstop = false ∧
    slotValid s a.sel = true ∧ imageHeadOk (slotBytes s.lehr a.sel) = true ∧ imageDigestOk (slotBytes s.lehr a.sel) = true) ∧
  (∃ (s : State),
    booting s 1 = true ∧ s.lehr.sfdp = true ∧ 25 ≤ s.lehr.dlog ∧ s.lehr.dlog ≤ 28 ∧ anchorOf s = none) ∧
  (∃ (s : State),
    booting s 1 = true ∧ (s.lehr.sfdp = false ∨ s.lehr.dlog < 25 ∨ 28 < s.lehr.dlog)) ∧
  (∃ (s : State),
    booting s 1 = false) ∧
  (∃ (r : Nat) (s : State),
    s.lehr.rstHigh = some r ∧ booting s 1 = true ∧ s.lehr.ready = false ∧ r + 20000000 ≤ s.tb) ∧
  (∃ (s : State),
    (s.lehr.ready = true ∨ ∀ r, s.lehr.rstHigh = some r → s.tb < r + 20000000)) ∧
  (∃ (s : State),
    booting s 2 = true ∧ s.boot.verdict = some true) ∧
  (∃ (s : State),
    (booting s 2 = false ∨ s.boot.verdict ≠ some true)) ∧
  (∃ (fails : List (LinkDir × List LaneFail)) (s : State),
    (Instr.trainingWaveEnd fails).ok = true ∧ s.stopped = false ∧ 1 ≤ s.boot.wave ∧ s.boot.wave < 9) ∧
  (∃ (fails : List (LinkDir × List LaneFail)) (s : State),
    (Instr.trainingWaveEnd fails).ok = true ∧ s.stopped = false ∧ s.boot.wave = 9) ∧
  (∃ (fails : List (LinkDir × List LaneFail)) (s : State),
    (Instr.trainingWaveEnd fails).ok = true ∧ (s.boot.wave = 0 ∨ s.stopped = true)) ∧
  (∃ (_failed : BitVec 16) (s : State),
    s.boot.stage = 5 ∧ s.boot.kac = false ∧ s.boot.rst = none) ∧
  (∃ (_failed : BitVec 16) (s : State),
    (s.boot.stage ≠ 5 ∨ s.boot.kac = true ∨ s.boot.rst ≠ none)) :=
    ⟨⟨{ val := 3 }, anc { val := 3 } (stage 1),
      by decide +kernel⟩,
    ⟨{ val := 3 }, lehr (fun l => { l with images := [(0, img)] }) (anc { val := 3 } (stage 1)),
      by decide +kernel⟩,
    ⟨stage 1,
      by decide +kernel⟩,
    ⟨(let s := stage 1; { s with lehr := { s.lehr with sfdp := false } }),
      by decide +kernel⟩,
    ⟨up,
      by decide +kernel⟩,
    ⟨0, { ((let s := stage 1; { s with lehr := { s.lehr with rstHigh := some 0 } })) with tb := 20000000 },
      by decide +kernel⟩,
    ⟨{ ((let s := stage 1; { s with lehr := { s.lehr with rstHigh := some 0 } })) with tb := 19999999 },
      .inr fun _ h => by cases h; decide +kernel⟩,
    ⟨(let s := stage 2; { s with boot := { s.boot with verdict := some true } }),
      by decide +kernel⟩,
    ⟨up,
      by decide +kernel⟩,
    ⟨[], { up with boot := { up.boot with wave := 8, level := .limp } },
      by decide +kernel⟩,
    ⟨[], { up with boot := { up.boot with wave := 9, level := .limp } },
      by decide +kernel⟩,
    ⟨[], up,
      by decide +kernel⟩,
    ⟨0x8000, { up with boot := { up.boot with stage := 5, level := .limp } },
      by decide +kernel⟩,
    ⟨0x8000, up,
      by decide +kernel⟩⟩

theorem test_w_PowerAndInstruments :
  (∃ (_est : Nat) (s : State),
    s.boot.rst = none ∧ s.boot.brake = true) ∧
  (∃ (_est : Nat) (s : State),
    s.boot.rst = none ∧ s.boot.brake = false) ∧
  (∃ (s : State),
    s.boot.brake = true) ∧
  (∃ (s : State),
    s.boot.rst = none ∧ s.boot.brake = true ∧ idleMarver s) ∧
  (∃ (_sram : Nat) (_fail : Option (Nat × Nat)) (s : State),
    testLive s = true) ∧
  (∃ (d : LinkDir) (n : Nat) (_lb : Bool) (_errs : List Nat) (s : State),
    d.link.ok = true ∧ testLive s = true ∧ 128 ≤ n ∧ n ≤ 2 ^ 24) ∧
  (∃ (d : LinkDir) (n : Nat) (_lb : Bool) (_errs : List Nat) (_s : State),
    d.link.ok = true ∧ (n < 128 ∨ 2 ^ 24 < n)) ∧
  (∃ (u : UnitId) (_copyB : Bool) (_n : Nat) (s : State),
    u.ok = true ∧ testLive s = true) ∧
  (∃ (node _src : Nat) (p n : Bool) (s : State),
    node < 75 ∧ testLive s = true ∧ (p || !n) = true) ∧
  (∃ (c : Instr) (s : State),
    testLive s = false ∧ c.ok = true ∧
    ((∃ sram fail, c = .mbistRun sram fail) ∨ (∃ d n lb errs, c = .prbsRun d n lb errs) ∨ (∃ n x y z, c = .caneSweep n x y z) ∨ (∃ u b n, c = .lockstepForce u b n) ∨ ∃ node src p n, c = .errpairForce node src p n)) :=
    ⟨⟨120, { up with boot := { up.boot with brake := true } },
      by decide +kernel⟩,
    ⟨120, up,
      by decide +kernel⟩,
    ⟨{ up with boot := { up.boot with brake := true } },
      by decide +kernel⟩,
    ⟨{ up with boot := { up.boot with brake := true } },
      (by decide +kernel), (by decide +kernel), ⟨by decide +kernel, by decide +kernel⟩⟩,
    ⟨5, some (1, 2), { up with boot := { up.boot with testMode := true } },
      by decide +kernel⟩,
    ⟨d5, 128, true, [1], { up with boot := { up.boot with testMode := true } },
      by decide +kernel⟩,
    ⟨d5, 127, true, [1], { up with boot := { up.boot with testMode := true } },
      by decide +kernel⟩,
    ⟨.slice 15, false, 9, { up with boot := { up.boot with testMode := true } },
      by decide +kernel⟩,
    ⟨74, 5, true, true, { up with boot := { up.boot with testMode := true } },
      by decide +kernel⟩,
    ⟨.lockstepForce (.slice 15) false 9, up,
      (by decide +kernel), (by decide +kernel), .inr (.inr (.inr (.inl ⟨_, _, _, rfl⟩)))⟩⟩

theorem test_w_AStepRunsTheFrontCommand :
  (∃ (c : Instr) (r : List Instr) (s : State),
    s.pending = c :: r) ∧
  (∃ (s : State),
    s.pending = []) ∧
  (∃ (c : Instr) (_s : State),
    c.ok = true) ∧
  (∃ (c : Instr) (_s : State),
    c.ok = false) :=
    ⟨⟨.txBegin, [.txCommit], { up with pending := [.txBegin, .txCommit] },
      by decide +kernel⟩,
    ⟨up,
      by decide +kernel⟩,
    ⟨.txBegin, up,
      by decide +kernel⟩,
    ⟨.linkUp 6, up,
      by decide +kernel⟩⟩

theorem test_w_RomDefaultsServeEightCommands :
  (∃ (mb : Nat) (s : State),
    s.gaf.serving = none ∧ s.gaf.restart = false ∧ s.boot.rst = none ∧ nextMb s = some mb ∧ s.flt.c4 = false ∧ s.flt.bstop = false ∧
    s.boot.level = .limp ∧ s.boot.lehrLimp = true ∧
    (let op := cmdOp (s.mbox mb).cmd; let eight := [0x0001, 0x0703, 0x060A, 0x0604, 0x0607, 0x060B, 0x060C, 0x060D]; op ∉ eight)) ∧
  (∃ (mb : Nat) (s : State),
    s.gaf.serving = none ∧ s.gaf.restart = false ∧ s.boot.rst = none ∧ nextMb s = some mb ∧ s.flt.c4 = false ∧ s.flt.bstop = false ∧
    s.boot.level = .limp ∧ s.boot.lehrLimp = true ∧
    (let op := cmdOp (s.mbox mb).cmd; let eight := [0x0001, 0x0703, 0x060A, 0x0604, 0x0607, 0x060B, 0x060C, 0x060D]; op ∈ eight) ∧
    (∀ i, callerTid s mb = some i → s.grp.resetT.contains i = false)) ∧
  (∃ (mb : Nat) (s : State),
    s.gaf.serving = none ∧ s.gaf.restart = false ∧ s.boot.rst = none ∧ nextMb s = some mb ∧ s.flt.c4 = false ∧ s.flt.bstop = false ∧
    s.boot.level = .limp ∧ s.boot.lehrLimp = true ∧
    (let op := cmdOp (s.mbox mb).cmd; let eight := [0x0001, 0x0703, 0x060A, 0x0604, 0x0607, 0x060B, 0x060C, 0x060D]; op ∈ eight) ∧
    (∀ i, callerTid s mb = some i → s.grp.resetT.contains i = false) ∧
    commonFail { expireTxs s with gaf := { (expireTxs s).gaf with lastT := if 2 ≤ mb then mb else s.gaf.lastT } } mb = none) ∧
  (∃ (mb : Nat) (s : State),
    s.gaf.serving = none ∧ s.gaf.restart = false ∧ s.boot.rst = none ∧ nextMb s = some mb ∧ s.flt.c4 = true ∧ s.flt.bstop = false ∧
    (let op := cmdOp (s.mbox mb).cmd; ¬ (mb = 0 ∧ op = 0x060A))) :=
    ⟨⟨4, (let s := mail (limp) 4 0x0101 0 []; { s with gaf := { s.gaf with serving := none, fwRun := false, rom := true } }),
      by decide +kernel⟩,
    ⟨4, (let s := mail (limp) 4 0x0703 0 []; { s with gaf := { s.gaf with serving := none, fwRun := false, rom := true } }),
      (by decide +kernel), (by decide +kernel), (by decide +kernel), (by decide +kernel), (by decide +kernel), (by decide +kernel),
      (by decide +kernel), (by decide +kernel), (by decide +kernel), (fun _ h => by cases h; decide +kernel)⟩,
    ⟨4, (let s := mail (limp) 4 0x0703 0 []; { s with gaf := { s.gaf with serving := none, fwRun := false, rom := true } }),
      (by decide +kernel), (by decide +kernel), (by decide +kernel), (by decide +kernel), (by decide +kernel), (by decide +kernel),
      (by decide +kernel), (by decide +kernel), (by decide +kernel), (fun _ h => by cases h; decide +kernel), (by decide +kernel)⟩,
    ⟨4,
      (let s := (let s := mail (up) 4 0x0001 0 []; { s with flt := { s.flt with c4 := true } }); { s with gaf := { s.gaf with serving := none } }),
      by decide +kernel⟩⟩

theorem test_w_BlockStopIssuesNothing :
  (∃ (s : State) (i n p ch g mb : Nat) (_ctx : Bool) (_fails : List (LinkDir × List LaneFail)),
    s.flt.bstop = true ∧ i < 16 ∧ n < 512 ∧ p < 6 ∧ ch < 16 ∧ g < 4096 ∧ mb < 72) ∧
  (∃ (s : State) (i n p ch g mb : Nat) (_ctx : Bool) (_fails : List (LinkDir × List LaneFail)),
    s.flt.bstop = true ∧ i < 16 ∧ n < 512 ∧ p < 6 ∧ ch < 16 ∧ g < 4096 ∧ mb < 72 ∧ (s.lport p).vcu.cur = [] ∧
    takeAbort (s.lport p).vcu = none) ∧
  (∃ (s : State) (i n p ch g mb : Nat) (ctx : Bool) (_fails : List (LinkDir × List LaneFail)) (d : LinkDir) (u : Beat) (r : List Beat),
    s.flt.bstop = true ∧ i < 16 ∧ n < 512 ∧ p < 6 ∧ ch < 16 ∧ g < 4096 ∧ mb < 72 ∧ d.link.ok = true ∧ (s.link d).midKey = ctlKey ∧
    (tabGet {} (s.link d).tx (chCtx ch ctx)).ready = u :: r) :=
    ⟨⟨{ upP with flt := { upP.flt with bstop := true } }, 15, 511, 5, 15, 4095, 71, true, [],
      by decide +kernel⟩,
    ⟨{ upP with flt := { upP.flt with bstop := true } }, 15, 511, 5, 15, 4095, 71, true, [],
      by decide +kernel⟩,
    ⟨(let s := (upP).modLink d5 fun l => { l with midKey := ctlKey, tx := [(chCtx 15 true, { ready := [bt] })] }; { s with flt := { s.flt with bstop := true } }),
      15, 511, 5, 15, 4095, 71, true, [], d5, bt, [],
      by decide +kernel⟩⟩

theorem test_w_TheQueueIsFirstInFirstOut :
  (∃ (c : Instr) (s t : State),
    exec c s = .next t) ∧
  (∃ (s t : State),
    step s = .next t) :=
    ⟨⟨.escTimerC3, up, up,
      rfl⟩,
    ⟨up, { (up) with tb := 1 },
      rfl⟩⟩

theorem test_w_TheC4LatchStands :
  (∃ (s t : State),
    latched s = true ∧ s.pending.head? ≠ some .powerOn ∧ step s = .next t) :=
    ⟨{ up with flt := { up.flt with c4 := true } }, { ({ up with flt := { up.flt with c4 := true } }) with tb := 1 },
      (by decide +kernel), (by decide +kernel), rfl⟩

theorem test_w_TablesStayCanonical :
  (∃ (s t : State),
    tablesWf s = true ∧ step s = .next t) :=
    ⟨upC, { (upC) with tb := 1 },
      (by decide +kernel), rfl⟩

end Sys2Proof.Tests
end

section
/-! PROOF. Core ports: accesses to offsets at which no register stands, and writes to registers whose fields are all RO (R170). -/
namespace Sys2Proof.Machine

/-! ## The offsets of the window (Table 6-2) -/

/-- The gaps between the registers of Table 6-2. -/
theorem cpDefined_eq_false_iff (off : Nat) :
    cpDefined off = false ↔ (0x008 ≤ off ∧ off < 0x010) ∨ (0x038 ≤ off ∧ off < 0x040) ∨ (0x058 ≤ off ∧ off < 0x060) ∨
      (0x0B8 ≤ off ∧ off < 0x0C0) ∨ (0x0E8 ≤ off ∧ off < 0x0F0) ∨ 0x118 ≤ off := by
  simp [cpDefined]
  omega

theorem cpReadOnly_iff (off : Nat) :
    cpReadOnly off = true ↔ off < 0x008 ∨ off = 0x078 ∨ off = 0x0B0 ∨ (0x0C0 ≤ off ∧ off < 0x0E0) := by
  simp [cpReadOnly, or_assoc]

/-- A register whose fields are all RO is a register. -/
theorem cpDefined_of_cpReadOnly {off : Nat} (h : cpReadOnly off = true) : cpDefined off = true := by
  rw [cpReadOnly_iff] at h
  by_contra hd
  rw [Bool.not_eq_true, cpDefined_eq_false_iff] at hd
  omega

theorem cpAction_of_not_cpDefined {off : Nat} (h : cpDefined off = false) (we : Bool) : cpAction we off = false := by
  rw [cpDefined_eq_false_iff] at h
  cases we <;> simp [cpAction] <;> omega

theorem cpAction_of_cpReadOnly {off : Nat} (h : cpReadOnly off = true) : cpAction true off = false := by
  rw [cpReadOnly_iff] at h
  simp [cpAction]
  omega

theorem cpRead_of_not_cpDefined {off : Nat} (h : cpDefined off = false) (p : CorePort) (k : Nat) : cpRead p k off = 0 := by
  rw [cpDefined_eq_false_iff] at h
  simp (disch := omega) only [cpRead, if_neg, Bool.and_eq_true, decide_eq_true_eq]

theorem cpWrite_of_not_cpDefined {off : Nat} (h : cpDefined off = false) (p : CorePort) (d : BitVec 64) :
    cpWrite p off d = { p with errAddr := true } := by
  simp [cpWrite, h]

theorem cpWrite_of_cpReadOnly {off : Nat} (h : cpReadOnly off = true) (p : CorePort) (d : BitVec 64) :
    cpWrite p off d = { p with errWro := true } := by
  simp [cpWrite, h, cpDefined_of_cpReadOnly h]

/-! ## What an access changes -/

/-- Byte offsets of whole words within the window name themselves. -/
theorem windowWord_eq_self {off : Nat} (h8 : off % 8 = 0) (hoff : off < 1024) : off / 8 % 128 * 8 = off := by omega

theorem regAccess_write {s : State} {k off : Nat} (d : BitVec 64) (hp : portLive s k = true) (h8 : off % 8 = 0) (hoff : off < 1024)
    (ha : cpAction true off = false) : regAccess s k true off d = s.modPort k fun p => cpWrite p off d := by
  simp [regAccess, windowWord_eq_self h8 hoff, hp, ha]

theorem regAccess_read {s : State} {k off : Nat} (d : BitVec 64) (hp : portLive s k = true) (h8 : off % 8 = 0) (hoff : off < 1024)
    (ha : cpAction false off = false) : regAccess s k false off d =
      s.modPort k fun p => { p with rdata := cpRead p k off, errAddr := p.errAddr || !cpDefined off } := by
  simp [regAccess, windowWord_eq_self h8 hoff, hp, ha]

/-- The frame of an access that changes port k: no other port and nothing outside the ports changes. -/
theorem exec_cpRegWrite_of_modPort {s : State} {k off : Nat} {we : Bool} {d : BitVec 64} {f : CorePort → CorePort} (hk : k < 5120)
    (hf : regAccess s k we off d = s.modPort k f) :
    ∃ t, exec (.cpRegWrite k we off d) s = .next t ∧ t.port k = f (s.port k) ∧ (∀ j, j ≠ k → t.port j = s.port j) ∧
      t = { s with ports := t.ports } := by
  have hnext : exec (.cpRegWrite k we off d) s = .next (s.modPort k f) := by
    rw [← hf]
    exact answer_ok (decide_eq_true hk)
  exact ⟨s.modPort k f, hnext, port_modPort_same s k f, fun _ hj => port_modPort_ne s k f hj, rfl⟩

end Sys2Proof.Machine

open Sys2Proof Sys2Proof.Machine

/-- Settles O18: at a reserved offset no command of its own stands, so the access is the window's plain one, which reads 0 or writes
nothing and marks ADDR; a write to a register that is all RO marks WRO. -/
theorem reservedAndReadOnlyOffsets : Obligations.ReservedAndReadOnlyOffsets := by
  refine ⟨fun k off d s hk hp h8 hoff hres => ⟨?write, ?read⟩, fun k off d s hk hp h8 hoff hro => ?readOnly⟩
  case write =>
    have hacc := regAccess_write d hp h8 hoff (cpAction_of_not_cpDefined hres true)
    simpa only [cpWrite_of_not_cpDefined hres] using exec_cpRegWrite_of_modPort hk hacc
  case read =>
    have hacc := regAccess_read d hp h8 hoff (cpAction_of_not_cpDefined hres false)
    simpa only [cpRead_of_not_cpDefined hres, hres, Bool.not_false, Bool.or_true] using exec_cpRegWrite_of_modPort hk hacc
  case readOnly =>
    have hacc := regAccess_write d hp h8 hoff (cpAction_of_cpReadOnly hro)
    simpa only [cpWrite_of_cpReadOnly hro] using exec_cpRegWrite_of_modPort hk hacc

end

section
/-! PROOF. Gaffer's gate on a serve: the eight commands of ROM defaults (R335) and what the C4 latch leaves (R319, log entry 127). -/
namespace Sys2Proof.Machine

/-! ## Frames of an answer: a message is the host side's alone, an answer changes the mailboxes and what goes out -/

theorem setMsg_eq_host (s : State) (src : Nat) (ip : Bool) (cnt : Nat) :
    setMsg s src ip cnt = { s with host := (setMsg s src ip cnt).host } := by
  unfold setMsg
  split_ifs <;> rfl

theorem msgDue_eq_host (s : State) (src : Nat) : msgDue s src = { s with host := (msgDue s src).host } := by
  unfold msgDue
  split_ifs <;> rfl

/-- An event of a message source changes the host side alone (R152). -/
theorem msgEvent_eq_host (s : State) (src : Nat) : msgEvent s src = { s with host := (msgEvent s src).host } := by
  unfold msgEvent
  split_ifs
  · rfl
  · exact setMsg_eq_host ..
  · rw [msgDue_eq_host, setMsg_eq_host]

@[simp] theorem msgEvent_gaf (s : State) (src : Nat) : (msgEvent s src).gaf = s.gaf := by rw [msgEvent_eq_host]
@[simp] theorem msgEvent_mbox (s : State) (src m : Nat) : (msgEvent s src).mbox m = s.mbox m := by rw [msgEvent_eq_host]; rfl
@[simp] theorem msgEvent_grp (s : State) (src : Nat) : (msgEvent s src).grp = s.grp := by rw [msgEvent_eq_host]
@[simp] theorem msgEvent_boot (s : State) (src : Nat) : (msgEvent s src).boot = s.boot := by rw [msgEvent_eq_host]
@[simp] theorem msgEvent_flt (s : State) (src : Nat) : (msgEvent s src).flt = s.flt := by rw [msgEvent_eq_host]

/-- MB1's response on the sideband leaves everything but the words going out alone (R345). -/
theorem sendMb1_eq_secOut (s : State) (mb : Nat) :
    sendMb1 s mb = { s with gaf := { s.gaf with secOut := (sendMb1 s mb).gaf.secOut } } := by
  unfold sendMb1
  split_ifs <;> rfl

@[simp] theorem sendMb1_serving (s : State) (mb : Nat) : (sendMb1 s mb).gaf.serving = s.gaf.serving := by rw [sendMb1_eq_secOut]
@[simp] theorem sendMb1_mbox (s : State) (mb m : Nat) : (sendMb1 s mb).mbox m = s.mbox m := by rw [sendMb1_eq_secOut]; rfl
@[simp] theorem sendMb1_grp (s : State) (mb : Nat) : (sendMb1 s mb).grp = s.grp := by rw [sendMb1_eq_secOut]
@[simp] theorem sendMb1_boot (s : State) (mb : Nat) : (sendMb1 s mb).boot = s.boot := by rw [sendMb1_eq_secOut]
@[simp] theorem sendMb1_flt (s : State) (mb : Nat) : (sendMb1 s mb).flt = s.flt := by rw [sendMb1_eq_secOut]

section
variable (s : State) (mb : Nat) (st : St) (det : Nat) (data : List Byte)

theorem answered_respond : answered s (respond s mb st det data) mb st det data := by simp [answered, respond]

@[simp] theorem respond_serving : (respond s mb st det data).gaf.serving = s.gaf.serving := by simp [respond]
@[simp] theorem respond_grp : (respond s mb st det data).grp = s.grp := by simp [respond]
@[simp] theorem respond_boot : (respond s mb st det data).boot = s.boot := by simp [respond]
@[simp] theorem respond_flt : (respond s mb st det data).flt = s.flt := by simp [respond]
end

/-! ## The state in which a serve checks its command (R330, R341) -/

theorem closeTx_eq_txs (s : State) (m : Nat) : closeTx s m = { s with gaf := { s.gaf with txs := (closeTx s m).gaf.txs } } := rfl

/-- Discarding the transactions whose second has passed changes the table of transactions alone. -/
theorem expireTxs_eq_txs (s : State) : expireTxs s = { s with gaf := { s.gaf with txs := (expireTxs s).gaf.txs } } := by
  unfold expireTxs
  refine List.foldlRecOn (motive := fun t : State => t = { s with gaf := { s.gaf with txs := t.gaf.txs } }) _ _ rfl fun t ht e _ => ?_
  split
  · split_ifs
    · rw [closeTx_eq_txs, ht]
    · exact ht
  · exact ht

/-- The state in which the serve of mailbox `mb` checks the command: expired transactions gone, the round robin moved on to a tenant's mailbox. -/
def serveState (s : State) (mb : Nat) : State :=
  { expireTxs s with gaf := { (expireTxs s).gaf with lastT := if 2 ≤ mb then mb else s.gaf.lastT } }

section
variable (s : State) (mb : Nat)

theorem serveState_eq_gaf : serveState s mb =
    { s with gaf := { s.gaf with txs := (expireTxs s).gaf.txs, lastT := if 2 ≤ mb then mb else s.gaf.lastT } } := by
  rw [serveState, expireTxs_eq_txs]

@[simp] theorem serveState_serving : (serveState s mb).gaf.serving = s.gaf.serving := by rw [serveState_eq_gaf]
@[simp] theorem serveState_mbox (m : Nat) : (serveState s mb).mbox m = s.mbox m := by rw [serveState_eq_gaf]; rfl
@[simp] theorem serveState_grp : (serveState s mb).grp = s.grp := by rw [serveState_eq_gaf]
@[simp] theorem serveState_boot : (serveState s mb).boot = s.boot := by rw [serveState_eq_gaf]
@[simp] theorem serveState_flt : (serveState s mb).flt = s.flt := by rw [serveState_eq_gaf]

/-- The gate asks for nothing that a serve changes before its checks. -/
@[simp] theorem gate_serveState (m op : Nat) : gate (serveState s mb) m op = gate s m op := by
  simp only [gate, callerTid, serveState_mbox, serveState_grp, serveState_boot, serveState_flt]
end

/-- What the gate turns away fails the common checks with the gate's status and DETAIL 0: it is asked first (R329). -/
theorem commonFail_of_gate {s : State} {mb : Nat} {st : St} (h : gate s mb (cmdOp (s.mbox mb).cmd) = some st) :
    commonFail s mb = some (st, 0) := by
  simp [commonFail, h]

/-! ## What a serve does with the next mailbox's command (R329, R330) -/

section
variable {s : State} {mb : Nat} (hserv : s.gaf.serving = none) (hrestart : s.gaf.restart = false) (hrst : s.boot.rst = none)
  (hnext : nextMb s = some mb)
include hserv hrestart hrst hnext

/-- A serve that may begin ends in an answer to the next mailbox, or takes its command. -/
theorem serveNext_eq : serveNext s = ((commonFail (serveState s mb) mb).elim
    { serveState s mb with gaf := { (serveState s mb).gaf with serving := some mb } }
    fun e => respond (serveState s mb) mb e.1 e.2 []) := by
  have hstate : (if 2 ≤ mb then { expireTxs s with gaf := { (expireTxs s).gaf with lastT := mb } } else expireTxs s) = serveState s mb := by
    rw [serveState_eq_gaf, expireTxs_eq_txs]
    split_ifs <;> rfl
  simp only [serveNext, hserv, hrestart, hrst, hnext, hstate]
  cases commonFail (serveState s mb) mb <;> rfl

/-- A command that passes the common checks is the one being served. -/
theorem exec_mbServeSelect_of_pass (h : commonFail (serveState s mb) mb = none) :
    exec .mbServeSelect s = .next { serveState s mb with gaf := { (serveState s mb).gaf with serving := some mb } } := by
  have hok : exec .mbServeSelect s = .next (serveNext s) := answer_ok (c := .mbServeSelect) rfl
  rw [hok, serveNext_eq hserv hrestart hrst hnext, h, Option.elim_none]

/-- A command that fails a common check is answered with the check's status and DETAIL; groups, level and fault state stand as they did. -/
theorem exec_mbServeSelect_of_fail {st : St} {det : Nat} (h : commonFail (serveState s mb) mb = some (st, det)) :
    ∃ t, exec .mbServeSelect s = .next t ∧ answered s t mb st det [] ∧ t.gaf.serving = none ∧ t.grp = s.grp ∧ t.boot = s.boot ∧
      t.flt = s.flt := by
  have hok : exec .mbServeSelect s = .next (serveNext s) := answer_ok (c := .mbServeSelect) rfl
  rw [serveNext_eq hserv hrestart hrst hnext, h, Option.elim_some] at hok
  have hans := answered_respond (serveState s mb) mb st det []
  rw [answered, serveState_mbox] at hans
  exact ⟨_, hok, hans, by simp [hserv], by simp, by simp, by simp⟩

/-- A command that the gate turns away is answered with the gate's status. -/
theorem exec_mbServeSelect_of_gate {st : St} (h : gate s mb (cmdOp (s.mbox mb).cmd) = some st) :
    ∃ t, exec .mbServeSelect s = .next t ∧ answered s t mb st 0 [] ∧ t.gaf.serving = none ∧ t.grp = s.grp ∧ t.boot = s.boot ∧
      t.flt = s.flt :=
  exec_mbServeSelect_of_fail hserv hrestart hrst hnext (commonFail_of_gate (by simpa using h))
end

/-! ## The gate under the C4 latch and from ROM defaults -/

/-- IF_QUERY, PROT_QUERY, FAULT_READ, ESC_SET, SERVICE_RESET, FW_UPDATE, FW_ACTIVATE and LEHR_WRITE (R335). -/
def romServed : List Nat := [0x0001, 0x0703, 0x060A, 0x0604, 0x0607, 0x060B, 0x060C, 0x060D]

section
variable {s : State} {mb op : Nat}

/-- Once the reset has ended the block stop, the latch lets FAULT_READ of MB0 through and nothing else (R319, log entry 127). -/
theorem gate_of_c4 (hc4 : s.flt.c4 = true) (hbstop : s.flt.bstop = false) :
    gate s mb op = if mb = 0 ∧ op = 0x060A then none else some .denied := by
  simp [gate, hc4, hbstop]

/-- At LIMP from ROM defaults, what is not one of the eight is busy, and of the eight only what a tenant in reset asks for (R335, R378). -/
theorem gate_of_romDefaults (hc4 : s.flt.c4 = false) (hbstop : s.flt.bstop = false) (hlevel : s.boot.level = .limp)
    (hrom : s.boot.lehrLimp = true) :
    gate s mb op = if op ∈ romServed then
      (callerTid s mb).elim none fun i => if s.grp.resetT.contains i then some .busy else none else some .busy := by
  have hgate : gate s mb op = if !romServed.contains op then some .busy else
      (callerTid s mb).elim none fun i => if s.grp.resetT.contains i then some .busy else none := by
    simp only [gate, hc4, hbstop, hlevel, hrom, Bool.false_and, Bool.false_eq_true, if_false, Bool.true_and, romServed]
    cases callerTid s mb <;> rfl
  simpa using hgate

theorem gate_of_romServed (hc4 : s.flt.c4 = false) (hbstop : s.flt.bstop = false) (hlevel : s.boot.level = .limp)
    (hrom : s.boot.lehrLimp = true) (hop : op ∈ romServed)
    (hreset : ∀ i, callerTid s mb = some i → s.grp.resetT.contains i = false) : gate s mb op = none := by
  rw [gate_of_romDefaults hc4 hbstop hlevel hrom, if_pos hop]
  cases h : callerTid s mb with
  | none => rfl
  | some i => rw [Option.elim_some, hreset i h]; rfl
end

end Sys2Proof.Machine

open Sys2Proof Sys2Proof.Machine

/-- Settles O56: each clause is what the gate says of the command, carried through the serve; the first failing check answers, and the gate
is the first check. -/
theorem romDefaultsServeEightCommands : Obligations.RomDefaultsServeEightCommands := by
  intro mb s hserv hrestart hrst hnext
  refine ⟨fun hc4 hbstop hlevel hrom => ⟨fun hop => ?turnedAway, fun hop hreset => ⟨?gateOpen, fun hpass => ?served⟩⟩,
    fun hc4 hbstop hop => ?latched⟩
  case turnedAway =>
    have hgate : gate s mb (cmdOp (s.mbox mb).cmd) = some .busy :=
      (gate_of_romDefaults hc4 hbstop hlevel hrom).trans (if_neg hop)
    obtain ⟨t, hexec, hans, hnone, hgrp, hboot, -⟩ := exec_mbServeSelect_of_gate hserv hrestart hrst hnext hgate
    exact ⟨t, hexec, hans, hnone, hgrp, hboot⟩
  case gateOpen => exact gate_of_romServed hc4 hbstop hlevel hrom hop hreset
  case served => exact ⟨_, exec_mbServeSelect_of_pass hserv hrestart hrst hnext hpass, rfl⟩
  case latched =>
    have hgate : gate s mb (cmdOp (s.mbox mb).cmd) = some .denied := by rw [gate_of_c4 hc4 hbstop, if_neg hop]
    obtain ⟨t, hexec, hans, hnone, hgrp, -, hflt⟩ := exec_mbServeSelect_of_gate hserv hrestart hrst hnext hgate
    exact ⟨t, hexec, hans, hnone, hgrp, hflt⟩

end
